-- ==== Sys2Proof/Word.lean ====
section
/-! DEFINITION. Word.lean: the word types and the two kinds of table every other file uses: `KMap`, a list of keyed
records in rising key order, and `Regs w`, a list of the entries of a register file or of a memory that differ from
zero. Both are plain data, so equal tables are equal lists. -/
namespace Sys2Proof

/-- A byte (00 R6). -/
abbrev Byte := BitVec 8
/-- A 32-bit register or memory word. -/
abbrev Word := BitVec 32
/-- A 64-bit register, address or instruction word. -/
abbrev DWord := BitVec 64

/-- Records under natural-number keys, in rising key order. -/
abbrev KMap (β : Type) := List (Nat × β)

/-- The record under key `k`. -/
def KMap.look {β : Type} : KMap β → Nat → Option β
  | [], _ => none
  | (k', b) :: t, k => if k = k' then some b else KMap.look t k

/-- The table with `b` under key `k`, the order of keys kept. -/
def KMap.put {β : Type} : KMap β → Nat → β → KMap β
  | [], k, b => [(k, b)]
  | (k', b') :: t, k, b =>
    if k < k' then (k, b) :: (k', b') :: t
    else if k = k' then (k, b) :: t
    else (k', b') :: KMap.put t k b

/-- The table without key `k`. -/
def KMap.del {β : Type} : KMap β → Nat → KMap β
  | [], _ => []
  | (k', b') :: t, k => if k = k' then KMap.del t k else (k', b') :: KMap.del t k

/-- Every record changed by `f`, which sees the key. -/
def KMap.mapv {β : Type} (f : Nat → β → β) : KMap β → KMap β
  | [] => []
  | (k, b) :: t => (k, f k b) :: KMap.mapv f t

/-- The keys of the records that satisfy `p`, in rising order. -/
def KMap.keysWhere {β : Type} (p : Nat → β → Bool) : KMap β → List Nat
  | [] => []
  | (k, b) :: t => if p k b then k :: KMap.keysWhere p t else KMap.keysWhere p t

/-- The least number, from `k` on, that is no key; `fuel` bounds the search. -/
def KMap.freeKey {β : Type} (m : KMap β) : Nat → Nat → Nat
  | 0, k => k
  | fuel + 1, k => if (KMap.look m k).isSome then KMap.freeKey m fuel (k + 1) else k

/-- The keys rise strictly. -/
def KMap.sorted {β : Type} : KMap β → Bool
  | [] => true
  | [_] => true
  | (k, _) :: (k', b') :: t => k < k' && KMap.sorted ((k', b') :: t)

/-- A register file or a memory: the entries that differ from zero, in rising key order. -/
abbrev Regs (w : Nat) := List (Nat × BitVec w)

/-- The value under key `k`; zero where no entry stands. -/
def Regs.get {w : Nat} (m : Regs w) (k : Nat) : BitVec w := (KMap.look m k).getD 0#w

/-- The file with `v` under key `k`; a zero is not listed. -/
def Regs.set {w : Nat} (m : Regs w) (k : Nat) (v : BitVec w) : Regs w :=
  if v = 0#w then KMap.del m k else KMap.put m k v

/-- The canonical form: keys rise strictly and no entry is zero. -/
def Regs.wf {w : Nat} (m : Regs w) : Bool := KMap.sorted m && m.all (fun e => e.2 != 0#w)

/-- `f 0`, …, `f (n-1)` applied one after another to `x`, in rising order. -/
def iterate {α : Type} (n : Nat) (f : Nat → α → α) (x : α) : α :=
  (List.range n).foldl (fun a i => f i a) x

/-- The `n` values from key `k` on. -/
def Regs.slice {w : Nat} (m : Regs w) (k n : Nat) : List (BitVec w) :=
  (List.range n).map (fun i => Regs.get m (k + i))

/-- The file with the values of `l` from key `k` on. -/
def Regs.setSlice {w : Nat} (m : Regs w) (k : Nat) : List (BitVec w) → Regs w
  | [] => m
  | v :: t => Regs.setSlice (Regs.set m k v) (k + 1) t

/-- Bits `hi:lo` of a number (00 R12). -/
def bitsOf (x hi lo : Nat) : Nat := (x / 2 ^ lo) % 2 ^ (hi + 1 - lo)

/-- Bit `i` of a number. -/
def bitOf (x i : Nat) : Bool := (x / 2 ^ i) % 2 == 1

/-- A Boolean as 0 or 1. -/
def b2n (b : Bool) : Nat := if b then 1 else 0

/-- The low word of a 64-bit value. -/
def loWord (x : DWord) : Word := x.setWidth 32
/-- The high word of a 64-bit value. -/
def hiWord (x : DWord) : Word := (x >>> 32).setWidth 32
/-- The 64-bit value of a high and a low word. -/
def pairWord (hi lo : Word) : DWord := hi ++ lo

/-- Element `i` of a list that holds an option for absence, `d` beyond its end. -/
def nthD {α : Type} (l : List α) (i : Nat) (d : α) : α := (l[i]?).getD d

end Sys2Proof
end

