-- ==== Sys2Proof/Config.lean ====
section
/-! DEFINITION. Config.lean: what the part fixes, and the free values: what the spec leaves open. A free value is an opaque
constant, applied to the step's stamp and to what it is about; nothing can be proved of which value it is (log entry 2). -/
namespace Sys2Proof.Config

/-- Cores of the package (00 R1). -/
def cores : Nat := 192
/-- Bytes of HBM (00 R1). -/
def hbmBytes : Nat := 768 * 2 ^ 30
/-- The register space's physical base and size (25 R426). -/
def regBase : Nat := 0x000FFF0000000000
/-- Bytes of the register space. -/
def regSize : Nat := 2 ^ 26
/-- The local window's first address (05 R119). -/
def localBase : Nat := 0x01FFFFFF00000000
/-- The stepping code of B0 (23 R412). -/
def stepping : Word := 0xB0#32

/-- Which of `n` enabled agents moves in step `stamp`. -/
opaque pick (stamp n : Nat) : Nat
/-- Ticks of chip time that pass in step `stamp` (00 R2). -/
opaque elapsed (stamp : Nat) : Nat
/-- Whether a group's next instruction has been fetched (09 R219). -/
opaque fetched (stamp gid : Nat) : Bool
/-- Which value a read of register `key` with outstanding writes returns: 0 the newest, others an older one (03 R73,
06 R163). -/
opaque staleRead (stamp key : Nat) : Nat
/-- Whether an L1 copy of a line is still held (10 R236). -/
opaque l1Keeps (stamp line : Nat) : Bool
/-- Whether an access uses an older entry of the TLB (17 R334). -/
opaque tlbOld (stamp page : Nat) : Bool
/-- Whether load `id` of a nonzero alias class has not performed yet (11 R274). -/
opaque loadWaits (stamp id : Nat) : Bool
/-- Which of two allowed bytes a race leaves or returns (10 R241, R251; 11 R267, R274). -/
opaque raceOld (stamp addr : Nat) : Bool
/-- The number under which copies in LLC slices away from a line's home are listed beside those of the cores (11 R279). -/
def llcCore : Nat := 4095
/-- The slice that is a line's home (11 R260). -/
opaque sliceOf (line : Nat) : Nat
/-- Whether a slice drops the lease record of a line (11 R263). -/
opaque leaseDropped (stamp line : Nat) : Bool
/-- Whether a slice already holds the next round while an increment is in progress (20 R369, R371). -/
opaque roundSeen (stamp line : Nat) : Bool
/-- Whether an atomic at core scope or narrower performs in the L1 (05 R128). -/
opaque atomInL1 (stamp line : Nat) : Bool
/-- Whether a running Tarn requantisation of a halted context is abandoned (24 R420). -/
opaque requantDropped (stamp : Nat) : Bool
/-- The slot-to-engine map's digest, for the instances retired when it was built (27 R449): core and unit, 0 to 3 the matrix
units, 4 Cumin. -/
opaque mapDigest (retired : List (Nat × Nat)) : DWord
/-- Whether the fuses and the self-test leave the matrix unit of a quarter alive (27 R449). -/
opaque matrixAlive (core q : Nat) : Bool
/-- Whether every core of a pair survives (27 R449). -/
opaque pairAlive (pair : Nat) : Bool
/-- The device's number on the fabric (23 R412). -/
opaque deviceNumber : BitVec 12
/-- The device serial of the attestation report (27 R447). -/
opaque serial (i : Nat) : Byte
/-- The signature of the device identity key over a digest (27 R447). -/
opaque identitySign (digest : List Byte) (i : Nat) : Byte
/-- The firmware stages that the boot ROM finds: how many, their digests, versions, and whether each verifies (27 R446). -/
opaque bootStages : Nat
/-- Digest byte `i` of boot stage `j`. -/
opaque bootDigest (j i : Nat) : Byte
/-- Whether boot stage `j` passes its checks. -/
opaque bootVerifies (j : Nat) : Bool
/-- The fused security counter. -/
opaque fusedCounter : BitVec 32
/-- The fused digest of the firmware key (27 R446). -/
opaque fusedKey (i : Nat) : Byte
/-- The public key that accompanies a staged image: modulus byte `i` (27 R446). -/
opaque firmwareKey (i : Nat) : Byte
/-- Which of `n` grandmasters heard IEEE 1588 best-master selection chooses (00 R3). -/
opaque bestMaster (stamp n : Nat) : Nat
/-- Whether that selection has come to its choice (00 R3). -/
opaque masterChosen (stamp : Nat) : Bool
/-- What another device has answered to a context sent to it: nothing yet, 0 taken in, else the rule that refused it
(24 R421). -/
opaque migAnswer (stamp ctx : Nat) : Option Nat
/-- What the target of a migration has answered to the load of the context's objects: nothing yet, 0 all loaded, else the rule
that refused one (23 R411, 24 R421). -/
opaque migLoads (stamp ctx : Nat) : Option Nat
/-- The length of a context record and its byte `i`, for a context saved in step `stamp`; the spec gives its contents and no
layout (24 R418). -/
opaque recordLen (stamp ctx : Nat) : Nat
opaque recordByte (stamp ctx i : Nat) : Byte
/-- Whether Ibmir steps chip time forward to a grandmaster that answers late (00 R3). -/
opaque ptpStep (stamp : Nat) : Bool
/-- Telemetry reading `i` at a refresh (27 R451): power in mW, temperature in m°C. -/
opaque reading (stamp i : Nat) : BitVec 64
/-- The peer device of a port and whether a peer is reached without a switch (25 R428). -/
opaque portOfPeer (peer : Nat) : BitVec 3
/-- What host memory that the device never wrote holds is memory's own; whether the host may hold a device line
(25 R425). -/
opaque hostHolds (stamp line : Nat) : Bool
/-- The virtual address at which the context's tables map the bundles of the image with a KEY (17 R333 has bundle fetch need X;
no rule gives the address; log entry 100). -/
opaque bundleVa (key : BitVec 64) : Nat
/-- Result of an operation whose value the spec leaves open. -/
opaque openWord (stamp i : Nat) : Word

end Sys2Proof.Config
end

