-- ==== Sys2Proof/Fields.lean ====
section
/-! DEFINITION. Fields.lean: the fields of each word format of the two instruction sets, of stream instructions, and the
arguments of commands and events. A structure holds the fields of its format that are not reserved (03 R62 to R67,
06 R153 to R156, 22 R385). -/
namespace Sys2Proof

/-- The fields every lane word shares: the switch marker S and the guard GN, GP (03 R62, R71). -/
structure Head where
  s  : Bool
  gn : Bool
  gp : BitVec 3
  deriving DecidableEq, Repr

/-- The R format (03 R62). `mods` holds bits 53:48: absC negC absB negB absA negA. -/
structure RFmt where
  hd   : Head
  fs   : BitVec 3
  sc   : BitVec 4
  cl   : BitVec 2
  mods : BitVec 6
  c    : BitVec 8
  b    : BitVec 8
  a    : BitVec 8
  d    : BitVec 8
  sub  : BitVec 4
  deriving DecidableEq, Repr

/-- The I format (03 R63). `mods` holds bits 49:48: absA negA. -/
structure IFmt where
  hd   : Head
  fs   : BitVec 3
  sc   : BitVec 4
  cl   : BitVec 2
  mods : BitVec 2
  imm  : BitVec 16
  a    : BitVec 8
  d    : BitVec 8
  sub  : BitVec 4
  deriving DecidableEq, Repr

/-- The L format (03 R64). -/
structure LFmt where
  hd  : Head
  imm : BitVec 32
  d   : BitVec 8
  sub : BitVec 4
  deriving DecidableEq, Repr

/-- The M format (03 R65). -/
structure MFmt where
  hd    : Head
  hint  : BitVec 4
  off   : BitVec 16
  ac    : BitVec 4
  scope : BitVec 4
  bx    : BitVec 3
  a     : BitVec 8
  d     : BitVec 8
  sub   : BitVec 4
  deriving DecidableEq, Repr

/-- The B format (03 R66); COND is the constructor. -/
structure BFmt where
  hd  : Head
  x   : BitVec 8
  off : BitVec 24
  deriving DecidableEq, Repr

/-- The Y format (03 R67). -/
structure YFmt where
  hd  : Head
  imm : BitVec 16
  b   : BitVec 8
  a   : BitVec 8
  d   : BitVec 8
  sub : BitVec 4
  deriving DecidableEq, Repr

/-- The general layout of an operation word (06 R153). -/
structure GFmt where
  imm : BitVec 16
  f2  : BitVec 4
  f1  : BitVec 4
  p   : BitVec 3
  c   : BitVec 5
  b   : BitVec 5
  a   : BitVec 5
  d   : BitVec 5
  sub : BitVec 5
  deriving DecidableEq, Repr

/-- The jump layout (06 R154). -/
structure JFmt where
  off : BitVec 20
  nul : BitVec 2
  b   : BitVec 5
  a   : BitVec 5
  d   : BitVec 5
  sub : BitVec 5
  deriving DecidableEq, Repr

/-- The constant layout (06 R155). -/
structure KFmt where
  imm : BitVec 32
  b   : BitVec 5
  a   : BitVec 5
  d   : BitVec 5
  sub : BitVec 5
  deriving DecidableEq, Repr

/-- The cascade layout (06 R156); `ty` is OP - 0x40: 0 FP32, 1 FP16, 2 BF16, 3 s32. -/
structure VFmt where
  op3 : BitVec 5
  op2 : BitVec 5
  op1 : BitVec 5
  wd  : BitVec 5
  wc  : BitVec 5
  ps  : BitVec 4
  cl  : BitVec 2
  xw  : Bool
  mc  : BitVec 2
  mb  : BitVec 2
  ma  : BitVec 2
  wb  : BitVec 5
  wa  : BitVec 5
  wz  : BitVec 5
  ty  : BitVec 2
  deriving DecidableEq, Repr

/-- A stream instruction's dependence mask and its operand, word bits 63:14 (22 R385). -/
structure SFmt where
  dep  : BitVec 8
  opnd : BitVec 50
  deriving DecidableEq, Repr

/-- A partition command: the block's partition, context, tag and arguments, words 1 to 6 (24 R415). -/
structure PCmd where
  part : Nat
  ctx  : Nat
  tag  : BitVec 16
  w1   : DWord
  w2   : DWord
  w3   : DWord
  w4   : DWord
  w5   : DWord
  w6   : DWord
  deriving DecidableEq, Repr

/-- What a remote access does at the home of its bytes (17 R343, 25 R429). -/
inductive RemoteKind where
  /-- read `n` bytes -/
  | read (n : Nat)
  /-- write bytes -/
  | write (bytes : List Byte)
  /-- a 32-bit atomic of sub-operation `sub` (05 R128) -/
  | atomic (sub : Nat) (operand : Word)
  /-- compare and swap of `n` bytes (05 R129) -/
  | cas (n : Nat) (cmp new : DWord)
  /-- make or join a twin of the block (11 R284) -/
  | checkout
  /-- merge the working copy's 4096 bytes, of which lines `bad` are poisoned (11 R285, 26 R438) -/
  | checkin (bytes : List Byte) (bad : List Nat)
  /-- a working copy is discarded: it counts as checked in with no byte changed (20 R375) -/
  | discard
  /-- make or join a twin of a block of host memory at its merge agent; the address is physical (20 R373) -/
  | hostOut
  /-- merge a working copy into a block of host memory at its merge agent (20 R373) -/
  | hostIn (bytes : List Byte) (bad : List Nat)
  /-- a working copy of host memory is discarded (20 R375) -/
  | hostDiscard
  /-- increment a region's counter (20 R369) -/
  | roundInc (region : Nat)
  deriving DecidableEq, Repr

/-- What the remote translation cache holds of a page of 64 KiB of a peer: its number, the physical address there, the level
and the attributes of the peer's leaf, and the accesses that it grants (17 R344, R345). -/
structure PageInfo where
  page : Nat
  base : Nat
  level : Nat
  region : Nat
  rnd : Bool
  mrg : Bool
  so : Bool
  a : Bool
  w : Bool
  r : Bool
  deriving DecidableEq, Repr

/-- What a fabric frame carries (25 R428): a peer's access to this device, the answer to one of ours, or a handshake. -/
inductive FabricMsg where
  /-- access `seq` of `peer`, generation `gen`, at `va` in context `ctx` of this device, by a page that the peer's remote
  translation cache holds, if it does (17 R345) -/
  | request (peer seq gen ctx : Nat) (va : DWord) (kind : RemoteKind) (via : Option PageInfo)
  /-- the answer to our access `seq` to `peer`: a value, or the peer's CAUSE and LEVEL when its walk failed, and the page that
  the access went to -/
  | answer (peer seq gen : Nat) (fault : Option (Nat × Nat)) (bytes : List Byte) (page : Option PageInfo)
  /-- at the reconnection to `peer`: its last write performed here in the old generation, and the results of its last atomics
  (17 R346) -/
  | handshake (peer lastSeq : Nat) (results : List (Nat × DWord))
  deriving DecidableEq, Repr

/-- Where an uncorrectable error strikes (26 R437). -/
inductive ErrSite where
  /-- the 128-byte line at a physical address -/
  | line (pa : Nat)
  /-- the 16-byte sub-bank word `w` of a team half's scratchpad (`tob` = false) or TOB -/
  | localWord (hid : Nat) (tob : Bool) (w : Nat)
  /-- registers, tile-context state, a queued command, Tarn's inner state or an image of a context -/
  | ctxState (ctx : Nat)
  /-- state shared by the contexts of a partition -/
  | shared (part : Nat)
  deriving DecidableEq, Repr

/-- The array kinds telemetry counts corrected errors of (27 R451). -/
inductive ArrayKind where
  | registers | localMemory | l1 | llc | hbm | mere | tarn
  deriving DecidableEq, Repr

/-- What a debugger stops or resumes (06 R167, 05 R117). -/
inductive DebugTarget where
  | group (gid : Nat)
  | tile (hid : Nat)
  deriving DecidableEq, Repr

end Sys2Proof
end

