-- ==== Sys2Proof/Syntax.lean ====
section
/-! DEFINITION. Syntax.lean: the one inductive of the machine's steps, a constructor for each row of
spec/opcode_table.json: the lane instructions (03 to 05, 18), the tile operations (07), the stream instructions (22),
the partition commands (24), and the events of engines, host, ports, Ibmir and debugger, which spec/95 lists as steps of
their own. A constructor of an instruction carries the fields of its word; one of an event carries what the event names. -/
namespace Sys2Proof

/-- A step of the machine. -/
inductive Instr where
  /-- NOP (R74): Lane no-operation, which has no effect. -/
  | nop (f : RFmt)
  /-- IADD (R85): Integer add of two registers, with modifiers and clamp. -/
  | iadd (f : RFmt)
  /-- ISUB (R85): Integer subtract. -/
  | isub (f : RFmt)
  /-- IMUL (R85): Integer multiply, low 32 bits. -/
  | imul (f : RFmt)
  /-- IMAD (R85): Integer multiply-add A*B+C. -/
  | imad (f : RFmt)
  /-- IMULH (R85): High 32 bits of the integer product. -/
  | imulh (f : RFmt)
  /-- IMADW (R85): Widening multiply-add into a lane pair. -/
  | imadw (f : RFmt)
  /-- IMIN (R85): Integer minimum of two registers. -/
  | imin (f : RFmt)
  /-- IMAX (R85): Integer maximum of two registers. -/
  | imax (f : RFmt)
  /-- IABS (R85): Integer absolute value of an s32. -/
  | iabs (f : RFmt)
  /-- IADD_IMM (R85): Integer add with a sign-extended IMM16 (I form 0x30). -/
  | iaddImm (f : IFmt)
  /-- IMUL_IMM (R85): Integer multiply by IMM16 (I form 0x31). -/
  | imulImm (f : IFmt)
  /-- IMIN_IMM (R85): Integer minimum with IMM16 (I form 0x32). -/
  | iminImm (f : IFmt)
  /-- IMAX_IMM (R85): Integer maximum with IMM16 (I form 0x33). -/
  | imaxImm (f : IFmt)
  /-- SHL (R86): Shift left by a register count. -/
  | shl (f : RFmt)
  /-- SHR (R86): Logical shift right by a register count. -/
  | shr (f : RFmt)
  /-- SAR (R86): Arithmetic shift right by a register count. -/
  | sar (f : RFmt)
  /-- SHL_IMM (R86): Shift left by an immediate count. -/
  | shlImm (f : IFmt)
  /-- SHR_IMM (R86): Logical shift right by an immediate count. -/
  | shrImm (f : IFmt)
  /-- SAR_IMM (R86): Arithmetic shift right by an immediate count. -/
  | sarImm (f : IFmt)
  /-- AND (R86): Bitwise AND of registers. -/
  | and (f : RFmt)
  /-- OR (R86): Bitwise OR of registers. -/
  | or (f : RFmt)
  /-- XOR (R86): Bitwise XOR of registers. -/
  | xor (f : RFmt)
  /-- ANDN (R86): Bitwise A AND NOT B. -/
  | andn (f : RFmt)
  /-- AND_IMM (R86): Bitwise AND with a zero-extended IMM16. -/
  | andImm (f : IFmt)
  /-- OR_IMM (R86): Bitwise OR with a zero-extended IMM16. -/
  | orImm (f : IFmt)
  /-- XOR_IMM (R86): Bitwise XOR with a zero-extended IMM16. -/
  | xorImm (f : IFmt)
  /-- ANDN_IMM (R86): Bitwise A AND NOT IMM16. -/
  | andnImm (f : IFmt)
  /-- LOP3 (R86): Three-input logic under an 8-bit truth table. -/
  | lop3 (f : RFmt)
  /-- POPC (R86): Population count. -/
  | popc (f : RFmt)
  /-- CLZ (R86): Count leading zeros. -/
  | clz (f : RFmt)
  /-- BREV (R86): Bit reversal. -/
  | brev (f : RFmt)
  /-- BFX (R87): Bit-field extract, zero- or sign-extended. -/
  | bfx (f : RFmt)
  /-- BFI (R87): Bit-field insert. -/
  | bfi (f : RFmt)
  /-- PRM (R87): Byte permute of C:A. -/
  | prm (f : RFmt)
  /-- SEL (R86): Per-lane select of A or B by a predicate. -/
  | sel (f : RFmt)
  /-- MOV (R88): Move between lane and group-uniform registers. -/
  | mov (f : RFmt)
  /-- ISET (R89): Integer compare of two registers into a predicate. -/
  | iset (f : RFmt)
  /-- ISET_IMM (R89): Integer compare with IMM16 into a predicate. -/
  | isetImm (f : IFmt)
  /-- MOVI (R88): Move a 16-bit immediate, low or high half. -/
  | movi (f : IFmt)
  /-- MOVL (R88): Move a 32-bit immediate to a lane or group-uniform register. -/
  | movl (f : LFmt)
  /-- LEA (R90): Form a 64-bit address in a lane pair. -/
  | lea (f : RFmt)
  /-- XLAT (R91): Fill a translation register from the TLB without faulting. -/
  | xlat (f : MFmt)
  /-- FADD (R92): FP32 add. -/
  | fadd (f : RFmt)
  /-- FSUB (R92): FP32 subtract. -/
  | fsub (f : RFmt)
  /-- FMUL (R92): FP32 multiply. -/
  | fmul (f : RFmt)
  /-- FMA (R92): FP32 fused multiply-add with one rounding. -/
  | fma (f : RFmt)
  /-- FMIN (R93): FP32 minimum. -/
  | fmin (f : RFmt)
  /-- FMAX (R93): FP32 maximum. -/
  | fmax (f : RFmt)
  /-- FSET (R94): FP32 compare into a predicate. -/
  | fset (f : RFmt)
  /-- FRND (R95): Round FP32 to an integral value. -/
  | frnd (f : RFmt)
  /-- FCLASS (R95): Write the class mask of an FP32 value. -/
  | fclass (f : RFmt)
  /-- HADD2 (R96): Packed FP16 or BF16 add. -/
  | hadd2 (f : RFmt)
  /-- HMUL2 (R96): Packed FP16 or BF16 multiply. -/
  | hmul2 (f : RFmt)
  /-- HFMA2 (R96): Packed FP16 or BF16 fused multiply-add. -/
  | hfma2 (f : RFmt)
  /-- HMIN2 (R96): Packed 16-bit minimum. -/
  | hmin2 (f : RFmt)
  /-- HMAX2 (R96): Packed 16-bit maximum. -/
  | hmax2 (f : RFmt)
  /-- PADD4 (R97): Packed 8-bit add. -/
  | padd4 (f : RFmt)
  /-- PMUL4 (R97): Packed 8-bit multiply. -/
  | pmul4 (f : RFmt)
  /-- PMAX4 (R97): Packed 8-bit maximum. -/
  | pmax4 (f : RFmt)
  /-- DOT4 (R98): Four-element 8-bit dot product accumulate. -/
  | dot4 (f : RFmt)
  /-- DOT8 (R98): Eight-element 4-bit dot product accumulate. -/
  | dot8 (f : RFmt)
  /-- DOT4S (R99): Block-scaled 8-bit dot product accumulate. -/
  | dot4s (f : RFmt)
  /-- DOT8S (R99): Block-scaled 4-bit dot product accumulate. -/
  | dot8s (f : RFmt)
  /-- CVT (R100): Convert one element between formats. -/
  | cvt (f : RFmt)
  /-- CVTP (R101): Convert several packed elements at once. -/
  | cvtp (f : RFmt)
  /-- PACK (R102): Pack elements without conversion. -/
  | pack (f : RFmt)
  /-- UNPACK (R102): Unpack elements, zero-extended, into a lane pair. -/
  | unpack (f : RFmt)
  /-- RCP (R103): Correctly rounded reciprocal. -/
  | rcp (f : RFmt)
  /-- RSQ (R103): Correctly rounded reciprocal square root. -/
  | rsq (f : RFmt)
  /-- SQRT (R103): Correctly rounded square root. -/
  | sqrt (f : RFmt)
  /-- EX2 (R103): Correctly rounded power of two. -/
  | ex2 (f : RFmt)
  /-- LG2 (R103): Correctly rounded base-2 logarithm. -/
  | lg2 (f : RFmt)
  /-- SIN (R103): Correctly rounded sine. -/
  | sin (f : RFmt)
  /-- COS (R103): Correctly rounded cosine. -/
  | cos (f : RFmt)
  /-- TANH (R103): Correctly rounded hyperbolic tangent. -/
  | tanh (f : RFmt)
  /-- SHFL (R107): Cross-lane shuffle within the group, counted in wc3. -/
  | shfl (f : RFmt)
  /-- VOTE (R108): Any, all or ballot vote over enabled lanes. -/
  | vote (f : RFmt)
  /-- MATCH (R109): Sort enabled lanes into classes by value. -/
  | matchL (f : RFmt)
  /-- REDX (R110): Tree reduction over enabled lanes into a group-uniform register. -/
  | redx (f : RFmt)
  /-- PLOP_AND (R105): Predicate AND. -/
  | plopAnd (f : RFmt)
  /-- PLOP_OR (R105): Predicate OR. -/
  | plopOr (f : RFmt)
  /-- PLOP_XOR (R105): Predicate XOR. -/
  | plopXor (f : RFmt)
  /-- PLOP_ANDN (R105): Predicate AND NOT. -/
  | plopAndn (f : RFmt)
  /-- PMOV (R105): Predicate move, masked by lane. -/
  | pmov (f : RFmt)
  /-- P2G (R105): Copy a predicate into a group-uniform pair. -/
  | p2g (f : RFmt)
  /-- G2P (R105): Copy a group-uniform pair into a predicate. -/
  | g2p (f : RFmt)
  /-- BRA (R112): Unconditional relative branch. -/
  | bra (f : BFmt)
  /-- BANY (R112): Branch if any enabled lane has the predicate set. -/
  | bany (f : BFmt)
  /-- BALL (R112): Branch if all enabled lanes have the predicate set. -/
  | ball (f : BFmt)
  /-- BNONE (R112): Branch if no enabled lane has the predicate set. -/
  | bnone (f : BFmt)
  /-- CALL (R112): Relative call, writing the return address to a group-uniform pair. -/
  | call (f : BFmt)
  /-- BRX (R113): Jump to an address held in a group-uniform pair. -/
  | brx (f : RFmt)
  /-- RET (R113): Return jump to an address held in a group-uniform pair. -/
  | ret (f : RFmt)
  /-- EXIT (R114): End every enabled lane. -/
  | exit (f : RFmt)
  /-- YIELD (R116): Move the group to the young end of the age order and clear watch. -/
  | yield (f : RFmt)
  /-- MSPLIT (R115): Save em and narrow it by a predicate. -/
  | msplit (f : RFmt)
  /-- MJOIN (R115): Restore em from a group-uniform pair. -/
  | mjoin (f : RFmt)
  /-- BKPT (R117): Breakpoint that stops the group when a debugger is attached. -/
  | bkpt (f : IFmt)
  /-- LD (R124): Load from memory into lane registers. -/
  | ld (f : MFmt)
  /-- ST (R124): Store lane registers to memory. -/
  | st (f : MFmt)
  /-- LDB (R125): Load bounded in rounds on a round-managed page. -/
  | ldb (f : MFmt)
  /-- LDACQ (R126): Load with acquire semantics at its scope. -/
  | ldacq (f : MFmt)
  /-- STREL (R127): Fence followed by a store, acting as a release. -/
  | strel (f : MFmt)
  /-- ATOM (R128): Atomic read-modify-write returning the old value. -/
  | atom (f : MFmt)
  /-- RED (R128): Atomic read-modify-write without a returned value. -/
  | red (f : MFmt)
  /-- ATOMC (R129): Atomic compare and swap. -/
  | atomc (f : MFmt)
  /-- PRF (R130): Prefetch a line into L1 or the LLC. -/
  | prf (f : MFmt)
  /-- LKUP (R135): Look up a key in the team's tag table. -/
  | lkup (f : MFmt)
  /-- TAGSET (R135): Set the tag of a tag-table slot. -/
  | tagset (f : MFmt)
  /-- CKOUT (R134): Check out a 4 KiB merge-attribute block. -/
  | ckout (f : MFmt)
  /-- CKIN (R134): Check in a block and merge changed bytes at the home. -/
  | ckin (f : MFmt)
  /-- ROUND (R133): Fence, then increment a round region's counter. -/
  | round (f : MFmt)
  /-- FENCE (R131): Wait until earlier accesses have reached the scope. -/
  | fence (f : MFmt)
  /-- QFENCE (R132): Enter a fence entry into a set of engine queues. -/
  | qfence (f : MFmt)
  /-- BAR (R139): Team barrier. -/
  | bar (f : YFmt)
  /-- BARM (R140): Barrier among the groups named in a mask. -/
  | barm (f : YFmt)
  /-- BARINIT (R137): Initialise a barrier object. -/
  | barinit (f : YFmt)
  /-- ARRIVE (R137): Arrive at a barrier object, optionally adding pending bytes. -/
  | arrive (f : YFmt)
  /-- WAITB (R138): Block until the barrier phase differs from the given parity. -/
  | waitb (f : YFmt)
  /-- TRYW (R138): Check a barrier phase for a bounded window. -/
  | tryw (f : YFmt)
  /-- WAITC (R141): Wait until an in-flight counter falls to a threshold. -/
  | waitc (f : YFmt)
  /-- DRAIN (R142): Wait until earlier copies of a channel are visible at a scope. -/
  | drain (f : YFmt)
  /-- TRIGGER (R143): Fence at device scope and mark the group triggered. -/
  | trigger (f : YFmt)
  /-- WAITPRED (R143): Block until every predecessor kernel has completed. -/
  | waitpred (f : YFmt)
  /-- CPY (R144): Issue a Clove copy command from lane code. -/
  | cpy (f : YFmt)
  /-- CPYX (R144): Issue an indexed block-gather copy from lane code. -/
  | cpyx (f : YFmt)
  /-- CPYM (R144): Issue a multicast copy to teams of the gang. -/
  | cpym (f : YFmt)
  /-- MKLAY (R147): Create a layout record from a 64-byte image. -/
  | mklay (f : YFmt)
  /-- RMLAY (R147): Free a layout-record handle. -/
  | rmlay (f : YFmt)
  /-- GATE (R148): Hand the team to its tile context. -/
  | gate (f : LFmt)
  /-- REGGROW (R149): Request more lane registers. -/
  | reggrow (f : YFmt)
  /-- REGSHR (R149): Give back lane registers. -/
  | regshr (f : YFmt)
  /-- TRAP (R150): Raise USER_TRAP with a code. -/
  | trap (f : YFmt)
  /-- GETS (R150): Read a special register. -/
  | gets (f : YFmt)
  /-- SETS (R150): Write a special register. -/
  | sets (f : YFmt)
  /-- QFEAT (R150): Read a word of the frozen feature profile. -/
  | qfeat (f : YFmt)
  /-- QPHYS (R150): Read a word of the physical facts of the current place. -/
  | qphys (f : YFmt)
  /-- KVNEW (R355): Create a new empty Tarn sequence. -/
  | kvnew (f : YFmt)
  /-- KVFORK (R355): Fork a sequence, sharing its pages. -/
  | kvfork (f : YFmt)
  /-- KVAPP (R356): Append one row to a sequence, copying on write if shared. -/
  | kvapp (f : YFmt)
  /-- KVMAP (R359): Return frames, positions or generations of blocks or rows. -/
  | kvmap (f : YFmt)
  /-- KVRET (R357): Retire every live row of a tag. -/
  | kvret (f : YFmt)
  /-- KVFREE (R355): Free a sequence and release its pages. -/
  | kvfree (f : YFmt)
  /-- KVCPT (R358): Compact a sequence from its live rows. -/
  | kvcpt (f : YFmt)
  /-- RESULT_LANDS (R23): An outstanding register or counted result lands, lowering its counter and unparking waiting groups. -/
  | resultLands (gid idx : Nat)
  /-- GWCT_RETURN (R263): A global store returns its write completion time and raises gw. -/
  | gwctReturn (gid : Nat)
  /-- WATCHDOG (R224): watch reaches the launch limit and the group traps. -/
  | watchdog (gid : Nat)
  /-- TRYW_TIMEOUT (R138): The 1024-tick window of tryw ends and it completes with false. -/
  | trywTimeout (gid : Nat)
  /-- ROUND_STALL (R125): The stall timeout of a .st bounded load elapses. -/
  | roundStall (gid : Nat)
  /-- ROUND_INCREMENT (R369): A round increment arrives at the counter's home and is applied to every slice. -/
  | roundIncrement (ctx region : Nat)
  /-- ROUND_BROADCAST (R370): A broadcast new round reaches a core and raises its known round. -/
  | roundBroadcast (core ctx region : Nat)
  /-- ROUND_FETCH_ANSWER (R371): A held .st line request is answered once no increment is in progress. -/
  | roundFetchAnswer (gid : Nat)
  /-- REGGROW_GRANT (R226): The register arbiter grants queued requests as registers free. -/
  | reggrowGrant (core quarter : Nat)
  /-- ARBITER_TIMEOUT (R227): The head request waits 2^22 ticks with nothing freed, and a unit is evicted. -/
  | arbiterTimeout (core quarter : Nat)
  /-- GATE_CLOSE (R293): After its commands complete, gret releases and resumes the groups. -/
  | gateClose (hid : Nat)
  /-- BUNDLE_ISSUE (R165): The B0 sequencer executes one bundle and advances pc, npc and nnpc. -/
  | bundleIssue (hid : Nat)
  /-- CNOP (R157): Tile no-operation. -/
  | cnop (f : GFmt)
  /-- CADD (R174): Scalar add. -/
  | cadd (f : GFmt)
  /-- CSUB (R174): Scalar subtract. -/
  | csub (f : GFmt)
  /-- CMUL (R174): Scalar multiply, low 32 bits. -/
  | cmul (f : GFmt)
  /-- CAND (R174): Scalar AND. -/
  | cand (f : GFmt)
  /-- COR (R174): Scalar OR. -/
  | cor (f : GFmt)
  /-- CXOR (R174): Scalar XOR. -/
  | cxor (f : GFmt)
  /-- CSHL (R174): Scalar shift left. -/
  | cshl (f : GFmt)
  /-- CSHR (R174): Scalar logical shift right. -/
  | cshr (f : GFmt)
  /-- CSAR (R174): Scalar arithmetic shift right. -/
  | csar (f : GFmt)
  /-- CMOV (R174): Scalar move. -/
  | cmov (f : GFmt)
  /-- CMOVI (R174): Scalar move of a 32-bit immediate. -/
  | cmovi (f : KFmt)
  /-- CCMP (R175): Scalar compare writing 1 or 0. -/
  | ccmp (f : GFmt)
  /-- CLD (R176): Sequencer load of 32 bits. -/
  | cld (f : GFmt)
  /-- CST (R176): Sequencer store of 32 bits. -/
  | cst (f : GFmt)
  /-- JMP (R178): Tile unconditional jump. -/
  | jmp (f : JFmt)
  /-- JC (R178): Tile conditional jump. -/
  | jc (f : JFmt)
  /-- JAL (R178): Tile jump and link. -/
  | jal (f : JFmt)
  /-- JR (R179): Tile jump to a position held in a register. -/
  | jr (f : GFmt)
  /-- LOOP (R180): Start a hardware-loop level. -/
  | loop (f : JFmt)
  /-- CGETS (R183): Read a context special value. -/
  | cgets (f : GFmt)
  /-- CSETS (R183): Write a context special value. -/
  | csets (f : GFmt)
  /-- GRET (R184): Wait for commands, release and end the gate. -/
  | gret (f : GFmt)
  /-- APSET (R185): Set an address pointer to a local offset. -/
  | apset (f : KFmt)
  /-- APADD (R185): Add a stride or immediate to an address pointer. -/
  | apadd (f : GFmt)
  /-- SDSET (R185): Set a stride register. -/
  | sdset (f : KFmt)
  /-- LCSET (R185): Set a loop count register. -/
  | lcset (f : KFmt)
  /-- APLD (R185): Load a virtual address pointer, optionally filling an xb register. -/
  | apld (f : GFmt)
  /-- VCAS (R188): Three-stage vector cascade over every element. -/
  | vcas (f : VFmt)
  /-- VLD (R191): Load a vector register from memory or an accumulator row. -/
  | vld (f : GFmt)
  /-- VST (R191): Store a vector register to memory or an accumulator row. -/
  | vst (f : GFmt)
  /-- VLDB (R192): Vector load bounded in rounds. -/
  | vldb (f : GFmt)
  /-- VCVT (R193): Convert vector elements between formats. -/
  | vcvt (f : GFmt)
  /-- VRED (R194): Tree reduction of a vector register into a scalar. -/
  | vred (f : GFmt)
  /-- VBCAST (R195): Broadcast a scalar or element across a vector. -/
  | vbcast (f : GFmt)
  /-- VPERM (R195): Permute vector elements by indices. -/
  | vperm (f : GFmt)
  /-- VSEL (R195): Select vector elements by a pattern. -/
  | vsel (f : GFmt)
  /-- TBIND (R201): Bind or unbind a tile handle. -/
  | tbind (f : GFmt)
  /-- SFILL (R203): Append a tile's elements to an operand stream. -/
  | sfill (f : GFmt)
  /-- SDROP (R203): Remove bytes from the head of a stream. -/
  | sdrop (f : GFmt)
  /-- MMA (R204): Matrix multiply-accumulate from the streams. -/
  | mma (f : GFmt)
  /-- MMAZ (R204): Matrix multiply into a zeroed accumulator. -/
  | mmaz (f : GFmt)
  /-- AST (R205): Store an accumulator to a tile. -/
  | ast (f : GFmt)
  /-- ALD (R205): Load an accumulator from a tile. -/
  | ald (f : GFmt)
  /-- AMASK (R303): Apply a Mace mask to an accumulator. -/
  | amask (f : GFmt)
  /-- TSKIP (R305): Test whether a tile is wholly excluded by the structural mask. -/
  | tskip (f : GFmt)
  /-- TRN (R207): Transpose a tile through Anise. -/
  | trn (f : GFmt)
  /-- VGMV (R321): Value-grouped matrix-vector product on Cumin. -/
  | vgmv (f : GFmt)
  /-- TILE_CPY (R209): Clove copy between tile handles. -/
  | tileCpy (f : GFmt)
  /-- TILE_CPYX (R209): Indexed block gather between tile handles. -/
  | tileCpyx (f : GFmt)
  /-- TILE_CPYM (R209): Multicast copy from tile code. -/
  | tileCpym (f : GFmt)
  /-- BFENCE (R198): Close the current batch. -/
  | bfence (f : GFmt)
  /-- BWAIT (R198): Wait until a batch and earlier batches have completed. -/
  | bwait (f : GFmt)
  /-- TILE_QFENCE (R199): Queue fence entry from tile code. -/
  | tileQfence (f : GFmt)
  /-- TILE_DRAIN (R199): Wait for a channel's copies at a scope. -/
  | tileDrain (f : GFmt)
  /-- TILE_ROUND (R200): Increment a region's round once earlier commands complete. -/
  | tileRound (f : GFmt)
  /-- TIMED_COMMAND_RELEASE (R250): The time-sorted buffer releases a command to its channel at its issue time. -/
  | timedCommandRelease (core : Nat)
  /-- CLOVE_COMMAND_COMPLETE (R251): A Clove command finishes its elements and completes, crediting its barrier. -/
  | cloveCommandComplete (core channel : Nat)
  /-- MATRIX_COMMAND_COMPLETE (R275): A matrix-queue command finishes. -/
  | matrixCommandComplete (core quarter : Nat)
  /-- ANISE_COMMAND_COMPLETE (R255): A trn command finishes through Anise. -/
  | aniseCommandComplete (core : Nat)
  /-- CUMIN_COMMAND_COMPLETE (R322): A vgmv command finishes its rows. -/
  | cuminCommandComplete (core : Nat)
  /-- QFENCE_ENTRY_RELEASE (R276): A queue fence entry lets later entries start once earlier ones are visible. -/
  | qfenceEntryRelease (fid : Nat)
  /-- RESIDUE_MISMATCH (R439): A residue check fails and the operation is replayed, or HW_FAILURE is raised. -/
  | residueMismatch (queue : Nat)
  /-- RESOLVE_REPLAY_PATCH (R337): A fault-queue resolution of replay or patch is applied. -/
  | resolveReplayPatch (ctx id : Nat)
  /-- RESOLVE_SKIP (R257): A skip resolution fills the rest of the command. -/
  | resolveSkip (ctx id : Nat)
  /-- RESOLVE_RETRY (R257): A retry resolution restarts the command at element 0. -/
  | resolveRetry (ctx id : Nat)
  /-- RESOLVE_UNRESOLVABLE (R230): An unresolvable resolution sends the fault to containment. -/
  | resolveUnresolvable (ctx id : Nat)
  /-- FAULT_RECORD_WRITE (R443): A waiting fault record is written once the ring has room. -/
  | faultRecordWrite (ctx : Nat)
  /-- KICK (R382): A write to a stream's KICK starts the stream. -/
  | kick (stream : Nat) (va : DWord)
  /-- STREAM_INSTRUCTION_START (R386): A stream instruction starts once its dependences allow. -/
  | streamInstructionStart (stream : Nat)
  /-- LAUNCH (R398): Check a launch record, pin ranges and queue the teams. -/
  | launch (f : SFmt)
  /-- LAUNCH_COMPLETE (R399): A launch completes as a release at device scope. -/
  | launchComplete (launch : Nat)
  /-- XFER (R389): Copy or fill device or host memory. -/
  | xfer (f : SFmt)
  /-- XFER_COMPLETE (R389): An xfer's bytes become visible at its scope. -/
  | xferComplete (stream idx : Nat)
  /-- SIGEV_ADD (R390): Add a value to an event as a release. -/
  | sigevAdd (f : SFmt)
  /-- SIGEV_SET (R390): Set an event to a value as a release. -/
  | sigevSet (f : SFmt)
  /-- WAITEV (R390): Wait until an event reaches a target. -/
  | waitev (f : SFmt)
  /-- TWAIT (R388): Wait for a delay of chip time. -/
  | twait (f : SFmt)
  /-- TWAIT_EXPIRY (R388): The delay of twait elapses. -/
  | twaitExpiry (stream idx : Nat)
  /-- HAND (R392): Hand a range to the host and write a completion value. -/
  | hand (f : SFmt)
  /-- RES (R393): Pin a residency list into the LLC. -/
  | res (f : SFmt)
  /-- RES_RELEASE (R393): Release the pins of an earlier res. -/
  | resRelease (f : SFmt)
  /-- JUMP (R394): Continue the stream at a relative address. -/
  | jump (f : SFmt)
  /-- HALT (R395): Wait for earlier instructions, then halt the stream. -/
  | halt (f : SFmt)
  /-- SNOP (R395): Stream no-operation gathering dependences. -/
  | snop (f : SFmt)
  /-- DISTRIBUTOR_PLACE (R402): The distributor walks its queue and places units that fit. -/
  | distributorPlace (part : Nat)
  /-- UNIT_BLOCKING (R403): A unit passed over for 2^20 ticks blocks and room is gathered. -/
  | unitBlocking (part : Nat)
  /-- CREATE (R416): Create a context from a creation record. -/
  | create (c : PCmd)
  /-- DESTROY (R416): Halt a context and discard its state. -/
  | destroy (c : PCmd)
  /-- LOAD (R409): Check and load a code object into a context. -/
  | load (c : PCmd)
  /-- UNLOAD (R411): Drop a context's reference to a loaded object. -/
  | unload (c : PCmd)
  /-- PREEMPT (R417): Halt contexts and write their images. -/
  | preempt (c : PCmd)
  /-- RESUME (R419): Restore a halted context from its images. -/
  | resume (c : PCmd)
  /-- SPILL (R418): Move a halted context's images from Mere to the image area. -/
  | spill (c : PCmd)
  /-- MIGOUT (R421): Halt a context and send it to a target device. -/
  | migout (c : PCmd)
  /-- MIGIN (R421): Receive a migrated context and restore it. -/
  | migin (c : PCmd)
  /-- SHOOTDOWN (R338): A write of a shootdown slot starts a shootdown. -/
  | shootdown (slot : Nat) (base : DWord) (what : DWord)
  /-- SHOOTDOWN_COMPLETE (R339): Every agent has acknowledged and the tag is written to the completion register. -/
  | shootdownComplete (slot : Nat)
  /-- HANDOVER_KICK (R341): The host hands a range to the device and signals an event. -/
  | handoverKick (base : DWord) (what : DWord)
  /-- REQUANTISATION_KICK (R360): A kick asks Tarn to requantise a page. -/
  | requantisationKick (ctx : Nat) (word : DWord)
  /-- REQUANT_SWAP (R360): Tarn swaps in the requantised frame or abandons it. -/
  | requantSwap (ctx : Nat)
  /-- PORT_CONFIG (R427): A write to a port register retrains the port. -/
  | portConfig (port : Nat) (w0 w1 : DWord)
  /-- PORT_RETRAINED (R427): Retraining ends and the new port settings take effect. -/
  | portRetrained (port : Nat)
  /-- PTP_FRAME (R427): An IEEE 1588 frame reaches Ibmir's client. -/
  | ptpFrame (port : Nat) (time : DWord)
  /-- FABRIC_FRAME (R428): A fabric-mode frame carrying remote accesses arrives. -/
  | fabricFrame (port : Nat) (msg : FabricMsg)
  /-- LINK_FAILURE (R345): A remote access stays unacknowledged for 2^26 ticks and the generation advances. -/
  | linkFailure (peer : Nat)
  /-- PEER_RESET (R345): A peer resets or powers down and its generation advances. -/
  | peerReset (peer : Nat) (down : Bool)
  /-- LINK_RECONNECT (R346): The reconnection handshake reconciles unacknowledged writes. -/
  | linkReconnect (peer lastSeq : Nat) (results : List (Nat × DWord))
  /-- LOCH_FRAME (R430): A Loch frame is matched to a stream and delivered to a queue. -/
  | lochFrame (port : Nat) (bytes : List Byte)
  /-- LOCH_ENTRY_COMPLETE (R433): A ring entry becomes visible, TAIL rises and credits are given. -/
  | lochEntryComplete (queue : Nat)
  /-- BIND (R434): Bind a Loch queue to a barrier object. -/
  | bind (gid queue : Nat) (offset : DWord)
  /-- UNBIND (R434): Unbind a Loch queue. -/
  | unbind (gid queue : Nat)
  /-- CXL_MEM_READ (R425): A host read of device memory at the home slice. -/
  | cxlMemRead (pa n : Nat)
  /-- CXL_MEM_WRITE (R425): A host write to device memory at the home slice. -/
  | cxlMemWrite (pa : Nat) (bytes : List Byte)
  /-- HOST_SNOOP (R423): A host CXL.cache snoop is served by the LLC. -/
  | hostSnoop (pa : Nat)
  /-- HOST_LINK_LOST (R423): A surprise removal or CXL link failure is fatal to every context. -/
  | hostLinkLost
  /-- UNCORRECTABLE_ERROR (R437): An uncorrectable error marks poison or kills state. -/
  | uncorrectableError (site : ErrSite)
  /-- CORRECTABLE_ERROR (R437): A correctable error is corrected and counted. -/
  | correctableError (kind : ArrayKind)
  /-- ATTEST (R447): Return a signed attestation report. -/
  | attest (tag : BitVec 16) (nonce : List Byte)
  /-- UPDATE (R448): Verify a staged firmware image and switch to it. -/
  | update (tag : BitVec 16) (image signature : List Byte) (version : Nat)
  /-- UPDATE_WINDOW_END (R448): The new firmware reports ready, or the 5 ms window expires and Ibmir reverts. -/
  | updateWindowEnd (ready : Bool)
  /-- POWER_CAP (R450): Set the module power cap. -/
  | powerCap (tag : BitVec 16) (watts : Nat)
  /-- CLOCK_STEP (R450): Ibmir lowers or raises the clock by one 75 MHz step for a cap or temperature. -/
  | clockStep (up : Bool)
  /-- CRITICAL_TEMPERATURE (R450): A temperature beyond the critical limit raises HW_FAILURE in every context. -/
  | criticalTemperature
  /-- TELEMETRY_REFRESH (R451): Ibmir refreshes the telemetry block every 1 ms. -/
  | telemetryRefresh
  /-- COLD_RESET (R452): Bring-up after a cold reset. -/
  | coldReset
  /-- GRANDMASTER_TIMEOUT (R3): No grandmaster answers within 2^33 ticks and chip time is loaded with zero. -/
  | grandmasterTimeout
  /-- REGISTER_WRITE (R426): A write to a register-space field that has no row of its own. -/
  | registerWrite (offset : Nat) (value : DWord)
  /-- CHIP_TIME_REACHES_GW (R131): A fence at device scope or wider, including the fence inside strel, round or trigger, ends once chip time reaches gw, and later memory instructions may then perform. -/
  | chipTimeReachesGw (gid : Nat)
  /-- RANGES_RESIDENT (R398): The last line of a res list or of a launch's residency ranges becomes resident in the LLC, which completes the res or lets the launch queue its teams. -/
  | rangesResident (stream idx : Nat)
  /-- LINK_NOT_RESTORED (R346): A failed link is not restored within 2^26 ticks, and its unacknowledged stores and atomics are reported with OUTCOME 1. -/
  | linkNotRestored (peer : Nat)
  /-- PARTITION_DESCRIPTOR_WRITE (R413): A host request to Ibmir writes a partition descriptor, which Ibmir accepts or refuses under the sharing limits. -/
  | partitionDescriptorWrite (part : Nat) (w0 w1 w2 w3 : DWord)
  /-- DEBUGGER_STOP (R167): An attached debugger stops a group, or stops a tile context between bundles, putting it in the stopped state. -/
  | debuggerStop (target : DebugTarget)
  /-- DEBUGGER_RESUME (R117): The debugger resumes, or single-steps, a group or tile context that it stopped, including a group stopped at BREAKPOINT. -/
  | debuggerResume (target : DebugTarget) (single : Bool)
  /-- DEBUGGER_ATTACH (R117): A debugger attaches to a context or detaches from it, which changes whether bkpt stops the group. -/
  | debuggerAttach (ctx : Nat) (on : Bool)
  /-- BACK_INVALIDATION_ANSWER (R425): The host's answer to a back-invalidation snoop arrives, and the device write waiting at the home slice performs. -/
  | backInvalidationAnswer (idx : Nat)
  /-- SAVETIME_PASSED (R421): The target device's chip time exceeds every SAVETIME of a migrated context, and its first group may issue. -/
  | savetimePassed (ctx : Nat)
  deriving DecidableEq, Repr

end Sys2Proof
end

