-- ==== Sys2Proof/Machine/State.lean ====
section
/-! DEFINITION. State.lean: every piece of state the spec gives the machine, as plain data, and the machine right after
reset. Agents stand in tables under numbers: a group under its gid, a team half (a whole team when it is not paired) under
its hid, a core under 0 to 191, a quarter under core × 4 + quarter. -/
namespace Sys2Proof.Machine

/-- Why a step stops. None is raised by an instruction of a program on ordinary data. -/
inductive Fault where
  /-- The event names an agent, a queue, a record or a slot that does not exist now; raised by the events of engines,
  host and ports. Safe: no such event happens in that state. -/
  | noAgent (what : String)
  /-- The event's own condition does not hold in this state (a result that is not outstanding, a window that has not
  elapsed). Safe: the spec lets the event happen only when its condition holds. -/
  | notEnabled (what : String)
  /-- The agent that the instruction would run on is not executing: no group, tile context or stream is current. Safe. -/
  | noCurrent
  deriving DecidableEq, Repr

/-- Why a step is refused. -/
inductive Refusal where
  /-- An arm of `exec` that has no meaning yet. Safe. -/
  | notModelled (mnemonic : String)
  deriving DecidableEq, Repr

/-! ### Pages and translation registers -/

/-- A leaf entry's page: the page's va and size, and the leaf's fields (17 R332). -/
structure Leaf where
  va : Nat
  size : Nat
  frame : Nat
  lease : Nat
  region : Nat
  rnd : Bool
  mrg : Bool
  so : Bool
  x : Bool
  a : Bool
  w : Bool
  r : Bool
  rem : Bool
  deriving DecidableEq, Repr

/-- A translation register `bxN` or `xbN` (01 R21): LIMIT, VBASE, and the held leaf, which gives PERM, ATTR, the frame and
the region. -/
structure Bx where
  limit : Word
  perm : BitVec 4
  attr : BitVec 2
  vbase : DWord
  leaf : Option Leaf
  deriving DecidableEq, Repr

/-- The register invalid, as at group start (01 R13). -/
def Bx.invalid : Bx := ⟨0#32, 0#4, 0#2, 0#64, none⟩

/-- An entry of a core's TLB, tagged with its context; or, where `up` names a level, an entry of that level which the core's
walkers cache: `leaf` then gives the addresses it serves and, as its frame, the next table (17 R334). -/
structure TlbEnt where
  core : Nat
  ctx : Nat
  leaf : Leaf
  up : Option Nat
  deriving DecidableEq, Repr

/-! ### Layout records -/

/-- A layout record (10 R247): format code, tile order, sizes and strides of its dimensions. -/
structure Layout where
  fmt : Nat
  ndim : Nat
  tord : Nat
  size : List Nat
  stride : List Int
  deriving DecidableEq, Repr

/-- A layout record under a handle: the record, and the allocation recorded at `mklay` (05 R147). -/
structure LayHandle where
  lay : Layout
  base : Nat
  len : Nat
  deriving DecidableEq, Repr

/-! ### Groups -/

/-- What a blocked group waits for (09 R219). -/
inductive Blk where
  /-- `bar` (05 R139) -/
  | bar
  /-- `barm` of an episode with a mask (05 R140) -/
  | barm (ep mask : Nat)
  /-- `waitb` on an object of half `hid` at `off`, until the phase differs from the parity (05 R138) -/
  | waitb (hid off : Nat) (parity : Bool)
  /-- `tryw` with its result register and the chip time its window ends (05 R138) -/
  | tryw (hid off : Nat) (parity : Bool) (kd : Nat) (until_ : Nat)
  /-- `drain` of a channel: its scope and the commands it waits for (05 R142) -/
  | drain (scope : Nat) (cmds : List Nat)
  /-- `waitpred` (05 R143) -/
  | waitpred
  /-- `gate` (12 R288) -/
  | gate
  /-- `reggrow` of an amount, with its destination (05 R149) -/
  | reggrow (amt d : Nat)
  /-- an issue that cannot happen yet, made again when the group is next chosen: a counter at 255 (01 R23), a full copy
  buffer (10 R250), `regshr` (05 R149), a memory instruction behind a pending fence (05 R131) -/
  | issue
  deriving DecidableEq, Repr

/-- The scheduling states of 09 R219 but `stopped`, which stands beside them. -/
inductive Sched where
  | ready
  | marker
  | counter (c thr : Nat)
  | blocked (b : Blk)
  | parked
  | exited
  deriving DecidableEq, Repr

/-- Outstanding register writes that land together (01 R23, 03 R72, R73): on counter `path`, or covered by the marker.
`olds` are the values before the write, by register key; `wait` names the operation that has still to perform, `keys` the
registers whose values it has still to bring, nothing lands before chip time `due` (18 R354), and `id` is the number of the
memory instruction it belongs to, 0 for any other. -/
structure Landing where
  path : Option Nat
  wait : Option Nat
  olds : List (Nat × DWord)
  due : Nat
  keys : List Nat
  id : Nat
  deriving DecidableEq, Repr

/-- A fault of a group, a tile context or a command: the four fault words (26 R436, 17 R336, 10 R256), the instruction
address or operation index, and the unfinished mask. -/
structure FaultRec where
  w0 : DWord
  w1 : DWord
  w2 : DWord
  w3 : DWord
  at_ : DWord
  mask : DWord
  deriving DecidableEq, Repr

/-- A memory instruction that has issued and has lanes to perform (05 R121, 12 R296): its address and word, the lanes,
their va and operand data, when it issued, the failure of the lowest lane that a peer refused (17 R344), whether
containment has it replayed (09 R232), the known round by lane with which a bounded load has looked up its line (11 R282),
and the lanes that have failed, or stand above one that has where the page is strongly ordered (17 R335). -/
structure HeldI where
  id : Nat
  pc : DWord
  instr : Instr
  lanes : DWord
  va : Regs 64
  data : Regs 128
  time : Nat
  bad : Option (Nat × FaultRec)
  again : Bool
  kr : KMap Word
  lost : DWord
  deriving DecidableEq, Repr

/-- What a pending fence does when it ends (05 R127, R133, R143, 18 R354). -/
inductive FenceAct where
  | nothing
  /-- perform the held memory instruction `id` -/
  | perform (id : Nat)
  /-- send a round increment of a region -/
  | round (region : Nat)
  | trigger
  deriving DecidableEq, Repr

/-- A fence that has issued and not ended (05 R131); `seq` is the number of the first command issued after it, whose reads
follow it (05 R146, R151). -/
structure PFence where
  scope : Nat
  act : FenceAct
  seq : Nat
  deriving DecidableEq, Repr

/-- A lane group (01 R13, R28, R29; 09 R217, R219); `reports` are the losses of stores that its next issue delivers
(17 R346), `rem` the answers of a peer to the reads of a layout image (05 R147), and `hostW` counts the stores to host memory
that the host has not completed (05 R131, 25 R424). -/
structure Group where
  hid : Nat
  idx : Nat
  slot : Nat
  width : Nat
  n : Nat
  pc : DWord
  v : Regs 32
  g : Regs 32
  k : Regs 64
  em : DWord
  live : DWord
  bx : KMap Bx
  wc : Regs 8
  fm : Word
  fx : Regs 32
  gw : DWord
  latchT : DWord
  latchG : DWord
  migrations : Word
  watch : Word
  sched : Sched
  mark : Bool
  stopped : Bool
  single : Bool
  triggered : Bool
  landings : List Landing
  fences : List PFence
  gwPend : List DWord
  held : List HeldI
  recent : List (Nat × Nat × Nat × Byte)
  fault : Option FaultRec
  reports : List FaultRec
  rem : KMap DWord
  hostW : Nat
  retries : Regs 8
  age : Nat
  killed : Bool
  deriving DecidableEq, Repr

/-! ### Team halves and tile contexts -/

/-- A stream `q` (07 R202): its ring value, and the bytes it holds counted from reset of the ring. -/
structure StreamQ where
  ring : Word
  head : Nat
  tail : Nat
  deriving DecidableEq, Repr

/-- An outstanding result of the tile context (06 R163): bundles still to issue, and the register's old value, the 512
bytes of a vector register as one number. -/
structure TLanding where
  left : Nat
  key : Nat
  old : Nat
  deriving DecidableEq, Repr

/-- An active loop level (07 R180): start and end positions in the image, its nesting order, how many iterations beyond
the current one have been decided on, and by how much `lc` has been lowered ahead of the ends of iterations (06 R165). -/
structure LoopLv where
  start : Nat
  end_ : Nat
  order : Nat
  left : Nat
  back : Nat
  deriving DecidableEq, Repr

/-- A recorded fault of a tile context (12 R290, R291), with the number of the queued command at fault, if any; a synchronous
one is of an operation (`what` = 0), of a bundle's fetch (1), or of a store of a bundle that has issued before (2). -/
structure TFault where
  kind : Nat
  slot : Nat
  opindex : Nat
  cmd : Nat
  frec : FaultRec
  what : Nat
  deriving DecidableEq, Repr

/-- A tile context (01 R30). Vector registers are bytes under 512 × register + byte; accumulators are FP32 words under
8192 × accumulator + 128 × row + column. `after` is the bundle that follows `nnpc`, decided when `nnpc` was fetched, and
`queued` counts the steps a taken branch's target still waits at `nnpc` or `npc` (06 R165); `rem` holds the answers of
peers to the accesses of the bundle at `pc` (17 R344); `gw` is the largest completion time of its stores (11 R263). -/
structure Tile where
  index : Nat
  c : Regs 32
  ap : Regs 64
  xb : KMap Bx
  lc : Regs 32
  sd : Regs 32
  w : Regs 8
  t : Regs 64
  acc : Regs 32
  q : KMap StreamQ
  cfm : Word
  cfmNext : List (Nat × Word)
  cfx : Word
  batch : Word
  batchOpen : List Nat
  batches : List (Word × List Nat)
  valid : Bool
  pc : Nat
  npc : Nat
  nnpc : Nat
  after : Nat
  queued : Nat
  rem : KMap DWord
  an0 : Bool
  an1 : Bool
  loops : KMap LoopLv
  lands : List TLanding
  latchT : DWord
  gw : Nat
  grant : Nat
  migrations : Word
  stopped : Bool
  single : Bool
  closing : Bool
  fault : Option TFault
  later : List TFault
  deriving DecidableEq, Repr

/-- One entry of a gate layout map (12 R289, 23 R406). -/
structure MapEnt where
  handle : Nat
  lo : Nat
  hi : Nat
  lay : Layout
  deriving DecidableEq, Repr

/-- A gate while it is open (12 R288): the L-format immediate, the map, the groups in rank order, and their `em`. -/
structure GateSt where
  imm : Word
  map : List MapEnt
  ranks : List Nat
  ems : List (Nat × DWord)
  deriving DecidableEq, Repr

/-- A half of a team, or a whole unpaired team (09 R215 to R218; 10 R235, R242); `tileFree` and `banksFree` say that its tile
context and its banks have returned, and `finishing` are the matrix commands that ran when it was told to halt (24 R417);
`leaving` is 1 while it halts for an eviction and 2 while it halts for a move (09 R227, 22 R403); `ringOld` are the values
that TOB bytes of a stream had before a racing store, by offset (10 R241), and `cover` is as in `State`, by word, those of the
TOB from 2^40 on (26 R437). -/
structure Half where
  launch : Nat
  ctx : Nat
  team : Nat
  half : Nat
  paired : Bool
  core : Nat
  quarter : Nat
  banks : List Nat
  spadBanks : Nat
  tobBanks : Nat
  spad : Regs 8
  tob : Regs 8
  ringOld : KMap Byte
  spadPoison : List Nat
  tobPoison : List Nat
  cover : KMap (KMap Nat)
  tagOff : Nat
  tagEnt : Nat
  tagOrder : KMap (List Nat)
  bar : List Nat
  barm : KMap (Nat × List Nat)
  gateArr : List (Nat × Word × DWord)
  gate : Option GateSt
  tile : Option Tile
  retries : Regs 8
  pending : Option (Nat × FaultRec)
  tileFree : Bool
  banksFree : Bool
  finishing : List Nat
  start : Nat
  leaving : Nat
  deriving DecidableEq, Repr

/-! ### Engine commands -/

/-- Who issued a command (11 R259). -/
inductive Issuer where
  | group (gid : Nat)
  | tile (hid : Nat)
  deriving DecidableEq, Repr

/-- Where the bytes of a command's side lie: the local window of a half, the lane registers of an open gate (with the
group ranks of the map entry), or the virtual space of a context. -/
inductive Space where
  | loc (hid : Nat)
  | regs (hid lo hi : Nat) (ranks : List Nat)
  | virt (ctx core : Nat)
  deriving DecidableEq, Repr

/-- A side of a copy: its space, base, layout and the handle number that a fault names. -/
structure Side where
  space : Space
  base : Nat
  lay : Layout
  handle : Nat
  deriving DecidableEq, Repr

/-- A queued command with everything it captured at issue (05 R146, 07 R196). -/
inductive Cmd where
  /-- a copy: mode, scale byte or side-stream offset, source, destinations, block indices of `cpyx` -/
  | copy (mode scale : Nat) (src : Side) (dsts : List (Nat × Side)) (idx : Option (List Nat))
  /-- `sfill` into stream `q` -/
  | fill (src : Side) (q : Nat)
  /-- `mma` or `mmaz` -/
  | mma (zero : Bool) (acc qa qb f1 f2 : Nat)
  /-- `ast` with saturation -/
  | ast (acc : Nat) (dst : Side) (sat : Bool)
  | ald (acc : Nat) (src : Side)
  /-- `amask` with the origins and the four parameter words -/
  | amask (acc : Nat) (qp kc : Word) (w : List DWord)
  | sdrop (q n : Nat)
  /-- `trn` with the source dimension of each destination dimension -/
  | trn (dst src : Side) (perm : List Nat)
  | vgmv (dst src x : Side) (rows : Nat)
  /-- a fence entry (11 R276) -/
  | qfence (fid scope : Nat)
  /-- a tile `round`: it follows commands `ids`, and stores visible at `gw` (07 R200) -/
  | round (region gw : Nat) (ids : List Nat)
  /-- a Loch entry: the frame, its times and stream id (25 R433) -/
  | loch (port : Nat) (time seq : DWord) (sid : Nat) (bytes : List Byte) (slot : Nat)
  deriving DecidableEq, Repr

/-- An entry of an engine queue: the command, its issuer, barrier, issue time, the elements it has done, its recorded fault,
the portable index of its operation (the address of a lane instruction) and its slot, whether it is a `cpym`, the replays of
R439, the answers of peers to its reads, the largest completion time of its writes, and how its rest is dealt with: 0
performed, 1 left undone as ignore does, 2 filled with `fill`; `pos` is its place in its queue when it was last saved, from 1
on (11 R275; 10 R250, R257; 09 R231; 12 R298; 24 R419; 25 R429). -/
structure QEnt where
  id : Nat
  ctx : Nat
  launch : Nat
  issuer : Issuer
  fm : Word
  cmd : Cmd
  bar : Option (Nat × Nat)
  time : DWord
  done : Nat
  fault : Option FaultRec
  opindex : Nat
  slot : Nat
  cast : Bool
  replays : Nat
  buf : KMap DWord
  gw : Nat
  skip : Nat
  fill : Word
  pos : Nat
  deriving DecidableEq, Repr

/-- A command that has completed and whose writes are not yet visible wider: its queue, its launch, and when they are
(05 R142, 22 R399). -/
structure DoneCmd where
  id : Nat
  core : Nat
  channel : Nat
  launch : Nat
  gwct : DWord
  deriving DecidableEq, Repr

/-! ### Device memory -/

/-- What an L1 copy holds by: a lease, or the round it was filled in (11 R261, R279). -/
inductive Tag where
  | lease (until_ : Nat)
  | round (t : Word) (ctx region : Nat)
  deriving DecidableEq, Repr

/-- A copy of a global line: the core whose L1 holds it, or `Config.llcCore` for a slice of the LLC away from the line's home;
line number (physical address ÷ 128), bytes and tag; `old` where a release at pair scope has overtaken it, so that the next
acquire at that scope drops it (10 R236; 11 R271, R279); `barred` are the cores that a copy away from the home serves no
more: they have written the line, or read a later value of it (11 R264, R265). -/
structure L1Copy where
  core : Nat
  line : Nat
  bytes : Regs 8
  tag : Tag
  old : Bool
  barred : List Nat
  deriving DecidableEq, Repr

/-- An increment on its way to a round counter: the group that sent it, if one of this device did, its number, and whether it
has begun (20 R369). -/
structure Inc where
  gid : Option Nat
  id : Nat
  begun : Bool
  deriving DecidableEq, Repr

/-- A new round on its way to a core, which it reaches before chip time `until_` (20 R370). -/
structure Bcast where
  core : Nat
  ctx : Nat
  region : Nat
  round : Word
  until_ : Nat
  deriving DecidableEq, Repr

/-- A twin of a checked-out block at its merge agent (11 R284): its bytes and the check-outs not yet checked in. -/
structure Twin where
  bytes : Regs 8
  outs : Nat
  deriving DecidableEq, Repr


/-- The pins of one `res` or launch (22 R393, R398). -/
structure PinSet where
  ctx : Nat
  stream : Nat
  list : Nat
  launch : Option Nat
  lines : List Nat
  deriving DecidableEq, Repr

/-! ### Streams and launches -/

/-- A launch record (22 R396). -/
structure LaunchRec where
  code : Nat
  kernel : Nat
  gx : Nat
  gy : Nat
  gz : Nat
  width : Nat
  groups : Nat
  lanes : Nat
  regmax : Nat
  regs : Nat
  nres : Nat
  gang : Nat
  paired : Bool
  tilectx : Bool
  acc : Nat
  tob : Nat
  banks : Nat
  wdog : Nat
  prio : Nat
  polctx : Nat
  polgrid : Nat
  polteam : Nat
  polgrp : Nat
  tagoff : Nat
  tagent : Nat
  resptr : Nat
  argptr : DWord
  profile : Nat
  deriving DecidableEq, Repr

/-- A launch from its start to its completion (22 R398 to R400). -/
structure Launch where
  ctx : Nat
  stream : Nat
  idx : Nat
  lr : LaunchRec
  early : Bool
  preds : List Nat
  queued : Bool
  triggered : List Nat
  killed : Bool
  complete : Bool
  image : Nat
  entry : Nat
  codeBase : Nat
  deriving DecidableEq, Repr

/-- A placement unit in a distributor's queue: launch, first team index and number of teams, when it joined, whether it
blocks, and the hids of a unit that is saved in Mere (22 R401 to R403, 09 R227). -/
structure PUnit where
  launch : Nat
  first : Nat
  count : Nat
  joined : Nat
  blocking : Bool
  saved : List Nat
  deriving DecidableEq, Repr

/-- What a stream instruction that has not completed waits for. -/
inductive SWait where
  /-- not started: its word or its first data met a fault, or are on their way (22 R383) -/
  | fetch
  | launch (lid : Nat)
  /-- an `xfer`: source, destination, length, the pattern of a fill, its scope, the bytes moved, and the largest completion
  time of its writes (22 R389) -/
  | xfer (src dst len : Nat) (fill : Option Word) (scope off gw : Nat)
  /-- a `waitev`: event and target (22 R390) -/
  | event (ev : Nat) (target : Word)
  | time (until_ : Nat)
  | resident
  | halt
  deriving DecidableEq, Repr

/-- A stream instruction that has not completed: its number and address, what it waits for, whether its fault is in
service, and the words that it has read once for all: its own, its record's, and a peer's answers to the reads of an `xfer`
(22 R383, R386, R396; 17 R344). -/
structure SIns where
  idx : Nat
  va : DWord
  wait : SWait
  fault : Bool
  buf : KMap DWord
  deriving DecidableEq, Repr

/-- A stream (22 R381, R382): its control block, the number of its next instruction and of the first one of the kick, and
the instructions that have not completed. -/
structure Stream where
  ctx : Nat
  state : Nat
  code : Nat
  field : Nat
  killed : Bool
  lost : Bool
  errpc : DWord
  pc : DWord
  count : Nat
  base : Nat
  ins : List SIns
  deriving DecidableEq, Repr

/-! ### Contexts -/

/-- A round region (20 R367). -/
structure Region where
  cntva : DWord
  v : Bool
  bcast : Bool
  tmo : Nat
  deriving DecidableEq, Repr

/-- The Tarn configuration record (18 R348). -/
structure TarnCfg where
  seqbase : Nat
  descbase : Nat
  rowbase : Nat
  blkbase : Nat
  retbase : Nat
  nseq : Nat
  npage : Nat
  maxblk : Nat
  elem : Nat
  defenc : Nat
  rows : Nat
  nullframe : Nat
  kbase0 : Nat
  vbase0 : Nat
  nframe0 : Nat
  kbase1 : Nat
  vbase1 : Nat
  skbase1 : Nat
  svbase1 : Nat
  nframe1 : Nat
  deriving DecidableEq, Repr

/-- A pin of a frame: encoding and frame, the group, the number of the first command issued after it, and the commands its
release waits for (18 R353). -/
structure Pin where
  enc : Nat
  frame : Nat
  gid : Nat
  since : Nat
  released : Bool
  cmds : List Nat
  deriving DecidableEq, Repr

/-- A requantisation in progress (18 R360). -/
structure Requant where
  desc : Nat
  enc : Nat
  frame : Nat
  gen : Nat
  refcnt : Nat
  oldEnc : Nat
  oldFrame : Nat
  deriving DecidableEq, Repr

/-- A record of the fault queue (26 R442) with what its resolution acts on, whether it has been written to the ring, and
whether it waited in the internal buffer (26 R441). -/
structure FQRec where
  id : Nat
  cls : Nat
  source : Nat
  unit : Nat
  cmd : Nat
  place : DWord
  time : DWord
  frec : FaultRec
  written : Bool
  buffered : Bool
  deriving DecidableEq, Repr

/-- A context's fault-queue block (26 R441). -/
structure FaultQ where
  base : DWord
  logn : Nat
  vector : Nat
  head : DWord
  tail : DWord
  fill : Word
  badresp : Word
  absorbed : Word
  nextId : Word
  recs : List FQRec
  held : List (Nat × Nat)
  deriving DecidableEq, Repr

/-- The context record of a halted context: its length, and whether it is in Mere or in the image area, and where there
(24 R418). -/
structure CtxRec where
  len : Nat
  inMere : Bool
  off : Nat
  deriving DecidableEq, Repr

/-- A context (24 R416): what its creation record gave it and what lives for it; `agents` are the merge agents of the working
copies that it brought from another device: device and context there, 4096 × device + context (20 R375). -/
structure Ctx where
  part : Nat
  troot : Nat
  tarn : Option TarnCfg
  pins : List Pin
  kicks : List DWord
  requant : List Requant
  regions : KMap Region
  winBase : Nat
  winCount : Nat
  mergedev : Nat
  streams : List Nat
  signing : Bool
  keys : List (List Byte)
  profile : Regs 32
  imgBase : Nat
  imgLen : Nat
  layouts : KMap LayHandle
  handles : KMap (Nat × Nat × Nat)
  events : Regs 32
  fq : FaultQ
  halted : Bool
  killed : Bool
  waitSave : List DWord
  record : Option CtxRec
  agents : KMap Nat
  deriving DecidableEq, Repr

/-- A loaded image (23 R410): the object's hash, the bundle words from image offset 0 up, the list index of each bundle,
the routines, what the object holds for launches (maps, layouts, kernels and the code section's offset), and the virtual
address at which the context's tables map the bundles, which the spec does not give (log entry 100). -/
structure Image where
  hash : List Byte
  key : DWord
  words : List DWord
  index : List (Nat × Nat)
  routines : List Nat
  maps : List (List MapEnt)
  kernels : List (LaunchRec × Nat)
  codeOff : Nat
  bundleVa : Nat
  deriving DecidableEq, Repr

/-- A partition descriptor (24 R413). -/
structure Partition where
  pairs : BitVec 96
  hbmLen : Nat
  hbmBase : Nat
  mere : Nat
  llc : Nat
  deriving DecidableEq, Repr

/-- A saved half: its groups, its residue by queue code, its requests for registers, when it was saved, the step in which
its groups got their ages (0 for none), whether it is in Mere or in the image area, and where there (12 R294, 24 R418,
R419). -/
structure Saved where
  hid : Nat
  half : Half
  groups : KMap Group
  residue : List (Nat × QEnt)
  grow : List (Nat × Nat × Nat)
  time : DWord
  aged : Nat
  inMere : Bool
  off : Nat
  deriving DecidableEq, Repr

/-! ### Ports, peers and the management core -/

/-- A fabric port's register, and what it keeps of the frames it has delivered: how many, and the TIME of the last (25 R427,
R431). -/
structure Port where
  etype : Nat
  off : Nat
  mask : Word
  shift : Nat
  pfc : Bool
  mode : Nat
  badfcs : Word
  unmatched : Word
  training : Option (DWord × DWord)
  seq : DWord
  table : Regs 32
  last : Nat
  deriving DecidableEq, Repr

/-- A Loch queue block (25 R432, R434). -/
structure Loch where
  base : DWord
  ctx : Nat
  slotlog : Nat
  nslot : Nat
  head : DWord
  tail : DWord
  bind : Option (Nat × Nat)
  bindWord : DWord
  held : Nat
  overflow : Word
  faults : Word
  trunc : Word
  entries : List QEnt
  deriving DecidableEq, Repr

/-- A remote access not yet acknowledged (17 R345, R346): what it is, at
which address there and here, who waits for it, and when it went out. -/
structure RemAcc where
  seq : Nat
  peer : Nat
  gen : Nat
  ctx : Nat
  pctx : Nat
  va : DWord
  lva : Nat
  kind : RemoteKind
  gid : Option Nat
  hold : Nat
  lane : Nat
  time : Nat
  deriving DecidableEq, Repr

/-- An entry of the remote translation cache: context, window, peer with its generation, and the page (17 R345). -/
structure RemPage where
  ctx : Nat
  window : Nat
  peer : Nat
  gen : Nat
  info : PageInfo
  deriving DecidableEq, Repr

/-- What is known of a peer device (17 R345, R346): link generation, whether it is reachable, the cause of the last loss and
when it was; of the peer's own accesses in its generation, the last write performed here, the results of its last atomics, and
the writes that it may not know to have performed: context and address. -/
structure Peer where
  gen : Word
  up : Bool
  cause : Nat
  since : Nat
  lastSeq : Nat
  performed : List (Nat × DWord)
  wrote : List (Nat × Nat)
  deriving DecidableEq, Repr

/-- A context on its way to another partition or device (24 R421): the partition and context it leaves, the target device and
partition, the context with its streams, launches, queued units, images, working copies with their poisoned lines, and known
rounds, and the KEYs of the images with an open gate by half (12 R294, R299), the hashes of its loaded images, the device that
it leaves and the numbers that it uses, which are the model's own, from `base` to below `top`; and the target's answer: 0
taken in, else the rule that refused it. -/
structure Migration where
  origin : Nat
  source : Nat
  device : Nat
  part : Nat
  ctx : Ctx
  streams : KMap Stream
  launches : KMap Launch
  units : List PUnit
  saved : List Saved
  works : KMap (Regs 8)
  marks : List Nat
  kr : Regs 32
  keys : KMap DWord
  hashes : KMap (List Byte)
  from_ : Nat
  base : Nat
  top : Nat
  answer : Option Nat
  deriving DecidableEq, Repr

/-- What waits for the end of a firmware update's window (27 R448). -/
inductive IbmirReq where
  /-- a configuration write of the register space -/
  | write (off : Nat) (value : DWord)
  | partition (part : Nat) (w0 w1 w2 w3 : DWord)
  | attest (tag : BitVec 16) (nonce : List Byte)
  | update (tag : BitVec 16) (image signature : List Byte) (version : Nat)
  | cap (tag : BitVec 16) (watts : Nat)
  deriving DecidableEq, Repr

/-- Ibmir (27 R445 to R452): measurements, security counter, cap, clock, mailbox completion, report, telemetry, corrected
errors, the update whose window is open (digest, version, tag, start) and what waits for its end, how far bring-up and
chip time have come (00 R3); the digest of the firmware that an update has put in place, for the next boot to find; the
instances retired since the slot-to-engine map was built, and those retired in the map (00 R5; 26 R439; 27 R449); the
grandmasters heard, by port: the time that each gave, and when (00 R3). -/
structure Ibmir where
  ready : Bool
  recovery : Bool
  meas : List (List Byte)
  counter : Nat
  cap : Nat
  clock : Nat
  mbox : DWord
  report : List Byte
  telemetry : List Nat
  errors : Regs 64
  update : Option (List Byte × Nat × BitVec 16 × Nat)
  held : List IbmirReq
  booted : Bool
  synced : Bool
  stepped : Bool
  contextsMade : Bool
  firmware : Option (List Byte)
  retired : List (Nat × Nat)
  map : List (Nat × Nat)
  masters : KMap (Nat × Nat)
  deriving DecidableEq, Repr

/-- What the device has sent (25 R428; 26 R443): a frame to a peer, an MSI-X vector; and for a migration, the load of an object
on another device's partition (23 R411). -/
inductive Out where
  | frame (port : Nat) (msg : FabricMsg)
  | load (device part : Nat) (hash : List Byte)
  | msix (vector : Nat)
  deriving DecidableEq, Repr

/-- Which agent moves. -/
inductive Turn where
  /-- a queued command performs some of its elements: its queue, its number, and how many steps at most (11 R275) -/
  | part (k id n : Nat)
  /-- an arrival on its way to the object at `off` of half `hid` is applied there (05 R137, 15 R315) -/
  | arrival (hid off : Nat)
  /-- the host, or an I/O agent, writes `bytes` to its own memory at `pa` (11 R259) -/
  | hostWrite (pa : Nat) (bytes : List Byte)
  /-- a group's memory instructions that wait to perform go on (11 R274) -/
  | perform (gid : Nat)
  /-- the next increment of the region with key context × 256 + region begins (20 R369) -/
  | roundBegin (k : Nat)
  /-- the host has completed a store of a group (25 R424) -/
  | hostDone (gid : Nat)
  /-- a quarter issues (09 R220) -/
  | quarter (core q : Nat)
  /-- a tile context issues a bundle (06 R165) -/
  | tile (hid : Nat)
  /-- a stream starts an instruction (22 R386) -/
  | stream (n : Nat)
  /-- a frame with a bad FCS is discarded (25 R427) -/
  | badFrame (port : Nat)
  /-- the host writes poison to device memory at `pa` (25 R423, 26 R438) -/
  | hostPoison (pa n : Nat)
  /-- an object that a context of another device brings along is loaded (23 R411) -/
  | objectLoad (image : Image)
  /-- a context of another device arrives (24 R421) -/
  | package (m : Migration)
  /-- an event happens -/
  | event (i : Instr)
  deriving DecidableEq, Repr

/-- The agent an instruction runs on. -/
inductive Cur where
  | none
  | group (gid : Nat)
  | tile (hid : Nat)
  | stream (n : Nat)
  deriving DecidableEq, Repr

/-- An arrival on its way to a barrier unit: the object, the arrivals and pending bytes it brings, and the group it comes
from (05 R137, 15 R315). -/
structure Arrival where
  hid : Nat
  off : Nat
  count : Nat
  bytes : Word
  gid : Nat
  deriving DecidableEq, Repr

/-- The state of the machine. `migLoad` are the loads that migrations ask of other devices: partition, context, device, and
whether they are done; and under partition 8 the images loaded here for a context that is to come (23 R411, 24 R421). `poison`
names poisoned lines; a line of a working copy and of a twin stands there under a number of its own, and `cover` holds, for a
poisoned line, the bytes that each operation has written of it since the mark (26 R437, R438). `waits` are the memory
instructions that have reached a place where they wait, in the order of their arrival: a line, a core's fabric send queues
from 2^70 on or the link to a peer from 2^71 on, the group and the instruction, or for an access of a peer, which stands in
`asked` with its port, 2^64 and the peer, and its number (11 R260, R276; 17 R346). -/
structure State where
  chipTime : Nat
  stamp : Nat
  agenda : List Turn
  cur : Cur
  outbox : List Out
  nextId : Nat
  groups : KMap Group
  halves : KMap Half
  last : KMap Nat
  grow : KMap (List (Nat × Nat × Nat))
  growTime : KMap Nat
  arrivals : List Arrival
  roles : Regs 64
  queues : KMap (List QEnt)
  timed : KMap (List (Nat × QEnt))
  visible : List DoneCmd
  mem : Regs 8
  poison : List Nat
  cover : KMap (KMap Nat)
  l1 : List L1Copy
  tlb : List TlbEnt
  leases : KMap Nat
  floors : KMap Nat
  kr : Regs 32
  incs : KMap (List Inc)
  bcasts : List Bcast
  twins : KMap Twin
  works : KMap (KMap (Regs 8))
  backInv : List Nat
  hostLines : List Nat
  waits : List (Nat × Nat × Nat)
  pins : List PinSet
  streams : KMap Stream
  launches : KMap Launch
  dist : KMap (List PUnit)
  parts : KMap Partition
  cmdDone : KMap DWord
  cmdHeld : List (Nat × PCmd)
  ctxs : KMap Ctx
  images : KMap Image
  saved : List Saved
  migOut : List Migration
  migIn : List Migration
  migLoad : List (Nat × Nat × Nat × Bool)
  shoot : KMap (DWord × DWord)
  shootDone : KMap DWord
  shootHeld : List (Nat × DWord × Option DWord)
  requantStatus : KMap DWord
  ports : KMap Port
  loch : KMap Loch
  peers : KMap Peer
  remote : List RemAcc
  remTlb : List RemPage
  acks : List (Nat × Out)
  asked : List (Nat × FabricMsg)
  regs : Regs 64
  posted : List (Nat × Nat × DWord)
  ibmir : Ibmir
  attached : List Nat
  deriving DecidableEq, Repr

/-- The canonical form of memory: addresses rise strictly, and no entry equals the zero that an unlisted address reads as
(log entry 1). -/
def Memory.wf (m : List Host.Cell) : Bool := Regs.wf m

/-- A port at reset: mode 0 and EtherType 0x88B5 (25 R427); its counters and its stream table at zero (log entry 7). -/
def Port.reset : Port := ⟨0x88B5, 0, 0#32, 0, false, 0, 0#32, 0#32, none, 0#64, [], 0⟩

/-- A Loch queue at reset: every field zero, not bound (log entry 7). -/
def Loch.reset : Loch := ⟨0#64, 0, 0, 0, 0#64, 0#64, none, 0#64, 0, 0#32, 0#32, 0#32, []⟩

/-- The management core before bring-up (27 R446, R450): measurements zero, no cap, the nominal clock; the security
counter, the mailbox and telemetry at zero (log entry 7). -/
def Ibmir.reset : Ibmir :=
  ⟨false, false, List.replicate 8 (List.replicate 64 0#8), 0, 2600, 2250, 0#64, [], [], [], none, [], false, false, false, false,
    none, [], [], []⟩

/-- The machine right after reset, before bring-up: no agent, no context, memory with nothing listed. -/
def State.reset : State :=
  { chipTime := 0, stamp := 0, agenda := [], cur := .none, outbox := [], nextId := 1, groups := [], halves := [],
    last := [], grow := [], growTime := [], arrivals := [], roles := [], queues := [], timed := [], visible := [],
    mem := [], poison := [], cover := [], l1 := [], tlb := [], leases := [], floors := [], kr := [], incs := [], bcasts := [],
    twins := [], works := [], backInv := [], hostLines := [], waits := [], pins := [], streams := [], launches := [], dist := [],
    parts := [], cmdDone := [], cmdHeld := [], ctxs := [], images := [], saved := [], migOut := [], migIn := [], migLoad := [],
    shoot := [], shootDone := [], shootHeld := [], requantStatus := [],
    ports := (List.range 8).map (fun p => (p, Port.reset)), loch := [], peers := [], remote := [], remTlb := [], acks := [], asked := [], regs := [],
    posted := [],
    ibmir := Ibmir.reset, attached := [] }

end Sys2Proof.Machine
end

