-- ==== Sys2Proof/Machine/Access.lean ====
section
/-! DEFINITION. Access.lean: the named accesses: tables of agents, registers with their outstanding writes (03 R73), bytes
of memory, translation (17), L1 copies, leases and write completion times (11), and local memory (10). -/
namespace Sys2Proof.Machine

/-- The outcome of a step of this machine. -/
abbrev Res := Host.Outcome State Fault Refusal

/-! ### Agents -/

/-- Group `gid` changed by `f`. -/
def State.updG (s : State) (gid : Nat) (f : Group → Group) : State :=
  match KMap.look s.groups gid with
  | some g => { s with groups := KMap.put s.groups gid (f g) }
  | none => s

/-- Half `hid` changed by `f`. -/
def State.updH (s : State) (hid : Nat) (f : Half → Half) : State :=
  match KMap.look s.halves hid with
  | some h => { s with halves := KMap.put s.halves hid (f h) }
  | none => s

/-- The tile context of half `hid` changed by `f`. -/
def State.updT (s : State) (hid : Nat) (f : Tile → Tile) : State :=
  s.updH hid (fun h => { h with tile := h.tile.map f })

/-- Context `c` changed by `f`. -/
def State.updC (s : State) (c : Nat) (f : Ctx → Ctx) : State :=
  match KMap.look s.ctxs c with
  | some x => { s with ctxs := KMap.put s.ctxs c (f x) }
  | none => s

/-- Stream `n` changed by `f`. -/
def State.updS (s : State) (n : Nat) (f : Stream → Stream) : State :=
  match KMap.look s.streams n with
  | some x => { s with streams := KMap.put s.streams n (f x) }
  | none => s

/-- Launch `l` changed by `f`. -/
def State.updL (s : State) (l : Nat) (f : Launch → Launch) : State :=
  match KMap.look s.launches l with
  | some x => { s with launches := KMap.put s.launches l (f x) }
  | none => s

/-- The gids of half `hid`, in ascending group index. -/
def State.gidsOf (s : State) (hid : Nat) : List Nat :=
  let l := s.groups.filter (fun e => e.2.hid == hid)
  (List.range 16).filterMap (fun i => (l.find? (fun e => e.2.idx == i)).map (fun e => e.1))

/-- The gids of half `hid` whose group has not exited. -/
def State.liveGids (s : State) (hid : Nat) : List Nat :=
  (s.gidsOf hid).filter (fun gid => match KMap.look s.groups gid with
    | some g => g.sched != .exited
    | none => false)

/-- The halves of the same team as `h`. -/
def State.teamHids (s : State) (h : Half) : List Nat :=
  (s.halves.filter (fun e => e.2.launch == h.launch && e.2.team == h.team)).map (fun e => e.1)

/-- The hid of half `x` of the team of `h`. -/
def State.halfOf (s : State) (h : Half) (x : Nat) : Option Nat :=
  (s.halves.find? (fun e => e.2.launch == h.launch && e.2.team == h.team && e.2.half == x)).map (fun e => e.1)

/-- The launch record a half runs under. -/
def State.lrOf (s : State) (h : Half) : Option LaunchRec := (KMap.look s.launches h.launch).map (fun l => l.lr)

/-- Chip time as the 64-bit counter (00 R2). -/
def State.time64 (s : State) : DWord := BitVec.ofNat 64 s.chipTime

/-! ### Registers of a group. A register key: `v` r × 64 + lane, `g` 20000 + r, `k` 30000 + r × 64 + lane,
`bx` 40000 + r (its VBASE), `fx` 50000 + lane. -/

/-- The key of lane register `r` in `lane`. -/
def kv (r lane : Nat) : Nat := r * 64 + lane
/-- The key of group-uniform register `r`. -/
def kg (r : Nat) : Nat := 20000 + r
/-- The key of bit `lane` of predicate `r`. -/
def kk (r lane : Nat) : Nat := 30000 + r * 64 + lane
/-- The key of translation register `r`. -/
def kb (r : Nat) : Nat := 40000 + r
/-- The key of the sticky flags of `lane`. -/
def kfx (lane : Nat) : Nat := 50000 + lane

/-- The newest value under a register key. -/
def Group.cur (g : Group) (key : Nat) : DWord :=
  if key < 20000 then (g.v.get key).setWidth 64
  else if key < 30000 then (g.g.get (key - 20000)).setWidth 64
  else if key < 40000 then
    if (g.k.get ((key - 30000) / 64)).getLsbD ((key - 30000) % 64) then 1#64 else 0#64
  else if key < 50000 then ((KMap.look g.bx (key - 40000)).getD Bx.invalid).vbase
  else (g.fx.get (key - 50000)).setWidth 64

/-- The older values that a read of `key` may still return, oldest first (03 R73). -/
def Group.olds (g : Group) (key : Nat) : List DWord :=
  g.landings.flatMap (fun l => (l.olds.filter (fun o => o.1 == key)).map (fun o => o.2))

/-- What a read of `key` in step `stamp` returns: the newest value, or one before an outstanding write (03 R73). -/
def Group.read (g : Group) (stamp key : Nat) : DWord :=
  match g.olds key with
  | [] => g.cur key
  | l => nthD (g.cur key :: l) (Config.staleRead stamp key % (l.length + 1)) (g.cur key)

/-- Lane register `r` in `lane`; `vz` reads zero (01 R15). -/
def Group.rv (g : Group) (stamp : Nat) (r : BitVec 8) (lane : Nat) : Word :=
  if r == 255#8 then 0#32 else (g.read stamp (kv r.toNat lane)).setWidth 32

/-- Group-uniform register `r`; `gz` reads zero (03 R68). -/
def Group.rg (g : Group) (stamp : Nat) (r : BitVec 8) : Word :=
  if r == 255#8 then 0#32 else (g.read stamp (kg r.toNat)).setWidth 32

/-- A group-uniform pair, the low word in the even register (03 R68). -/
def Group.rgPair (g : Group) (stamp : Nat) (r : BitVec 8) : DWord :=
  pairWord (g.rg stamp (r + 1#8)) (g.rg stamp r)

/-- Bit `lane` of predicate `r`; `k7` is all ones, and a bit at or above W reads zero (01 R16). -/
def Group.rk (g : Group) (stamp : Nat) (r lane : Nat) : Bool :=
  if r == 7 then true else lane < g.width && g.read stamp (kk r lane) == 1#64

/-- Predicate `r` as 64 bits. -/
def Group.rkAll (g : Group) (stamp r : Nat) : DWord :=
  if r == 7 then BitVec.allOnes 64
  else (List.range g.width).foldl (fun a i => if g.rk stamp r i then a ||| (1#64 <<< i) else a) 0#64

/-- A list of lanes as a mask. -/
def laneMask (l : List Nat) : DWord := l.foldl (fun a i => a ||| (1#64 <<< i)) 0#64

/-- Bits W to 63 off (01 R16). -/
def Group.inWidth (g : Group) (x : DWord) : DWord := x &&& BitVec.ofNat 64 (2 ^ g.width - 1)

/-- The lanes in which an instruction is enabled (01 R19), in ascending order. -/
def Group.enabled (g : Group) (stamp : Nat) (h : Head) : List Nat :=
  (List.range g.width).filter (fun i => g.em.getLsbD i && (g.rk stamp h.gp.toNat i != h.gn))

/-- One register written, by its key. A bit of `k` at or above W is discarded; 32-bit registers take the low word. -/
def Group.wr (g : Group) (key : Nat) (x : DWord) : Group :=
  if key < 20000 then { g with v := g.v.set key (x.setWidth 32) }
  else if key < 30000 then { g with g := g.g.set (key - 20000) (x.setWidth 32) }
  else if key < 40000 then
    let r := (key - 30000) / 64
    let i := (key - 30000) % 64
    if i < g.width then
      { g with k := g.k.set r (if x == 0#64 then g.k.get r &&& ~~~(1#64 <<< i) else g.k.get r ||| (1#64 <<< i)) }
    else g
  else if key < 50000 then
    { g with bx := KMap.put g.bx (key - 40000) { (KMap.look g.bx (key - 40000)).getD Bx.invalid with vbase := x } }
  else { g with fx := g.fx.set (key - 50000) (x.setWidth 32) }

/-- Register writes: keys and values. -/
abbrev Writes := List (Nat × DWord)

/-- Writes made one after another. -/
def Group.wrAll (g : Group) (w : Writes) : Group := w.foldl (fun g e => g.wr e.1 e.2) g

/-- A write of lane register `d`; `vz` discards it (01 R15). -/
def wV (d : BitVec 8) (lane : Nat) (x : Word) : Writes :=
  if d == 255#8 then [] else [(kv d.toNat lane, x.setWidth 64)]
/-- A write of group-uniform register `d`; `gz` discards it (03 R68). -/
def wG (d : BitVec 8) (x : Word) : Writes := if d == 255#8 then [] else [(kg d.toNat, x.setWidth 64)]
/-- A write of a lane pair. -/
def wVPair (d : BitVec 8) (lane : Nat) (x : DWord) : Writes := wV d lane (loWord x) ++ wV (d + 1#8) lane (hiWord x)
/-- A write of a group-uniform pair. -/
def wGPair (d : BitVec 8) (x : DWord) : Writes := wG d (loWord x) ++ wG (d + 1#8) (hiWord x)
/-- A write of one predicate bit. -/
def wK (d : BitVec 8) (lane : Nat) (b : Bool) : Writes := [(kk d.toNat lane, if b then 1#64 else 0#64)]
/-- Flags raised in a lane: ORed into its sticky flags (01 R27). -/
def wFx (g : Group) (lane : Nat) (fl : Word) : Writes :=
  if fl == 0#32 then [] else [(kfx lane, ((g.fx.get lane) ||| fl).setWidth 64)]

/-- The writes made, outstanding on `path` (03 R72, 01 R23). -/
def Group.issue (g : Group) (path : Option Nat) (w : Writes) : Group :=
  if w.isEmpty && path.isNone then g
  else
    let ld : Landing := ⟨path, none, w.map (fun e => (e.1, g.cur e.1)), 0, [], 0⟩
    let g := { g with landings := g.landings ++ [ld] }
    (match path with
      | some c => { g with wc := g.wc.set c (g.wc.get c + 1#8) }
      | none => g).wrAll w

/-- Counter `path` raised for operation `id`, which has still to perform and then to write `keys` (01 R23). -/
def Group.issueWait (g : Group) (path id : Nat) (keys : List Nat) : Group :=
  { g with landings := g.landings ++ [⟨some path, some id, [], 0, keys, id⟩], wc := g.wc.set path (g.wc.get path + 1#8) }

/-- Whether an outstanding write of `key` stands in a landing. -/
def Landing.wrote (l : Landing) (key : Nat) : Bool := l.olds.any (fun o => o.1 == key)

/-- The value that a late result of `key` finds before it, and the landings with `x` in its place: the first later write of
the register follows `x` in program order (03 R73). -/
def slipUnder (key : Nat) (x : DWord) : List Landing → Option (DWord × List Landing)
  | [] => none
  | l :: t =>
    match l.olds.find? (fun o => o.1 == key) with
    | some o => some (o.2, { l with olds := l.olds.map (fun p => if p.1 == key then (key, x) else p) } :: t)
    | none => (slipUnder key x t).map (fun r => (r.1, l :: r.2))

/-- One result of operation `id`: the newest value of its register, unless a later instruction has written it since; one
that a later write has overtaken for good changes nothing (03 R73). -/
def Group.arrive1 (g : Group) (id : Nat) (e : Nat × DWord) : Group :=
  let mine (l : Landing) : Bool := l.wait == some id && l.keys.contains e.1
  let before := g.landings.takeWhile (fun l => !mine l)
  match g.landings.dropWhile (fun l => !mine l) with
  | [] => g
  | l :: later =>
    let upd (old : DWord) : Landing := { l with keys := l.keys.filter (fun k => k != e.1), olds := l.olds ++ [(e.1, old)] }
    match slipUnder e.1 e.2 later with
    | some (old, later') => { g with landings := before ++ upd old :: later' }
    | none => ({ g with landings := before ++ upd (g.cur e.1) :: later } : Group).wr e.1 e.2

/-- The writes of operation `id` in a lane that has performed (01 R23). -/
def Group.arrived (g : Group) (id : Nat) (w : Writes) : Group := w.foldl (fun g e => g.arrive1 id e) g

/-- Operation `id` has performed in every lane: its results are only outstanding now. -/
def Group.settle (g : Group) (id : Nat) : Group :=
  let upd (l : Landing) : Landing := if l.wait == some id then { l with wait := none, keys := [] } else l
  { g with landings := g.landings.map upd }

/-- Operation `id` is done and held no more; where containment had it replayed, the retry counts clear (09 R232). -/
def Group.dropHeld (g : Group) (id : Nat) : Group :=
  { g.settle id with
    held := g.held.filter (fun y => y.id != id)
    retries := if g.held.any (fun y => y.id == id && y.again) && g.retries.get 8 != 1#8 then g.retries.filter (fun e => 10 ≤ e.1)
      else g.retries }

/-- Landings in which nothing of `key` is outstanding any more. -/
def forget (key : Nat) (ls : List Landing) : List Landing :=
  ls.map (fun l => { l with olds := l.olds.filter (fun o => o.1 != key), keys := l.keys.filter (fun k => k != key) })

/-- Writes that land at once: no earlier write of the same register lands after them (03 R72, R73). -/
def Group.wrNow (g : Group) (w : Writes) : Group :=
  { g.wrAll w with landings := w.foldl (fun ls e => forget e.1 ls) g.landings }

/-- The landings that `gone` picks land now, in program order: with them goes every earlier write of their registers, also
one that has still to perform (03 R73). -/
def landWhere (gone : Landing → Bool) : List Landing → List Landing
  | [] => []
  | l :: t =>
    let after := landWhere gone t
    if gone l then after
    else { l with
      keys := l.keys.filter (fun k => !t.any (fun x => gone x && x.wrote k))
      olds := l.olds.filter (fun o => !t.any (fun x => gone x && x.wrote o.1)) } :: after

/-- Every outstanding write that has performed lands, and the counters fall with the results (03 R73, 05 R111). -/
def Group.landAll (g : Group) : Group :=
  let keep := landWhere (fun l => l.wait.isNone) g.landings
  { g with
    landings := keep
    wc := (List.range 4).foldl (fun m c =>
      m.set c (BitVec.ofNat 8 (keep.countP (fun l => l.path == some c)))) g.wc }

/-- Whether a covered write is outstanding (03 R72). -/
def Group.covered (g : Group) : Bool := g.landings.any (fun l => l.path.isNone)

/-! ### Bytes -/

/-- The number of little-endian bytes (00 R6). -/
def leNat : List Byte → Nat
  | [] => 0
  | b :: t => b.toNat + 256 * leNat t

/-- `n` little-endian bytes of a number. -/
def leBytes : Nat → Nat → List Byte
  | 0, _ => []
  | n + 1, x => BitVec.ofNat 8 x :: leBytes n (x / 256)

/-- `n` bytes of memory from physical address `pa`. -/
def State.memBytes (s : State) (pa n : Nat) : List Byte := s.mem.slice pa n
/-- A little-endian number of `n` bytes in memory. -/
def State.memNat (s : State) (pa n : Nat) : Nat := leNat (s.memBytes pa n)

/-- Whether the matrix unit of a quarter survives: the slot-to-engine map in force has not retired it (27 R449). -/
def State.matrixAlive (s : State) (core q : Nat) : Bool := Config.matrixAlive core q && !s.ibmir.map.contains (core, q)

/-- Device memory: the HBM (00 R1). -/
def isDevice (pa : Nat) : Bool := pa < Config.hbmBytes
/-- The register space (25 R426). -/
def isRegSpace (pa : Nat) : Bool := Config.regBase ≤ pa && pa < Config.regBase + Config.regSize

/-- Lines of 128 bytes that `n` bytes from `pa` touch. -/
def linesOf (pa n : Nat) : List Nat := (List.range ((pa % 128 + n + 127) / 128)).map (fun i => pa / 128 + i)

/-- Whether any byte lies in a poisoned line (26 R437). -/
def State.poisoned (s : State) (pa n : Nat) : Bool := (linesOf pa n).any (fun l => s.poison.contains l)

/-- Lease records that slices drop in this step: each raises its slice's floor (11 R263). -/
def State.dropLeases (s : State) : State :=
  let gone := s.leases.filter (fun e => Config.leaseDropped s.stamp e.1)
  { s with
    leases := s.leases.filter (fun e => !Config.leaseDropped s.stamp e.1)
    floors := gone.foldl (fun f e =>
      let c := Config.sliceOf e.1
      KMap.put f c (max ((KMap.look f c).getD 0) e.2)) s.floors }

/-- The global write completion time of a write to `pa` now (11 R263). -/
def State.gwct (s : State) (pa : Nat) : Nat :=
  max (max ((KMap.look s.leases (pa / 128)).getD 0) ((KMap.look s.floors (Config.sliceOf (pa / 128))).getD 0)) s.chipTime

/-- The bytes `lo` to `hi - 1` of a block of `n` bytes, as bits. -/
def byteMask (lo hi n : Nat) : Nat := if hi ≤ lo then 0 else 2 ^ min hi n - 2 ^ min lo n

/-- What operation `who` has written of a place since its mark, with these bytes; operation 0 stands alone (26 R437). -/
def coverWith (cover : KMap (KMap Nat)) (who key mask : Nat) : Nat :=
  mask ||| (if who == 0 then 0 else ((KMap.look cover key).bind (fun m => KMap.look m who)).getD 0)

/-- The bytes that operation `who` has written of a place noted (26 R437). -/
def noteCover (cover : KMap (KMap Nat)) (who key mask : Nat) : KMap (KMap Nat) :=
  if who == 0 then cover else KMap.put cover key (KMap.put ((KMap.look cover key).getD []) who (coverWith cover who key mask))

/-- The number under which line `l` of the working copy of a context stands among the poisoned lines (26 R438). -/
def workLine (cn l : Nat) : Nat := 2 ^ 64 * (cn + 1) + l
/-- The number under which line `l` of a twin stands among the poisoned lines (26 R438). -/
def twinLine (l : Nat) : Nat := 2 ^ 63 + l

/-- The marks left, and the bytes noted, after operation `who` has written `n` bytes from `pa` of the lines numbered from
`base` on (26 R437). -/
def State.scrub (s : State) (base who pa n : Nat) : List Nat × KMap (KMap Nat) :=
  let ls := (linesOf pa n).filter (fun l => s.poison.contains (base + l))
  let mask (l : Nat) : Nat := byteMask (pa - l * 128) (pa + n - l * 128) 128
  let whole := ls.filter (fun l => coverWith s.cover who (base + l) (mask l) == 2 ^ 128 - 1)
  (s.poison.filter (fun l => !whole.any (fun w => base + w == l)),
    ls.foldl (fun c l => noteCover c who (base + l) (mask l)) s.cover)

/-- Lines marked poisoned: what has been written of them before counts no more (26 R437). -/
def State.mark (s : State) (ls : List Nat) : State :=
  { s with poison := ls.filter (fun l => !s.poison.contains l) ++ s.poison, cover := s.cover.filter (fun e => !ls.contains e.1) }

/-- The bytes of a write from `pa` in a copy of one of its lines. -/
def L1Copy.take (c : L1Copy) (pa : Nat) (bytes : List Byte) : L1Copy :=
  (List.range bytes.length).foldl (fun c i =>
    if (pa + i) / 128 = c.line then { c with bytes := c.bytes.set ((pa + i) % 128) (nthD bytes i 0#8) } else c) c

/-- A copy away from its home serves core `core` no more. -/
def L1Copy.bar (c : L1Copy) (core : Nat) : L1Copy :=
  if c.barred.contains core then c else { c with barred := core :: c.barred }

/-- Bytes written at their home by operation `who`: memory holds them, a wholly covered line loses its poison mark, the
writer's own core's L1 copies take them, a copy away from the home serves that core no more, and the host holds none of their
lines any more (11 R263, R264, R279; 25 R425; 26 R437). -/
def State.homeWrite (s : State) (core : Option Nat) (pa : Nat) (bytes : List Byte) (who : Nat := 0) : State :=
  let n := bytes.length
  { s with
    mem := s.mem.setSlice pa bytes
    poison := (s.scrub 0 who pa n).1
    cover := (s.scrub 0 who pa n).2
    hostLines := s.hostLines.filter (fun l => !(linesOf pa n).contains l)
    l1 := s.l1.map (fun c => match core with
      | none => c
      | some k =>
        if c.core == k then c.take pa bytes
        else if c.core == Config.llcCore && (linesOf pa n).contains c.line then c.bar k
        else c) }

/-! ### Translation (17) -/

/-- The HBM share of a context's partition, as a range of physical addresses (24 R413). -/
def State.share (s : State) (c : Ctx) : Nat × Nat :=
  match KMap.look s.parts c.part with
  | some p => (p.hbmBase * 2 ^ 30, (p.hbmBase + p.hbmLen) * 2 ^ 30)
  | none => (0, 0)

/-- Whether `pa` to `pa + n - 1` lies in table-capable memory (17 R333). -/
def State.tableOk (s : State) (c : Ctx) (pa n : Nat) : Bool := (s.share c).1 ≤ pa && pa + n ≤ (s.share c).2

/-- Whether a leaf's frame may be named: the share, host memory or the register space (17 R333, 24 R414). -/
def State.frameOk (s : State) (c : Ctx) (pa n : Nat) : Bool := s.tableOk c pa n || !isDevice pa

/-- Bits of the page mapped by a leaf at each level (17 R330). -/
def leafBits (level : Nat) : Nat := match level with | 1 => 30 | 2 => 21 | _ => 16

/-- The entry for `va` in the table of level `level` at `base` (17 R330). -/
def State.tableEnt (s : State) (va level base : Nat) : Nat :=
  let idx := match level with
    | 0 => bitsOf va 56 39 | 1 => bitsOf va 38 30 | 2 => bitsOf va 29 21 | _ => bitsOf va 20 16
  s.memNat (base + 8 * idx) 8

/-- What a walker's cache gives for an entry of an upper level that memory has as a pointer to the next table, or has not as
one: another next table, or nothing (17 R334). -/
abbrev Uppers := Nat → Option Nat → Option Nat

/-- The next table of a walk for `va` at level `level` from `base`: the cached one, or the one of a well-formed entry (17 R331,
R334). -/
def State.nextTable (s : State) (c : Ctx) (old : Uppers) (va level base : Nat) : Option Nat :=
  let e := s.tableEnt va level base
  let next := bitsOf e 51 8 * 256
  let now :=
    if !bitOf e 0 || bitOf e 1 || level == 3 || bitsOf e 63 52 != 0 || bitsOf e 7 2 != 0 ||
        (level < 2 && bitsOf next 11 8 != 0) || !s.tableOk c next (if level < 2 then 4096 else 256) then none
    else some next
  (old level now).or now

/-- The tables of a walk: the levels of the entries that point to one, and where it lies. -/
def State.tables (s : State) (c : Ctx) (old : Uppers) (va : Nat) : Nat → Nat → Nat → List (Nat × Nat)
  | 0, _, _ => []
  | fuel + 1, level, base =>
    match s.nextTable c old va level base with
    | some next => (level, next) :: s.tables c old va fuel (level + 1) next
    | none => []

/-- One walk from the table at `base` for level `level`: the leaf, or CAUSE and LEVEL (17 R330 to R333). -/
def State.walk (s : State) (c : Ctx) (old : Uppers) (va : Nat) : Nat → Nat → Nat → Except (Nat × Nat) Leaf
  | 0, level, _ => .error (6, level - 1)
  | fuel + 1, level, base =>
    let e := s.tableEnt va level base
    match s.nextTable c old va level base with
    | some next => s.walk c old va fuel (level + 1) next
    | none =>
    if !bitOf e 0 then .error (0, level)
    else if !bitOf e 1 then .error (6, level)
    else
      let rem := bitOf e 2
      let rnd := bitOf e 11
      let region := bitsOf e 59 52
      let frame := bitsOf e 51 16 * 65536
      let bits := leafBits level
      if level == 0 || bitsOf e 4 3 != 0 || bitsOf e 15 12 != 0 || (!rnd && region != 0) then .error (6, level)
      else if rem then
        if bitsOf e 51 28 != 0 then .error (6, level)
        else .ok ⟨va / 2 ^ bits * 2 ^ bits, 2 ^ bits, bitsOf e 27 16, bitsOf e 63 60, region, rnd, bitOf e 10, bitOf e 9,
          bitOf e 8, bitOf e 7, bitOf e 6, bitOf e 5, true⟩
      else if frame % 2 ^ bits != 0 || !s.frameOk c frame (2 ^ bits) then .error (6, level)
      else .ok ⟨va / 2 ^ bits * 2 ^ bits, 2 ^ bits, frame, bitsOf e 63 60, region, rnd, bitOf e 10, bitOf e 9,
        bitOf e 8, bitOf e 7, bitOf e 6, bitOf e 5, false⟩

/-- The walk of a context for `va` (17 R329). -/
def State.walkCtx (s : State) (c : Ctx) (va : Nat) : Except (Nat × Nat) Leaf :=
  if 2 ^ 57 ≤ va then .error (2, 7) else s.walk c (fun _ _ => none) va 4 0 c.troot

/-- The entries of a core that serve `va`: leaves, or cached entries of upper level `up`. -/
def State.served (s : State) (core cn va : Nat) (up : Option Nat) : List TlbEnt :=
  s.tlb.filter (fun t => t.core == core && t.ctx == cn && t.up == up && t.leaf.va ≤ va && va < t.leaf.va + t.leaf.size)

/-- The older entries of the walkers' cache that a walk uses in this step: an entry of it serves until a shootdown
(17 R334). -/
def State.oldUppers (s : State) (core cn va : Nat) : Uppers := fun level now =>
  let l := (s.served core cn va (some level)).filter (fun t => some t.leaf.frame != now)
  ((List.range l.length).find? (fun i => Config.tlbOld s.stamp (va / 65536 + 2 ^ 50 * (level + 1 + 8 * i)))).bind
    (fun i => l[i]?.map (fun t => t.leaf.frame))

/-- A cached entry of an upper level (17 R334). -/
def TlbEnt.upper (core cn va level next : Nat) : TlbEnt :=
  let size := 2 ^ (match level with | 0 => 39 | 1 => 30 | _ => 21)
  ⟨core, cn, ⟨va / size * size, size, next, 0, 0, false, false, false, false, false, false, false, false⟩, some level⟩

/-- The leaf that an access in `core` uses, and the core's entries after it: an older one, a leaf or an entry of an upper
level, may serve any access until a shootdown covers it (17 R334, R340). -/
def State.leafOf (s : State) (core cn : Nat) (va : Nat) : Except (Nat × Nat) Leaf × State :=
  match KMap.look s.ctxs cn with
  | none => (.error (0, 7), s)
  | some c =>
    if 2 ^ 57 ≤ va then (.error (2, 7), s)
    else
      let old := s.oldUppers core cn va
      let r := s.walk c old va 4 0 c.troot
      let l := (s.served core cn va none).filter (fun t => r.toOption != some t.leaf)
      match ((List.range l.length).find? (fun i => Config.tlbOld s.stamp (va / 65536 + 2 ^ 60 * i))).bind (fun i => l[i]?) with
      | some t => (.ok t.leaf, s)
      | none =>
        match r with
        | .ok x =>
          let new := ⟨core, cn, x, none⟩ :: (s.tables c old va 4 0 c.troot).map (fun e => TlbEnt.upper core cn va e.1 e.2)
          (r, { s with tlb := new.filter (fun t => !s.tlb.contains t) ++ s.tlb })
        | .error _ => (r, s)

/-- The access kinds of 17 R336. -/
inductive Acc where
  | read | write | atomic | exec | block
  deriving DecidableEq, Repr

/-- The ACCESS code of a fault word. -/
def Acc.code : Acc → Nat
  | .read => 0 | .write => 1 | .atomic => 2 | .exec => 3 | .block => 4

/-- Whether a leaf grants an access (17 R333). -/
def Leaf.grants (l : Leaf) : Acc → Bool
  | .read => l.r | .write => l.w | .atomic => l.a | .exec => l.x | .block => l.r && l.w

/-- The level of a leaf, by its size. -/
def Leaf.level (l : Leaf) : Nat := if l.size == 2 ^ 30 then 1 else if l.size == 2 ^ 21 then 2 else 3

/-- Whether the page is round-managed: its frame is this device's memory and it is not strongly ordered (20 R368). -/
def Leaf.rounds (l : Leaf) : Bool := l.rnd && !l.so && !l.rem && isDevice l.frame

/-- Whether a leaf is round-managed by a region that its context does not have (20 R368). -/
def State.regionGone (s : State) (cn : Nat) (l : Leaf) : Bool :=
  l.rounds && !(match (KMap.look s.ctxs cn).bind (fun c => KMap.look c.regions l.region) with
    | some g => g.v
    | none => false)

/-- The leaf for an access with permission and region checked; CAUSE and LEVEL otherwise (17 R333, 20 R368). -/
def State.translate (s : State) (core cn : Nat) (va : Nat) (a : Acc) : Except (Nat × Nat) Leaf × State :=
  let r := s.leafOf core cn va
  match r.1 with
  | .error e => (.error e, r.2)
  | .ok l =>
    if !l.grants a then (.error (1, l.level), r.2)
    else if s.regionGone cn l then (.error (6, l.level), r.2)
    else (.ok l, r.2)

/-- Whether `va` lies in the local window (05 R119). -/
def isLocal (va : Nat) : Bool := Config.localBase ≤ va && va < Config.localBase + 2 ^ 32

/-- PERM and ATTR of a leaf (01 R21, 17 R332). DESIGN CHOICE (log entry 81): the order of the four PERM bits, which R21
names without numbering them, is read, write, atomic, round-managed from the lowest one up. -/
def Leaf.bits (l : Leaf) : BitVec 4 × BitVec 2 :=
  (BitVec.ofNat 4 (b2n l.r + 2 * b2n l.w + 4 * b2n l.a + 8 * b2n l.rnd), BitVec.ofNat 2 (b2n l.so + 2 * b2n l.mrg))

/-- A translation register filled for `va`, as `xlat` and `apld` fill it; where no leaf is found PERM and ATTR stay as they
are in `old` (04 R91, 05 R119). -/
def State.fillBx (s : State) (core cn : Nat) (va : DWord) (old : Bx) : Bx × State :=
  let a := va.toNat
  if isLocal a then
    (⟨BitVec.ofNat 32 (0xFFFFFFFF - (a - Config.localBase)), 7#4, 0#2, va, none⟩, s)
  else
    let r := s.leafOf core cn a
    match r.1 with
    | .error _ => ({ old with limit := 0#32, vbase := va, leaf := none }, r.2)
    | .ok l => (⟨BitVec.ofNat 32 (l.va + l.size - a), l.bits.1, l.bits.2, va, some l⟩, r.2)

/-- The leaf for an access through a translation register: its held leaf where the register covers the access, else the
TLB (01 R21, 05 R118). -/
def State.translateBx (s : State) (core cn : Nat) (b : Bx) (va size : Nat) (a : Acc) : Except (Nat × Nat) Leaf × State :=
  match b.leaf with
  | some l =>
    if b.limit != 0#32 && b.vbase.toNat ≤ va && va + size ≤ b.vbase.toNat + b.limit.toNat && l.grants a then
      (if s.regionGone cn l then .error (6, l.level) else .ok l, s)
    else s.translate core cn va a
  | none => s.translate core cn va a

/-- The physical address of `va` in a leaf. -/
def Leaf.pa (l : Leaf) (va : Nat) : Nat := l.frame + (va - l.va)

/-! ### Values of global memory -/

/-- Ticks of a page's lease (11 R262). -/
def leaseTicks (code : Nat) : Nat := 256 * 2 ^ (if code ≤ 8 then code else 4)

/-- The key of a known round (11 R281). -/
def krKey (core ctx region : Nat) : Nat := (core * 4096 + ctx) * 256 + region

/-- Whether `a ≥ b` by signed 32-bit difference (20 R369). -/
def geSigned (a b : Word) : Bool := !(a - b).msb

/-- Where the round counter of a region lies (20 R369). -/
def State.counterPa (s : State) (cn region : Nat) : Option Nat :=
  (KMap.look s.ctxs cn).bind (fun c => (KMap.look c.regions region).bind (fun r =>
    (s.walkCtx c r.cntva.toNat).toOption.map (fun l => l.pa r.cntva.toNat)))

/-- The round counter's word at its home (20 R369). -/
def State.counter (s : State) (cn region : Nat) : Word :=
  match s.counterPa cn region with
  | some pa => BitVec.ofNat 32 (s.memNat pa 4)
  | none => 0#32

/-- Whether an increment of the region with key `k` is in progress (20 R369). -/
def State.incBegun (s : State) (k : Nat) : Bool := ((KMap.look s.incs k).getD []).head?.any Inc.begun

/-- Whether any of `n` bytes from `pa` is of a counter that an increment in progress is about to change: a write of it waits
(20 R369). -/
def State.incAt (s : State) (pa n : Nat) : Bool :=
  s.incs.any (fun e => e.2.head?.any Inc.begun &&
    (s.counterPa (e.1 / 256) (e.1 % 256)).any (fun p => pa < p + 4 && p < pa + n))

/-- The value a slice tags supplied lines with: the counter, or already the next value while an increment is in progress
(20 R369, R371). -/
def State.sliceRound (s : State) (cn region line : Nat) : Word :=
  let n := s.counter cn region
  if s.incBegun (cn * 256 + region) && Config.roundSeen s.stamp line then n + 1#32 else n

/-- The bytes of a line at its home. -/
def State.lineBytes (s : State) (line : Nat) : Regs 8 :=
  (List.range 128).foldl (fun m i => m.set i (s.mem.get (line * 128 + i))) []

/-- A core's copies of a line that a read of its home has overtaken go, and an older one away from the home serves it no more:
its later reads return nothing older (11 R265). -/
def State.dropStale (s : State) (core line : Nat) : State :=
  let late (c : L1Copy) : Bool := c.line == line && c.bytes != s.lineBytes line
  { s with l1 := (s.l1.filter (fun c => !(c.core == core && late c))).map (fun c =>
      if c.core == Config.llcCore && late c then c.bar core else c) }

/-- A line filled into a core's L1 under a tag, in place of an earlier copy. -/
def State.fillL1 (s : State) (core line : Nat) (t : Tag) : State :=
  { s with l1 := ⟨core, line, s.lineBytes line, t, false, []⟩ ::
      ((s.dropStale core line).l1.filter (fun c => !(c.core == core && c.line == line))) }

/-- Whether a copy is held under a lease and no longer equals its home. -/
def State.stale (s : State) (c : L1Copy) : Bool :=
  (match c.tag with | .lease _ => true | .round _ _ _ => false) && c.bytes != s.lineBytes c.line

/-- A release of an agent of `core` at scope `sc`: from pair scope on, the copies that it has overtaken in the other core of
the pair are marked (11 R266, R271). -/
def State.releaseAt (s : State) (core sc : Nat) : State :=
  if sc < 4 then s
  else { s with l1 := s.l1.map (fun c => if c.core == core ^^^ 1 && s.stale c then { c with old := true } else c) }

/-- An acquire of an agent of `core` at scope `sc`: from pair scope on, the copies that a release has marked go
(11 R266, R271). -/
def State.acquireAt (s : State) (core sc : Nat) : State :=
  if sc < 4 then s else { s with l1 := s.l1.filter (fun c => !(c.old && c.core == core)) }

/-- A core's known round raised to at least `v` (11 R281). -/
def State.raiseKr (s : State) (core cn region : Nat) (v : Word) : State :=
  let k := krKey core cn region
  if geSigned v (s.kr.get k) then { s with kr := s.kr.set k v } else s

/-- The working copy of a context for the block of `pa` (11 R284). -/
def State.workOf (s : State) (cn pa : Nat) : Option (Regs 8) :=
  (KMap.look s.works cn).bind (fun m => KMap.look m (pa / 4096))

/-- Whether the block of `pa` is checked out: it has a twin here, or a working copy whose twin is at another merge agent; its
lines are leased to no L1 (11 R261, R284; 20 R373). -/
def State.checkedOut (s : State) (pa : Nat) : Bool :=
  (KMap.look s.twins (pa / 4096)).isSome || s.works.any (fun e => (KMap.look e.2 (pa / 4096)).isSome)

/-- Whether the line of `pa` waits for the host's answer to a back-invalidation: the accesses that reach its home now wait
behind the one that asked (11 R260, 25 R425). -/
def State.homeBusy (s : State) (pa : Nat) : Bool := s.backInv.contains (pa / 128)

/-- A read at a line's home by an agent of `core` that leaves no copy; `none` where it waits there. -/
def State.readHome (s : State) (core pa n : Nat) : Option (List Byte) × State :=
  if s.homeBusy pa then (none, s) else (some (s.memBytes pa n), s.dropStale core (pa / 128))

/-- A line fetched from its home under a fresh lease or a round tag; under policy 3 no L1 takes it (03 R65; 11 R261,
R279); `none` where it waits at the home. -/
def State.fetchLine (s : State) (core cn hint : Nat) (l : Leaf) (pa n : Nat) : Option (List Byte) × State :=
  let line := pa / 128
  if s.homeBusy pa then (none, s)
  else if l.rounds then
    let t := s.sliceRound cn l.region line
    (some (s.memBytes pa n),
      (if hint == 3 then s.dropStale core line else s.fillL1 core line (.round t cn l.region)).raiseKr core cn l.region t)
  else if hint == 3 || s.checkedOut pa then s.readHome core pa n
  else
    let t := s.chipTime + leaseTicks l.lease
    (some (s.memBytes pa n),
      { s.fillL1 core line (.lease t) with leases := KMap.put s.leases line (max ((KMap.look s.leases line).getD 0) t) })

/-- The working copy that an access at `scope` uses: none wider than device scope (11 R284). -/
def State.workAt (s : State) (cn scope pa : Nat) : Option (Regs 8) := if scope ≤ 6 then s.workOf cn pa else none

/-- The bytes before a write, as the accesses of `cn` at `scope` see them. -/
def State.standing (s : State) (cn scope pa n : Nat) : List Byte :=
  match s.workAt cn scope pa with
  | some m => m.slice (pa % 4096) n
  | none => s.memBytes pa n

/-- One line's bytes `pa` to `pa + n - 1` (all in one line) as a load of `core` and `cn` at `scope` sees them, filling under
policy `hint`; `home` for accesses that never use an L1 copy (03 R65; 05 R124, R126; 11 R261, R279, R284); `none` where it
waits at the home. -/
def State.loadLine (s : State) (core cn scope hint : Nat) (home : Bool) (l : Leaf) (pa n : Nat) :
    Option (List Byte) × State :=
  let line := pa / 128
  match s.workAt cn scope pa with
  | some m => (some (m.slice (pa % 4096) n), s)
  | none =>
    if home || l.so || 7 ≤ scope then s.readHome core pa n
    else
      let copy := s.l1.find? (fun c => c.core == core && c.line == line)
      match copy with
      | some c =>
        let fresh := match c.tag with
          | .lease t => !l.rounds && s.chipTime + 2 < t
          | .round t _ _ => l.rounds && geSigned t (s.kr.get (krKey core cn l.region))
        if fresh && Config.l1Keeps s.stamp line then (some (c.bytes.slice (pa % 128) n), s)
        else s.fetchLine core cn hint l pa n
      | none => s.fetchLine core cn hint l pa n

/-- Whether the host may hold a line of `n` bytes from `pa`: a write of them asks the host to give it up, and waits for the
answer (25 R425). -/
def State.hostHas (s : State) (pa n : Nat) : Bool := isDevice pa && (linesOf pa n).any (fun l => s.hostLines.contains l)

/-- Whether a write of `cn` at `scope` waits at its home: for the host's answer to a back-invalidation (25 R425), behind an
access that waits for one (11 R260), or for an increment in progress of the counter that it writes (20 R369). -/
def State.writeWaits (s : State) (cn scope pa n : Nat) : Bool :=
  (s.workAt cn scope pa).isNone && (s.hostHas pa n || s.homeBusy pa || s.incAt pa n)

/-- The slices ask the host for the lines of `n` bytes from `pa` that it may hold, if they have not yet (25 R425). -/
def State.snoop (s : State) (pa n : Nat) : State :=
  { s with backInv := s.backInv ++ (linesOf pa n).filter (fun l =>
      isDevice pa && s.hostLines.contains l && !s.backInv.contains l) }

/-- The leaf under which the accesses of `cn` at `scope` reach `va`: a block that is checked out through a window has its
working copy here, under va + 2^52 (11 R284; 20 R376). -/
def State.workLeaf (s : State) (cn scope va : Nat) (l : Leaf) : Leaf :=
  if l.rem && (s.workAt cn scope (2 ^ 52 + va)).isSome then { l with rem := false, frame := 2 ^ 52 + l.va } else l

/-- A store's bytes into a context's working copy, if it holds the block (11 R284); the home otherwise. -/
def State.storeBytes (s : State) (core cn scope pa : Nat) (bytes : List Byte) (who : Nat := 0) : State :=
  match s.workAt cn scope pa with
  | some m =>
    let mine := KMap.put ((KMap.look s.works cn).getD []) (pa / 4096) (Regs.setSlice m (pa % 4096) bytes)
    let p := s.scrub (workLine cn 0) who pa bytes.length
    { s with works := KMap.put s.works cn mine, poison := p.1, cover := p.2 }
  | none => s.homeWrite (some core) pa bytes who

/-- Whether a read of `cn` at `scope` meets poison, at the home or in the working copy that it uses (26 R438). -/
def State.poisonAt (s : State) (cn scope pa n : Nat) : Bool :=
  if (s.workAt cn scope pa).isSome then (linesOf pa n).any (fun l => s.poison.contains (workLine cn l)) else s.poisoned pa n

/-! ### Local memory (10 R237) -/

/-- A local place: the half whose bank holds it, scratchpad or TOB, and the byte. -/
structure LPlace where
  hid : Nat
  tob : Bool
  off : Nat
  deriving DecidableEq, Repr

/-- The place of window offset `x` for a team half; `none` where no bank of the team lies (10 R237). -/
def State.localPlace (s : State) (hid x n : Nat) : Option LPlace :=
  match KMap.look s.halves hid with
  | none => none
  | some h =>
    let sp := 16384 * h.spadBanks
    if x + n ≤ sp then some ⟨hid, false, x⟩
    else if 0x20000000 ≤ x && x + n ≤ 0x20000000 + 16384 * h.tobBanks then some ⟨hid, true, x - 0x20000000⟩
    else if h.paired && 0x10000000 ≤ x && x < 0x12000000 then
      let y := x - 0x10000000
      if y % 0x1000000 + n ≤ sp then (s.halfOf h (y / 0x1000000)).map (fun q => ⟨q, false, y % 0x1000000⟩) else none
    else none

/-- `n` bytes of local memory. -/
def State.locBytes (s : State) (p : LPlace) (n : Nat) : List Byte :=
  match KMap.look s.halves p.hid with
  | some h => (if p.tob then h.tob else h.spad).slice p.off n
  | none => List.replicate n 0#8

/-- Whether TOB byte `off` is one that a stream holds: of its ring, appended and not consumed (07 R202). -/
def StreamQ.holds (q : StreamQ) (off : Nat) : Bool :=
  let base := q.ring.toNat % 65536 * 512
  let size := q.ring.toNat / 65536 * 512
  base ≤ off && off < base + size && (off - base + size - q.head % size) % size < q.tail - q.head

/-- The values that a store to TOB bytes `off`, … of streams races with: what they held before the first such store
(10 R241). -/
def Half.raced (h : Half) (off n : Nat) : KMap Byte :=
  let held (o : Nat) : Bool := (h.tile.map (fun t => t.q.any (fun q => q.2.holds o))).getD false
  (List.range n).foldl (fun m i =>
    if held (off + i) && (KMap.look m (off + i)).isNone then KMap.put m (off + i) (h.tob.get (off + i)) else m) h.ringOld

/-- The marks left on 16-byte words, and the bytes noted, after operation `who` has written `n` bytes from `off`; the words
stand in `cover` from `base` on (26 R437). -/
def Half.scrub (h : Half) (marks : List Nat) (base who off n : Nat) : List Nat × KMap (KMap Nat) :=
  let mask (w : Nat) : Nat := byteMask (off - w * 16) (off + n - w * 16) 16
  let hit := marks.filter (fun w => off < w * 16 + 16 && w * 16 < off + n)
  (marks.filter (fun w => !(hit.contains w && coverWith h.cover who (base + w) (mask w) == 65535)),
    hit.foldl (fun c w => noteCover c who (base + w) (mask w)) h.cover)

/-- Bytes written to local memory by operation `who`; a sub-bank word wholly covered loses its poison mark (26 R437), and a
byte of a stream keeps what it held for the matrix unit (10 R241). -/
def State.locWrite (s : State) (p : LPlace) (bytes : List Byte) (who : Nat := 0) : State :=
  s.updH p.hid (fun h =>
    if p.tob then
      let k := h.scrub h.tobPoison (2 ^ 40) who p.off bytes.length
      { h with tob := h.tob.setSlice p.off bytes, ringOld := h.raced p.off bytes.length, tobPoison := k.1, cover := k.2 }
    else
      let k := h.scrub h.spadPoison 0 who p.off bytes.length
      { h with spad := h.spad.setSlice p.off bytes, spadPoison := k.1, cover := k.2 })

/-- Whether a local range holds a poisoned word (26 R437). -/
def State.locPoisoned (s : State) (p : LPlace) (n : Nat) : Bool :=
  match KMap.look s.halves p.hid with
  | some h => (if p.tob then h.tobPoison else h.spadPoison).any (fun w => w * 16 < p.off + n && p.off < w * 16 + 16)
  | none => false

/-! ### Fault words -/

/-- A fault word of code `c` with CAUSE, and the other words (26 R436). -/
def trapRec (code cause : Nat) (w1 w2 w3 at_ : DWord) : FaultRec :=
  ⟨BitVec.ofNat 64 (code + cause * 4096), w1, w2, w3, at_, 0#64⟩

/-- The code of a fault word. -/
def FaultRec.code (r : FaultRec) : Nat := r.w0.toNat % 256
/-- The CAUSE of a fault word. -/
def FaultRec.cause (r : FaultRec) : Nat := r.w0.toNat / 4096 % 16

/-- The fault word of a translation fault of a lane (17 R336). -/
def transRec (code cause level : Nat) (a : Acc) (remote : Bool) (va : Nat) (at_ mask : DWord) : FaultRec :=
  ⟨BitVec.ofNat 64 (code + cause * 4096 + a.code * 2 ^ 16 + level * 2 ^ 19 + b2n remote * 2 ^ 22), BitVec.ofNat 64 va,
    0#64, 0#64, at_, mask⟩

/-- CAUSE of a local access outside the team's banks (10 R256). -/
def causeLocal : Nat := 3

end Sys2Proof.Machine
end

