-- ==== Sys2Proof/Machine/Float.lean ====
section
/-! DEFINITION. Float.lean: the floating-point formats (02 R37 to R39), exact values and the one rounding of R43 with
overflow (R45), flushing (R46), clamps (R47), NaN results (R48) and the flags of R49. Every operation computes an exact
value, a signed number times a power of two, and delivers it once. -/
namespace Sys2Proof.Machine

/-- A floating-point format (02 R37): field widths, bias, the largest finite encoding, and which of its all-ones
exponents are special. -/
structure FFmt where
  code : Nat
  ebits : Nat
  mbits : Nat
  bias : Nat
  maxEnc : Nat
  hasInf : Bool
  deriving DecidableEq, Repr

/-- FP32. -/
def fp32 : FFmt := ⟨0, 8, 23, 127, 0x7F7FFFFF, true⟩
/-- FP16. -/
def fp16 : FFmt := ⟨1, 5, 10, 15, 0x7BFF, true⟩
/-- BF16. -/
def bf16 : FFmt := ⟨2, 8, 7, 127, 0x7F7F, true⟩
/-- E4M3: finite at the all-ones exponent except the one NaN of each sign. -/
def e4m3 : FFmt := ⟨3, 4, 3, 7, 0x7E, false⟩
/-- E5M2. -/
def e5m2 : FFmt := ⟨4, 5, 2, 15, 0x7B, true⟩
/-- E2M1: every encoding is finite. -/
def e2m1 : FFmt := ⟨5, 2, 1, 1, 0x7, false⟩

/-- The format of code 0 to 5 (03 R74). -/
def fmtOf (c : Nat) : FFmt :=
  match c with
  | 0 => fp32 | 1 => fp16 | 2 => bf16 | 3 => e4m3 | 4 => e5m2 | _ => e2m1

/-- Bits of an element of the format. -/
def FFmt.width (f : FFmt) : Nat := 1 + f.ebits + f.mbits
/-- The sign bit's weight. -/
def FFmt.signBit (f : FFmt) : Nat := 2 ^ (f.ebits + f.mbits)
/-- The encoding of magnitude `enc` and sign `s`. -/
def FFmt.put (f : FFmt) (s : Bool) (enc : Nat) : Nat := (if s then f.signBit else 0) + enc
/-- FP32, FP16 and BF16, on which DAZ and FTZ act (02 R46). -/
def FFmt.flushable (f : FFmt) : Bool := f.code ≤ 2
/-- The encoding of infinity: the all-ones exponent with fraction zero (02 R37). -/
def FFmt.infEnc (f : FFmt) : Nat := (2 ^ f.ebits - 1) * 2 ^ f.mbits
/-- The encoding of the canonical NaN: every exponent and fraction bit set (02 R38). -/
def FFmt.nanEnc (f : FFmt) : Nat := 2 ^ (f.ebits + f.mbits) - 1
/-- The encoding of 1.0. -/
def FFmt.oneEnc (f : FFmt) : Nat := f.bias * 2 ^ f.mbits

/-- A decoded value: a NaN with its sign, quietness and fraction (left-aligned to 23 bits), an infinity, or the number
`±m × 2^e`, with `m = 0` for a signed zero. -/
inductive FV where
  | nan (s quiet : Bool) (frac : Nat)
  | inf (s : Bool)
  | num (s : Bool) (m : Nat) (e : Int)
  deriving DecidableEq, Repr

/-- A value with its sign turned. -/
def FV.neg : FV → FV
  | .nan s q fr => .nan s q fr
  | .inf s => .inf (!s)
  | .num s m e => .num (!s) m e

/-- The flags of 01 R27. -/
def flNV : Word := 1#32
/-- Divide by zero. -/
def flDZ : Word := 2#32
/-- Overflow. -/
def flOF : Word := 4#32
/-- Underflow. -/
def flUF : Word := 8#32
/-- Inexact. -/
def flNX : Word := 16#32
/-- `f` if `b`. -/
def flagIf (b : Bool) (f : Word) : Word := if b then f else 0#32

/-- The value that bits `x` hold in format `f`; a subnormal reads as zero under DAZ (02 R37, R39, R46). -/
def decodeF (f : FFmt) (daz : Bool) (x : Nat) : FV :=
  let s := x / f.signBit % 2 == 1
  let e := x / 2 ^ f.mbits % 2 ^ f.ebits
  let fr := x % 2 ^ f.mbits
  let ones := 2 ^ f.ebits - 1
  if e == ones && f.hasInf then
    if fr == 0 then .inf s else .nan s (fr / 2 ^ (f.mbits - 1) % 2 == 1) (fr * 2 ^ (23 - f.mbits))
  else if f.code == 3 && e == ones && fr == 7 then .nan s true (fr * 2 ^ 20)
  else if e == 0 then
    if daz && f.flushable then .num s 0 0 else .num s fr (1 - (f.bias : Int) - f.mbits)
  else .num s (2 ^ f.mbits + fr) ((e : Int) - f.bias - f.mbits)

/-- Whether a value is a NaN. -/
def FV.isNan : FV → Bool
  | .nan _ _ _ => true
  | _ => false
/-- Whether a value is a signalling NaN (02 R39). -/
def FV.isSnan : FV → Bool
  | .nan _ q _ => !q
  | _ => false
/-- The sign of a value. -/
def FV.sign : FV → Bool
  | .nan s _ _ => s
  | .inf s => s
  | .num s _ _ => s
/-- Whether a value is a zero. -/
def FV.isZero : FV → Bool
  | .num _ 0 _ => true
  | _ => false
/-- Whether a value is an infinity. -/
def FV.isInf : FV → Bool
  | .inf _ => true
  | _ => false

/-- The settings an operation runs under: RM, SATDEF, FTZ, DAZ and NANMODE of `fm` or `cfm` (01 R25), with the scale and
clamp of the instruction (02 R43, R47); `sat` is `.satf` or `.sat`. -/
structure FEnv where
  rm : Nat
  ftz : Bool
  daz : Bool
  satdef : Bool
  prop : Bool
  sc : Int
  cl : Nat
  sat : Bool
  deriving DecidableEq, Repr

/-- The settings of format mode `fm` with no scale and no clamp (01 R25). -/
def envOf (fm : Word) : FEnv :=
  ⟨(fm.extractLsb' 0 2).toNat, fm.getLsbD 3, fm.getLsbD 2, fm.getLsbD 4, fm.getLsbD 5, 0, 0, false⟩

/-- The settings with the rounding override RO, scale SC and clamp CL of a word (03 R62, R70). -/
def FEnv.withMods (v : FEnv) (ro : Nat) (sc : Int) (cl : Nat) : FEnv :=
  { v with rm := if ro < 4 then v.rm else ro - 4, sc := sc, cl := cl, sat := cl == 2 }

/-- Whether saturation is in force for destination `f` (02 R45). -/
def FEnv.saturates (v : FEnv) (f : FFmt) : Bool := v.sat || (v.satdef && (f.code == 3 || f.code == 4))

/-- The number of bits of a number. -/
def bitLen (m : Nat) : Nat := if m = 0 then 0 else Nat.log2 m + 1

/-- Whether a magnitude `q + r/d` with remainder `r` of `d` rounds up to `q + 1` (02 R43). -/
def roundsUp (rm : Nat) (s : Bool) (q r d : Nat) : Bool :=
  match rm with
  | 0 => d < 2 * r || (2 * r == d && q % 2 == 1)
  | 1 => false
  | 2 => !s && r != 0
  | _ => s && r != 0

/-- `m × 2^e` rounded to a multiple of `2^g`: the multiple, and whether it is inexact. -/
def roundAt (rm : Nat) (s : Bool) (m : Nat) (e g : Int) : Nat × Bool :=
  if g ≤ e then (m * 2 ^ (e - g).toNat, false)
  else
    let d := 2 ^ (g - e).toNat
    let q := m / d
    let r := m % d
    (q + b2n (roundsUp rm s q r d), r != 0)

/-- The clamp of 02 R47 on an encoding of format `f`. -/
def clampF (f : FFmt) (cl : Nat) (x : Nat) : Nat :=
  let s := x / f.signBit % 2 == 1
  let isNan := (decodeF f false x).isNan
  if cl == 1 then
    if isNan || s then 0 else if f.oneEnc < x then f.oneEnc else x
  else if cl == 3 then (if isNan || s then 0 else x)
  else x

/-- A nonzero number `±m × 2^e` delivered to format `f` (02 R43, R45, R46, R47): the encoding and the flags. -/
def deliverNum (v : FEnv) (f : FFmt) (s : Bool) (m : Nat) (e : Int) : Nat × Word :=
  let e := e + v.sc
  let k : Int := (bitLen m : Int) - 1 + e                     -- floor(log2)
  let emin : Int := 1 - (f.bias : Int)
  let g := (if k < emin then emin else k) - f.mbits
  let (q, nx) := roundAt v.rm s m e g
  let enc : Nat := if q < 2 ^ f.mbits then q else ((g + f.mbits + f.bias).toNat) * 2 ^ f.mbits + (q - 2 ^ f.mbits)
  let (q0, _) := roundAt v.rm s m e (k - f.mbits)
  let tiny := k < emin && !(q0 == 2 ^ (f.mbits + 1) && k + 1 == emin)
  if f.maxEnc < enc then
    let away := v.rm == 0 || (v.rm == 2 && !s) || (v.rm == 3 && s)
    let mag :=
      if f.code == 5 || v.saturates f || !away then f.maxEnc
      else if f.hasInf then f.infEnc else f.nanEnc
    (clampF f v.cl (f.put s mag), flOF ||| flNX)
  else if v.ftz && f.flushable && tiny then (clampF f v.cl (f.put s 0), flUF ||| flNX)
  else (clampF f v.cl (f.put s enc), flagIf (tiny && nx) flUF ||| flagIf nx flNX)

/-- A NaN result in format `f` with the operands in order (02 R48); E2M1 has none and gives +0 with NV. -/
def nanResult (v : FEnv) (f : FFmt) (ops : List FV) : Nat × Word :=
  if f.code == 5 then (0, flNV)
  else
    let x := ops.find? FV.isNan
    match v.prop, x with
    | true, some (.nan s _ fr) =>
      if f.code == 3 then (f.put s f.nanEnc, 0#32)
      else
        let top := fr / 2 ^ (23 - f.mbits)
        (f.put s (f.infEnc + (if top / 2 ^ (f.mbits - 1) % 2 == 1 then top else top + 2 ^ (f.mbits - 1))), 0#32)
    | _, _ => (f.nanEnc, 0#32)

/-- NV of signalling operands (02 R49). -/
def snanFlags (ops : List FV) : Word := flagIf (ops.any FV.isSnan) flNV

/-- An exact result on its way to a destination. -/
inductive Exact where
  /-- a NaN of these operands, or an invalid operation -/
  | nan (ops : List FV) (invalid : Bool)
  | inf (s : Bool)
  | zero (s : Bool)
  | num (s : Bool) (m : Nat) (e : Int)
  deriving DecidableEq, Repr

/-- An exact result delivered to format `f`: the encoding and the flags, an infinity under 02 R50. -/
def deliver (v : FEnv) (f : FFmt) (x : Exact) : Nat × Word :=
  match x with
  | .nan ops inv =>
    let r := nanResult v f ops
    (clampF f v.cl r.1, r.2 ||| snanFlags ops ||| flagIf inv flNV)
  | .inf s =>
    if f.hasInf then (clampF f v.cl (f.put s f.infEnc), 0#32)
    else if f.code == 5 || v.saturates f then (clampF f v.cl (f.put s f.maxEnc), flNV)
    else (clampF f v.cl (f.put s f.nanEnc), flNV)
  | .zero s => (clampF f v.cl (f.put s 0), 0#32)
  | .num s m e => if m = 0 then (clampF f v.cl (f.put s 0), 0#32) else deliverNum v f s m e

/-- The exact product of two values that are no NaN; `none` for 0 × ∞. -/
def mulFV : FV → FV → Option FV
  | .num s m e, .num s' m' e' => some (.num (s != s') (m * m') (e + e'))
  | .inf s, .num s' m _ => if m = 0 then none else some (.inf (s != s'))
  | .num s m _, .inf s' => if m = 0 then none else some (.inf (s != s'))
  | .inf s, .inf s' => some (.inf (s != s'))
  | x, _ => some x

/-- The least exponent among the nonzero numbers of a list. -/
def minExp (l : List FV) : Option Int :=
  l.foldl (fun a x => match x with
    | .num _ 0 _ => a
    | .num _ _ e => some (match a with | none => e | some b => if e < b then e else b)
    | _ => a) none

/-- The exact sum of values that are no NaN (02 R43, R57); the sign of an exact zero under RM. -/
def sumFV (rm : Nat) (l : List FV) : Exact :=
  let pinf := l.any (fun x => x == .inf false)
  let ninf := l.any (fun x => x == .inf true)
  if pinf && ninf then .nan [] true
  else if pinf then .inf false
  else if ninf then .inf true
  else
    let e0 := (minExp l).getD 0
    let t : Int := l.foldl (fun a x => match x with
      | .num s m e => if m = 0 then a else
          let k : Int := (m * 2 ^ (e - e0).toNat : Nat)
          if s then a - k else a + k
      | _ => a) 0
    if t = 0 then
      if l.all (fun x => x.isZero && x.sign) && !l.isEmpty then .zero true
      else if l.all (fun x => x.isZero && !x.sign) then .zero false
      else .zero (rm == 3)
    else .num (t < 0) t.natAbs e0

/-- The exact value of `Σ x*y + Σ z` for pairs `xy` and addends `z`, with `ops` the operands in the order of R48. -/
def dotFV (rm : Nat) (xy : List (FV × FV)) (z ops : List FV) : Exact :=
  let prods := xy.map (fun p => if p.1.isNan || p.2.isNan then some (FV.num false 0 0) else mulFV p.1 p.2)
  let bad := prods.any Option.isNone
  if ops.any FV.isNan then
    .nan ops (bad || (match sumFV rm (prods.filterMap id ++ z.filter (fun x => !x.isNan)) with
      | .nan _ _ => true
      | _ => false))
  else if bad then .nan [] true
  else sumFV rm (prods.filterMap id ++ z)

/-- A + B (04 R92). -/
def fAdd (v : FEnv) (f : FFmt) (a b : FV) : Nat × Word :=
  deliver v f (if a.isNan || b.isNan then .nan [a, b] false else sumFV v.rm [a, b])

/-- A × B (04 R92). -/
def fMul (v : FEnv) (f : FFmt) (a b : FV) : Nat × Word :=
  deliver v f (if a.isNan || b.isNan then .nan [a, b] false else
    match mulFV a b with
    | none => .nan [] true
    | some (.num s m e) => if m = 0 then .zero s else .num s m e
    | some x => .inf x.sign)

/-- A × B + C with one rounding; 0 × ∞ is invalid even beside a NaN (04 R92). -/
def fFma (v : FEnv) (f : FFmt) (a b c : FV) : Nat × Word :=
  deliver v f (dotFV v.rm [(a, b)] [c] [a, b, c])

/-- Whether `a < b` for values that are no NaN; -0 equals +0. -/
def ltFV (a b : FV) : Bool :=
  match a, b with
  | .inf s, .inf s' => s && !s'
  | .inf s, _ => s
  | _, .inf s' => !s'
  | a, b => match sumFV 0 [a, match b with | .num s m e => FV.num (!s) m e | x => x] with
    | .num s _ _ => s
    | _ => false

/-- Whether `a = b` for values that are no NaN. -/
def eqFV (a b : FV) : Bool := !ltFV a b && !ltFV b a

/-- The lesser (`max` = false) or greater of two encodings after modifiers (04 R93). -/
def fMinMax (v : FEnv) (f : FFmt) (max : Bool) (x y : Nat) : Nat × Word :=
  let flush (z : Nat) : Nat := match decodeF f v.daz z with | .num s 0 _ => f.put s 0 | _ => z
  let a := decodeF f v.daz x
  let b := decodeF f v.daz y
  let fl := snanFlags [a, b]
  if a.isNan && b.isNan then (let r := nanResult v f [a, b]; (r.1, r.2 ||| fl))
  else if a.isNan then (flush y, fl)
  else if b.isNan then (flush x, fl)
  else
    let less := ltFV a b || (eqFV a b && a.sign && !b.sign)
    (if less != max then flush x else flush y, fl)

/-- The relation `rel` of `fset` (04 R94), and NV. -/
def fCompare (rel : Nat) (a b : FV) : Bool × Word :=
  let un := a.isNan || b.isNan
  let fl := snanFlags [a, b] ||| flagIf (un && 2 ≤ rel && rel ≤ 5) flNV
  let r := match rel with
    | 0 => !un && eqFV a b
    | 1 => un || !eqFV a b
    | 2 => !un && ltFV a b
    | 3 => !un && !ltFV b a
    | 4 => !un && ltFV b a
    | 5 => !un && !ltFV a b
    | 6 => un
    | _ => !un
  (r, fl)

/-- A rounded to an integral value (04 R95). -/
def fRound (v : FEnv) (f : FFmt) (a : FV) : Nat × Word :=
  match a with
  | .nan _ _ _ => deliver v f (.nan [a] false)
  | .inf s => deliver v f (.inf s)
  | .num s m e =>
    let (q, nx) := roundAt v.rm s m e 0
    if 0 ≤ e then deliver v f (.num s m e)
    else
      let r := deliver v f (if q = 0 then .zero s else .num s q 0)
      (r.1, r.2 ||| flagIf nx flNX)

/-- The class mask of an FP32 encoding (04 R95). -/
def fClass (x : Nat) : Nat :=
  match decodeF fp32 false x with
  | .nan _ q _ => if q then 2 else 1
  | .inf s => if s then 4 else 512
  | .num s m _ =>
    if m = 0 then (if s then 32 else 64)
    else if m < 2 ^ 23 then (if s then 16 else 128)
    else (if s then 8 else 256)

/-- The least and greatest value of integer format code 6 to 13 (02 R40, 03 R74). -/
def intRange (c : Nat) : Int × Int :=
  match c with
  | 6 => (-(2 ^ 31), 2 ^ 31 - 1)
  | 7 => (0, 2 ^ 32 - 1)
  | 8 => (-(2 ^ 15), 2 ^ 15 - 1)
  | 9 => (0, 2 ^ 16 - 1)
  | 10 => (-128, 127)
  | 11 => (0, 255)
  | 12 => (-8, 7)
  | _ => (0, 15)

/-- Whether integer format `c` is signed. -/
def intSigned (c : Nat) : Bool := c % 2 == 0

/-- The value of `bits`-wide pattern `x`, signed or not. -/
def intVal (bits : Nat) (signed : Bool) (x : Nat) : Int :=
  let y := x % 2 ^ bits
  if signed && 2 ^ (bits - 1) ≤ y then (y : Int) - 2 ^ bits else y

/-- The `bits`-wide pattern of an integer. -/
def wrapTo (bits : Nat) (x : Int) : Nat := (x % (2 ^ bits : Int)).toNat

/-- `x` limited to a range. -/
def clampInt (lo hi x : Int) : Int := if x < lo then lo else if hi < x then hi else x

/-- Absolute value, then negation, of a `bits`-wide integer; a signed result wraps (02 R47, 04 R84). -/
def intMods (bits : Nat) (signed ab ng : Bool) (x : Int) : Int :=
  let w (y : Int) : Int := if signed then intVal bits true (wrapTo bits y) else y
  let x := if ab && x < 0 then w (-x) else x
  if ng then w (-x) else x

/-- Absolute value, then negation, of a floating-point encoding: the sign bit only (02 R47). -/
def fltMods (f : FFmt) (ab ng : Bool) (x : Nat) : Nat :=
  let mag := x % f.signBit
  let s := (!ab && (x / f.signBit % 2 == 1)) != ng
  f.put s mag

/-- An exact integer result delivered through clamp `cl` to a `bits`-wide integer (04 R84, 02 R47). -/
def deliverInt (bits : Nat) (signed : Bool) (cl : Nat) (x : Int) : Nat :=
  match cl with
  | 1 => wrapTo bits (clampInt 0 1 x)
  | 2 =>
    if signed then wrapTo bits (clampInt (-(2 ^ (bits - 1))) (2 ^ (bits - 1) - 1) x)
    else wrapTo bits (clampInt 0 (2 ^ bits - 1) x)
  | 3 => wrapTo bits (if x < 0 then 0 else x)
  | _ => wrapTo bits x

/-- Bits of an element of format code `c`. -/
def elemBits (c : Nat) : Nat :=
  match c with
  | 0 | 6 | 7 => 32
  | 1 | 2 | 8 | 9 => 16
  | 3 | 4 | 10 | 11 => 8
  | _ => 4

/-- A value rounded to an integer of format `c` (02 R51). -/
def floatToInt (v : FEnv) (c : Nat) (a : FV) : Nat × Word :=
  let r := intRange c
  match a with
  | .nan _ _ _ => (0, flNV)
  | .inf s => (wrapTo (elemBits c) (if s then r.1 else r.2), flNV)
  | .num s m e =>
    let (q, nx) := roundAt v.rm s m e 0
    let q : Int := if s then -(q : Int) else q
    if q < r.1 || r.2 < q then (wrapTo (elemBits c) (clampInt r.1 r.2 q), flNV)
    else (wrapTo (elemBits c) q, flagIf nx flNX)

/-- One element converted from format `src` to `dst` (02 R50 to R52, 04 R100); `ab` and `ng` are the source modifiers,
`v.sat` is `.sat`. -/
def convert (v : FEnv) (dst src : Nat) (ab ng : Bool) (x : Nat) : Nat × Word :=
  let sb := elemBits src
  if src < 6 then
    let f := fmtOf src
    -- DAZ acts before any modifier, and keeps the sign (02 R46)
    let a := decodeF f v.daz (fltMods f ab ng x)
    if dst < 6 then
      deliver v (fmtOf dst) (match a with
        | .nan _ _ _ => .nan [a] false
        | .inf s => .inf s
        | .num s m e => if m = 0 then .zero s else .num s m e)
    else floatToInt v dst a
  else
    let sg := intSigned src
    let i := intMods sb sg ab ng (intVal sb sg x)
    if dst < 6 then
      deliver v (fmtOf dst) (if i = 0 then .zero false else .num (i < 0) i.natAbs 0)
    else
      let r := intRange dst
      (wrapTo (elemBits dst) (if v.sat then clampInt r.1 r.2 i else i), 0#32)

/-- Element `j` of width `b` of a packed value (02 R42). -/
def elem (x b j : Nat) : Nat := x / 2 ^ (b * j) % 2 ^ b

/-- The packed value of elements of width `b`, element 0 lowest. -/
def packElems (b : Nat) : List Nat → Nat
  | [] => 0
  | x :: t => x % 2 ^ b + 2 ^ b * packElems b t

/-- `x` with element `j` of width `b` replaced by `y`. -/
def setElem (x b j y : Nat) : Nat := x - elem x b j * 2 ^ (b * j) + (y % 2 ^ b) * 2 ^ (b * j)

/-- The exponent of E8 scale byte `e`: it denotes `2^(e-127)` (02 R41). -/
def scaleExp (e : Nat) : Int := (e : Int) - 127

/-- A value multiplied by `2^k`. -/
def FV.scale (k : Int) : FV → FV
  | .num s m e => .num s m (e + k)
  | x => x

end Sys2Proof.Machine
end

