-- ==== Sys2Proof/WellFormed.lean ====
section
/-! DEFINITION. WellFormed.lean: which field values each instruction accepts. `Instr.check n i` gives the ILLEGAL CAUSE
(26 R436) of the first check that fails, in the order R75 lists them, for a group whose allocation is `n`; a tile word
and a stream word are checked in the same way (06 R152, 22 R385). Events and commands carry no reserved fields here. -/
namespace Sys2Proof

/-- The operand classes of 03 R68. -/
inductive Cls where
  | lane | pair | quad | g | gPair | gQuad | gOct | ksrc | kdst | unused | free
  deriving DecidableEq, Repr

/-- The highest register count a group has; an allocation of 256 gives v0 to v254 (01 R14). -/
def laneLimit (n : Nat) : Nat := min n 255

/-- Whether a register field lies in its class; lane registers below the allocation `n` (01 R14, 03 R68). -/
def Cls.ok (n : Nat) (k : Cls) (x : BitVec 8) : Bool :=
  let r := x.toNat
  match k with
  | .lane   => r < laneLimit n || r == 255
  | .pair   => r % 2 == 0 && r + 1 < laneLimit n
  | .quad   => r % 4 == 0 && r + 3 < laneLimit n
  | .g      => r < 64 || r == 255
  | .gPair  => r < 64 && r % 2 == 0
  | .gQuad  => r < 64 && r % 4 == 0
  | .gOct   => r < 64 && r % 8 == 0
  | .ksrc   => r < 8
  | .kdst   => r < 7
  | .unused => r == 255
  | .free   => true

/-- The cause of the first failing check. -/
def firstCause (l : List (Bool × Nat)) : Option Nat := (l.find? (fun x => x.1)).map (fun x => x.2)

/-- Guard k7, not negated (03 R71). -/
def Head.isK7 (h : Head) : Bool := h.gp == 7#3 && !h.gn

/-- The modifiers, clamp, scale, override and UB that a form allows (03 R69, R70, R74). `ma`, `mb`, `mc`: source
modifiers of A, B, C. -/
structure Allow where
  ma : Bool := false
  mb : Bool := false
  mc : Bool := false
  c  : Bool := false
  s  : Bool := false
  r  : Bool := false
  u  : Bool := false
  deriving DecidableEq, Repr

/-- UB = 1 on a form marked u (03 R62, R69). -/
def RFmt.ub (f : RFmt) : Bool := f.fs.getLsbD 0

/-- Whether a modifier, clamp, scale or FS bit stands where the form allows none (03 R69, R70). -/
def RFmt.badMods (f : RFmt) (w : Allow) : Bool :=
  let m := f.mods
  ((m.getLsbD 0 || m.getLsbD 1) && !w.ma) || ((m.getLsbD 2 || m.getLsbD 3) && !w.mb) ||
  ((m.getLsbD 4 || m.getLsbD 5) && !w.mc) || (f.cl != 0#2 && !w.c) || (f.sc != 0#4 && !w.s) ||
  (if w.r then f.fs == 1#3 || f.fs == 2#3 || f.fs == 3#3
   else f.fs.getLsbD 1 || f.fs.getLsbD 2 || (f.fs.getLsbD 0 && !w.u))

/-- The checks of an R-format form: sub-opcode, modifiers, classes of D, A, B, C, guard, and others after them. -/
def checkR (n : Nat) (f : RFmt) (subOk : Bool) (w : Allow) (d a b c : Cls) (k7 : Bool := false)
    (extra1 : Bool := false) (extra : List (Bool × Nat) := []) : Option Nat :=
  let b' := if w.u && !w.r && f.ub then Cls.g else b
  firstCause ([(!subOk, 0), (f.badMods w || extra1, 1), (!(d.ok n f.d && a.ok n f.a && b'.ok n f.b && c.ok n f.c), 2),
    (k7 && !f.hd.isK7, 3)] ++ extra)

/-- The checks of an I-format form (03 R63). -/
def checkI (n : Nat) (f : IFmt) (subOk : Bool) (w : Allow) (d a : Cls) (k7 : Bool := false)
    (extra : List (Bool × Nat) := []) : Option Nat :=
  firstCause ([(!subOk, 0), (f.fs != 0#3 || f.sc != 0#4 || (f.cl != 0#2 && !w.c) || (f.mods != 0#2 && !w.ma), 1),
    (!(d.ok n f.d && a.ok n f.a), 2), (k7 && !f.hd.isK7, 3)] ++ extra)

/-- The checks of an M-format form; `zero` says that a field that must be zero is not. -/
def checkM (n : Nat) (f : MFmt) (subOk zero : Bool) (d a : Cls) (k7 : Bool := false) (isLdb : Bool := false)
    (extra : List (Bool × Nat) := []) : Option Nat :=
  firstCause ([(!subOk, 0), (zero || (!isLdb && (f.hint.getLsbD 2 || f.hint.getLsbD 3)), 1),
    (!(d.ok n f.d && a.ok n f.a), 2), (k7 && !f.hd.isK7, 3), (12 ≤ f.scope.toNat, 4)] ++ extra)

/-- The checks of a Y-format form; `zero` says that an unused bit of IMM16 is set. -/
def checkY (n : Nat) (f : YFmt) (subOk zero : Bool) (d a b : Cls) (k7 : Bool := true)
    (extra : List (Bool × Nat) := []) : Option Nat :=
  firstCause ([(!subOk, 0), (zero, 1), (!(d.ok n f.d && a.ok n f.a && b.ok n f.b), 2), (k7 && !f.hd.isK7, 3)] ++ extra)

/-- The checks of a B-format form (03 R66). -/
def checkB (f : BFmt) (zero cls : Bool) : Option Nat :=
  firstCause [(zero, 1), (cls, 2), (!f.hd.isK7, 3)]

/-- SUB 0 to 5 or 8 to 13: the relations of `iset` and `ccmp` (04 R89, 07 R175). -/
def isetSubOk (s : Nat) : Bool := s % 8 < 6
/-- The widths of a load: SUB 0 to 6 (05 R124). -/
def ldSubOk (s : Nat) : Bool := s < 7
/-- The widths of a store: SUB 0, 2, 4, 5, 6 (05 R124). -/
def stSubOk (s : Nat) : Bool := s == 0 || s == 2 || s == 4 || s == 5 || s == 6
/-- The class of the data register of a load or a store of width `s` (05 R124). -/
def widthCls (s : Nat) : Cls := if s == 5 then .pair else if s == 6 then .quad else .lane

/-- Bits of a format code's element: R74's codes, R37 and R40's widths. -/
def fmtBits (c : Nat) : Nat :=
  match c with
  | 0 | 6 | 7 => 32
  | 1 | 2 | 8 | 9 => 16
  | 3 | 4 | 10 | 11 => 8
  | _ => 4
/-- Codes 0 to 5 name floating-point formats (03 R74). -/
def fmtFloat (c : Nat) : Bool := c < 6

/-- The special-register numbers held per lane (01 R28). -/
def srLane (x : Nat) : Bool := x == 0x00 || x == 0x11
/-- The class of the register that holds or takes special register `x`; an unknown number names no class. -/
def srCls (x : Nat) : Cls := if 0x1A ≤ x then .free else if srLane x then .lane else .g
/-- The special-register numbers that `sets` may write (01 R28). -/
def srWritable (x : Nat) : Bool := x == 0x0C || x == 0x0D || x == 0x10 || x == 0x11

/-- BX, SCOPE, AC, HINT or OFF16 nonzero where the form wants zero. -/
def MFmt.nz (f : MFmt) (bx scope ac hint off : Bool) : Bool :=
  (bx && f.bx != 0#3) || (scope && f.scope != 0#4) || (ac && f.ac != 0#4) || (hint && f.hint != 0#4) ||
  (off && f.off != 0#16)

/-- The ILLEGAL cause of a conversion's fields (04 R100, R101). -/
def cvtExtra (f : RFmt) (indexed : Bool) : Bool × List (Bool × Nat) :=
  let dst := f.c.toNat / 16
  let src := f.c.toNat % 16
  let sub := f.sub.toNat
  ( (indexed && f.b.toNat / 16 != 0) || (f.sc != 0#4 && !fmtFloat dst) ||
      (f.fs != 0#3 && !fmtFloat dst && !fmtFloat src),
    [(14 ≤ dst || 14 ≤ src, 6),
     (indexed && (32 / fmtBits src ≤ sub || 32 / fmtBits dst ≤ f.b.toNat / 2 % 8), 6)] )

/-- The checks of a general-layout operation: which fields must be zero, and the ranges of its registers (06 R152). -/
def checkG (subOk zero cls : Bool) (extra : List (Bool × Nat) := []) : Option Nat :=
  firstCause ([(!subOk, 0), (zero, 1), (cls, 2)] ++ extra)

/-- Fields of the general layout that hold a nonzero value where the operation has no use for them. -/
def GFmt.nz (f : GFmt) (d a b c p f1 f2 imm : Bool) : Bool :=
  (d && f.d != 0#5) || (a && f.a != 0#5) || (b && f.b != 0#5) || (c && f.c != 0#5) || (p && f.p != 0#3) ||
  (f1 && f.f1 != 0#4) || (f2 && f.f2 != 0#4) || (imm && f.imm != 0#16)

/-- An even register of a pair, `r` of them to a group (07 R171, R187). -/
def notMult (x : BitVec 5) (r : Nat) : Bool := x.toNat % r != 0

/-- A scalar ALU operation with a register or an immediate B (07 R174). -/
def checkAlu (f : GFmt) : Option Nat :=
  let imm := f.sub == 1#5
  checkG (f.sub.toNat < 2) (f.nz false false imm true true true true (!imm)) false

/-- A scalar shift: an immediate count outside 0 to 31 raises ILLEGAL (07 R174). -/
def checkShift (f : GFmt) : Option Nat :=
  let imm := f.sub == 1#5
  checkG (f.sub.toNat < 2) (f.nz false false imm true true true true (!imm)) false [(imm && 31 < f.imm.toNat, 6)]

/-- The format pairs of the matrix unit: K, the bytes of A and of B (07 R204). -/
def mmaShape (f1 f2 : Nat) : Option (Nat × Nat × Nat) :=
  if f1 == 0 && f2 == 0 then some (16, 4096, 8192)
  else if (f1 == 1 && f2 == 1) || (f1 == 2 && f2 == 2) then some (64, 8192, 16384)
  else if (f1 == 3 || f1 == 4) && (f2 == 3 || f2 == 4) then some (128, 8192, 16384)
  else if (f1 == 10 || f1 == 11) && (f2 == 10 || f2 == 11) then some (128, 8192, 16384)
  else if f1 == 5 && f2 == 5 then some (256, 8192, 16384)
  else if (f1 == 12 || f1 == 13) && (f2 == 12 || f2 == 13) then some (256, 8192, 16384)
  else none

/-- A code of the cascade that may stand in a stage: 0 to 23; a fused form 12 to 14 only after `mul` (07 R189). -/
def casStageBad (isS32 : Bool) (op : Nat) (prev : Option Nat) : Bool :=
  24 ≤ op || (isS32 && 8 ≤ op && op ≤ 14) || (12 ≤ op && op ≤ 14 && prev != some 3)

/-- The ILLEGAL cause that instruction `i` has in a group whose allocation is `n`; `none` when it is legal. DESIGN CHOICE
(log entry 103): the unbinding form of `tbind` uses no `xb`, so its SUB bits 1:0 are unused and must be 0 as well
(07 R201). -/
def Instr.check (n : Nat) (i : Instr) : Option Nat :=
  match i with
  | .nop f => checkR n f (f.sub == 0#4) {} .unused .unused .unused .unused
  | .iadd f | .isub f | .imul f | .imulh f =>
    checkR n f (f.sub.toNat < 2) { ma := true, mb := true, c := true, u := true } .lane .lane .lane .unused
  | .imad f =>
    checkR n f (f.sub.toNat < 2) { ma := true, mb := true, mc := true, c := true, u := true } .lane .lane .lane .lane
  | .imadw f =>
    checkR n f (f.sub.toNat < 2) { ma := true, mb := true, mc := true, c := true, u := true } .pair .lane .lane .pair
  | .imin f | .imax f =>
    checkR n f (f.sub.toNat < 2) { ma := true, mb := true, u := true } .lane .lane .lane .unused
  | .iabs f => checkR n f (f.sub == 0#4) { c := true } .lane .lane .unused .unused
  | .shl f | .shr f | .sar f => checkR n f (f.sub == 0#4) { u := true } .lane .lane .lane .unused
  | .and f => checkR n f (f.sub == 0#4) { u := true } .lane .lane .lane .unused
  | .or f => checkR n f (f.sub == 1#4) { u := true } .lane .lane .lane .unused
  | .xor f => checkR n f (f.sub == 2#4) { u := true } .lane .lane .lane .unused
  | .andn f => checkR n f (f.sub == 3#4) { u := true } .lane .lane .lane .unused
  | .lop3 f =>
    checkR n f (f.sub == 0#4) { ma := true, mb := true, mc := true, c := true, u := true } .lane .lane .lane .lane
  | .popc f | .clz f | .brev f => checkR n f (f.sub == 0#4) {} .lane .lane .unused .unused
  | .bfx f => checkR n f (f.sub.toNat < 2) { u := true } .lane .lane .lane .unused
  | .bfi f | .prm f => checkR n f (f.sub == 0#4) { u := true } .lane .lane .lane .lane
  | .sel f => checkR n f (f.sub == 0#4) { u := true } .lane .lane .lane .ksrc
  | .mov f =>
    let s := f.sub.toNat
    checkR n f (s < 4) {} (if s < 2 then .lane else .g) (if s % 2 == 0 then .lane else .g) .unused .unused
  | .iset f => checkR n f (isetSubOk f.sub.toNat) { u := true } .kdst .lane .lane .unused
  | .isetImm f => checkI n f (isetSubOk f.sub.toNat) {} .kdst .lane
  | .movi f => checkI n f (f.sub.toNat < 2) {} .lane .unused
  | .movl f =>
    firstCause [(!(f.sub.toNat < 2), 0), (!((if f.sub == 0#4 then Cls.lane else Cls.g).ok n f.d), 2)]
  | .lea f => checkR n f (f.sub.toNat < 8) {} .pair .lane .gPair .unused
  | .xlat f => checkM n f (f.sub == 0#4) (f.nz false true true true false) .g .gPair true
  | .iaddImm f | .imulImm f => checkI n f (f.sub.toNat < 2) { ma := true, c := true } .lane .lane
  | .iminImm f | .imaxImm f => checkI n f (f.sub.toNat < 2) { ma := true } .lane .lane
  | .shlImm f | .shrImm f | .sarImm f =>
    checkI n f (f.sub == 0#4) {} .lane .lane false [(31 < f.imm.toNat, 6)]
  | .andImm f => checkI n f (f.sub == 0#4) {} .lane .lane
  | .orImm f => checkI n f (f.sub == 1#4) {} .lane .lane
  | .xorImm f => checkI n f (f.sub == 2#4) {} .lane .lane
  | .andnImm f => checkI n f (f.sub == 3#4) {} .lane .lane
  | .fadd f | .fsub f | .fmul f =>
    checkR n f (f.sub == 0#4) { ma := true, mb := true, c := true, s := true, r := true } .lane .lane .lane .unused
  | .fma f =>
    checkR n f (f.sub == 0#4) { ma := true, mb := true, mc := true, c := true, s := true, r := true }
      .lane .lane .lane .lane
  | .fmin f | .fmax f => checkR n f (f.sub == 0#4) { ma := true, mb := true } .lane .lane .lane .unused
  | .fset f => checkR n f (f.sub.toNat < 8) { ma := true, mb := true } .kdst .lane .lane .unused
  | .frnd f => checkR n f (f.sub == 0#4) { ma := true, c := true, r := true } .lane .lane .unused .unused
  | .fclass f => checkR n f (f.sub == 0#4) {} .lane .lane .unused .unused
  | .hadd2 f | .hmul2 f =>
    checkR n f (f.sub.toNat < 2) { ma := true, mb := true, c := true, s := true, r := true } .lane .lane .lane .unused
  | .hfma2 f =>
    checkR n f (f.sub.toNat < 2) { ma := true, mb := true, mc := true, c := true, s := true, r := true }
      .lane .lane .lane .lane
  | .hmin2 f | .hmax2 f => checkR n f (f.sub.toNat < 2) { ma := true, mb := true } .lane .lane .lane .unused
  | .padd4 f | .pmul4 f =>
    let fl := f.sub.toNat < 2
    if fl then
      checkR n f true { ma := true, mb := true, c := true, s := true, r := true } .lane .lane .lane .unused
    else checkR n f (f.sub.toNat < 4) { ma := true, mb := true, c := true } .lane .lane .lane .unused
  | .pmax4 f => checkR n f (f.sub.toNat < 4) { ma := true, mb := true } .lane .lane .lane .unused
  | .dot4 f =>
    let fl := f.sub.toNat < 2
    if fl then
      checkR n f true { ma := true, mb := true, mc := true, c := true, s := true, r := true } .lane .lane .lane .lane
    else checkR n f (f.sub.toNat < 4) { ma := true, mb := true, mc := true, c := true } .lane .lane .lane .lane
  | .dot8 f =>
    let fl := f.sub == 0#4
    if fl then
      checkR n f true { ma := true, mb := true, mc := true, c := true, s := true, r := true } .lane .lane .lane .lane
    else checkR n f (f.sub.toNat < 3) { ma := true, mb := true, mc := true, c := true } .lane .lane .lane .lane
  | .dot4s f =>
    checkR n f (f.sub.toNat % 4 < 2) { ma := true, mb := true, c := true, s := true, r := true } .lane .lane .lane .lane
  | .dot8s f =>
    checkR n f (f.sub.toNat % 4 == 0) { ma := true, mb := true, c := true, s := true, r := true } .lane .lane .lane .lane
  | .cvt f =>
    let x := cvtExtra f true
    checkR n f (f.sub.toNat < 8) { ma := true, s := true, r := true } .lane .lane .free .free false x.1 x.2
  | .cvtp f =>
    let x := cvtExtra f false
    checkR n f (f.sub.toNat < 2) { ma := true, mb := true, s := true, r := true } .lane .lane .lane .free false x.1 x.2
  | .pack f => checkR n f (f.sub.toNat < 3) {} .lane .lane .lane .unused
  | .unpack f => checkR n f (f.sub.toNat < 3) {} .pair .lane .unused .unused
  | .rcp f => checkR n f (f.sub == 0#4) { ma := true, c := true, s := true } .lane .lane .unused .unused
  | .rsq f => checkR n f (f.sub == 1#4) { ma := true, c := true, s := true } .lane .lane .unused .unused
  | .sqrt f => checkR n f (f.sub == 2#4) { ma := true, c := true, s := true } .lane .lane .unused .unused
  | .ex2 f => checkR n f (f.sub == 3#4) { ma := true, c := true, s := true } .lane .lane .unused .unused
  | .lg2 f => checkR n f (f.sub == 4#4) { ma := true, c := true, s := true } .lane .lane .unused .unused
  | .sin f => checkR n f (f.sub == 5#4) { ma := true, c := true, s := true } .lane .lane .unused .unused
  | .cos f => checkR n f (f.sub == 6#4) { ma := true, c := true, s := true } .lane .lane .unused .unused
  | .tanh f => checkR n f (f.sub == 7#4) { ma := true, c := true, s := true } .lane .lane .unused .unused
  | .shfl f => checkR n f (f.sub.toNat < 4) { u := true } .lane .lane .lane .unused
  | .vote f =>
    checkR n f (f.sub.toNat < 3) {} (if f.sub == 2#4 then .gPair else .kdst) .ksrc .unused .unused
  | .matchL f =>
    checkR n f (f.sub.toNat < 3) {} (if f.sub == 0#4 then .pair else if f.sub == 1#4 then .lane else .kdst)
      .lane .unused .unused
  | .redx f =>
    let t := f.c.toNat % 4
    checkR n f (f.sub.toNat < 6 && !(t == 0 && 3 ≤ f.sub.toNat)) { r := true } .g .lane .unused .free false
      (4 ≤ f.c.toNat || (t != 0 && f.fs != 0#3)) [(t == 3, 6)]
  | .plopAnd f => checkR n f (f.sub == 0#4) {} .kdst .ksrc .ksrc .unused
  | .plopOr f => checkR n f (f.sub == 1#4) {} .kdst .ksrc .ksrc .unused
  | .plopXor f => checkR n f (f.sub == 2#4) {} .kdst .ksrc .ksrc .unused
  | .plopAndn f => checkR n f (f.sub == 3#4) {} .kdst .ksrc .ksrc .unused
  | .pmov f => checkR n f (f.sub == 0#4) {} .kdst .ksrc .unused .unused
  | .p2g f => checkR n f (f.sub == 1#4) {} .gPair .ksrc .unused .unused
  | .g2p f => checkR n f (f.sub == 2#4) {} .kdst .gPair .unused .unused
  | .bra f => checkB f (f.x != 0#8) false
  | .bany f | .ball f | .bnone f => checkB f (8 ≤ f.x.toNat) false
  | .call f => checkB f false (!(Cls.gPair.ok n f.x))
  | .brx f | .ret f => checkR n f (f.sub == 0#4) {} .unused .gPair .unused .unused true
  | .exit f => checkR n f (f.sub == 0#4) {} .unused .unused .unused .unused
  | .yield f => checkR n f (f.sub == 0#4) {} .unused .unused .unused .unused true
  | .msplit f => checkR n f (f.sub == 0#4) {} .gPair .ksrc .unused .unused true
  | .mjoin f => checkR n f (f.sub == 0#4) {} .unused .gPair .unused .unused true
  | .bkpt f => checkI n f (f.sub == 0#4) {} .unused .unused true
  | .ld f | .ldacq f => checkM n f (ldSubOk f.sub.toNat) false (widthCls f.sub.toNat) .lane
  | .st f | .strel f => checkM n f (stSubOk f.sub.toNat) false (widthCls f.sub.toNat) .lane
  | .ldb f =>
    checkM n f (f.sub.toNat % 8 != 7) false (widthCls (f.sub.toNat % 8)) .lane false true
  | .atom f => checkM n f (f.sub.toNat < 9 || f.sub == 10#4) false .lane .lane
  | .red f => checkM n f (f.sub.toNat < 8 || f.sub == 10#4) false .lane .lane
  | .atomc f => checkM n f (f.sub.toNat < 2) false (if f.sub == 0#4 then .pair else .quad) .lane
  | .prf f => checkM n f (f.sub.toNat < 2) false .unused .lane
  | .lkup f => checkM n f (f.sub == 0#4) (f.nz true true true true true) .pair .lane
  | .tagset f => checkM n f (f.sub == 0#4) (f.nz true true true true true) .lane .lane
  | .ckout f | .ckin f =>
    checkM n f (f.sub == 0#4) false .lane .lane false false [(f.scope.toNat < 6, 4)]
  | .round f =>
    checkM n f (f.sub == 0#4) (f.nz true false true true true) .g .unused true false [(f.scope.toNat < 6, 4)]
  | .fence f => checkM n f (f.sub == 0#4) (f.nz true false true true true) .unused .unused true
  | .qfence f =>
    let m := f.off.toNat
    checkM n f (f.sub == 0#4) (f.nz true false true true false || 512 ≤ m)
      (if bitOf m 8 then .g else .unused) (if f.a == 0#8 then .free else .unused) true false
      [(m == 0, 6)]
  | .bar f | .waitpred f | .trigger f => checkY n f (f.sub == 0#4) (f.imm != 0#16) .unused .unused .unused
  | .barm f => checkY n f (f.sub == 0#4) (4 ≤ f.imm.toNat) .unused .g .unused
  | .barinit f => checkY n f (f.sub == 0#4) (f.imm != 0#16) .g .g .g
  | .arrive f =>
    checkY n f (f.sub.toNat < 2) false .g (if f.sub == 0#4 then .unused else .g) .g true
      [(f.imm == 0#16 || 4096 ≤ f.imm.toNat, 6)]
  | .waitb f => checkY n f (f.sub == 0#4) (f.imm != 0#16) .g .g .unused
  | .tryw f => checkY n f (f.sub == 0#4) (f.imm != 0#16) .g .g .kdst
  | .waitc f => checkY n f (f.sub == 0#4) false .unused .g .unused true [(4 ≤ f.imm.toNat, 6)]
  | .drain f =>
    checkY n f (f.sub == 0#4) (64 ≤ f.imm.toNat) .unused .unused .unused true [(12 ≤ f.imm.toNat % 16, 4)]
  | .cpy f =>
    checkY n f (f.sub == 0#4) (16 ≤ f.imm.toNat) .gOct .unused .g true [(f.imm.toNat / 4 % 4 == 3, 6)]
  | .cpyx f =>
    checkY n f (f.sub == 0#4) (16 ≤ f.imm.toNat) .gOct .lane .g false [(f.imm.toNat / 4 % 4 == 3, 6)]
  | .cpym f =>
    checkY n f (f.sub == 0#4) (16 ≤ f.imm.toNat) .gOct .g .g true [(f.imm.toNat / 4 % 4 == 3, 6)]
  | .mklay f => checkY n f (f.sub == 0#4) (f.imm != 0#16) .g .gPair .gQuad
  | .rmlay f => checkY n f (f.sub == 0#4) (f.imm != 0#16) .unused .g .unused
  | .gate f => firstCause [(!(f.sub == 0#4), 0), (!(Cls.unused.ok n f.d), 2), (!f.hd.isK7, 3)]
  | .reggrow f | .regshr f =>
    checkY n f (f.sub == 0#4) false .g .unused .unused true
      [(f.imm.toNat % 8 != 0 || f.imm.toNat < 8 || 248 < f.imm.toNat, 6)]
  | .trap f => checkY n f (f.sub == 0#4) false .unused .unused .unused
  | .gets f =>
    let x := f.imm.toNat
    checkY n f (f.sub == 0#4) false (srCls x) .unused .unused false [(0x1A ≤ x, 5)]
  | .sets f =>
    let x := f.imm.toNat
    checkY n f (f.sub == 0#4) false .unused (srCls x) .unused false [(!srWritable x, 5)]
  | .qfeat f | .qphys f =>
    checkY n f (f.sub == 0#4) false .g .unused .unused true [(64 ≤ f.imm.toNat, 6)]
  | .kvnew f => checkY n f (f.sub == 0#4) (f.imm != 0#16) .g .unused .unused
  | .kvfork f => checkY n f (f.sub == 0#4) (f.imm != 0#16) .g .g .unused
  | .kvapp f => checkY n f (f.sub == 0#4) false .gPair .g .unused true [(8 ≤ f.imm.toNat, 6)]
  | .kvmap f =>
    checkY n f (f.sub.toNat < 4) (f.imm != 0#16) (if f.sub == 3#4 then .pair else .lane) .g .g false
  | .kvret f => checkY n f (f.sub == 0#4) false .g .g .unused true [(8 ≤ f.imm.toNat, 6)]
  | .kvfree f => checkY n f (f.sub == 0#4) (f.imm != 0#16) .unused .g .unused
  | .kvcpt f => checkY n f (f.sub == 0#4) (f.imm != 0#16) .g .g .unused
  -- tile operations
  | .cnop f => checkG (f.sub == 0#5) (f.nz true true true true true true true true) false
  | .cadd f | .csub f | .cmul f | .cand f | .cor f | .cxor f => checkAlu f
  | .cshl f | .cshr f | .csar f => checkShift f
  | .cmov f => checkG (f.sub == 0#5) (f.nz false false true true true true true true) false
  | .cmovi f => checkG (f.sub == 0#5) (f.a != 0#5 || f.b != 0#5) false
  | .ccmp f =>
    let imm := f.sub.getLsbD 4
    checkG (isetSubOk f.sub.toNat) (f.nz false false imm true true true true (!imm)) false
  | .cld f => checkG (f.sub == 0#5) (f.nz false true true true false true true false) false
  | .cst f => checkG (f.sub == 0#5) (f.nz true false true true false true true false) false
  | .jmp f => checkG (f.sub == 0#5) (f.d != 0#5 || f.a != 0#5 || f.b != 0#5) false [(f.nul == 3#2, 6)]
  | .jc f => checkG (f.sub.toNat < 6) (f.d != 0#5 || f.b != 0#5) false [(f.nul == 3#2, 6)]
  | .jal f => checkG (f.sub == 0#5) (f.a != 0#5 || f.b != 0#5) false [(f.nul == 3#2, 6)]
  | .jr f => checkG (f.sub == 0#5) (f.nz true false true true true true true true) false
  | .loop f =>
    checkG (f.sub.toNat < 2) (f.b != 0#5 || f.nul != 0#2 || (f.sub == 1#5 && f.a != 0#5)) (4 ≤ f.d.toNat)
      [(f.off.toNat == 0 || f.off.getLsbD 19, 6)]
  | .gret f => checkG (f.sub == 0#5) (f.nz true true true true true true true true) false
  | .cgets f =>
    let x := f.imm.toNat
    checkG (f.sub == 0#5) (f.nz false true true true true true true false) false
      [(!(x < 0x0C || (0x10 ≤ x && x < 0x20)), 5)]
  | .csets f =>
    let x := f.imm.toNat
    checkG (f.sub == 0#5) (f.nz true false true true true true true false) false
      [(!(x < 2 || (8 ≤ x && x < 0x0C) || (0x10 ≤ x && x < 0x18)), 5)]
  | .apset f => checkG (f.sub == 0#5) (f.a != 0#5 || f.b != 0#5) (8 ≤ f.d.toNat)
  | .apadd f =>
    let imm := f.sub == 1#5
    checkG (f.sub.toNat < 2) (f.nz false true imm true true true true (!imm)) (8 ≤ f.d.toNat || (!imm && 16 ≤ f.b.toNat))
  | .sdset f => checkG (f.sub == 0#5) (f.a != 0#5 || f.b != 0#5) (16 ≤ f.d.toNat)
  | .lcset f => checkG (f.sub == 0#5) (f.a != 0#5 || f.b != 0#5) (4 ≤ f.d.toNat)
  | .apld f =>
    checkG (f.sub.toNat < 5) (f.nz false false true true true true true true) (8 ≤ f.d.toNat || notMult f.a 2)
  | .vcas f =>
    let s32 := f.ty == 3#2
    let o1 := f.op1.toNat
    let o2 := f.op2.toNat
    let o3 := f.op3.toNat
    checkG (!(24 ≤ o1 || 24 ≤ o2 || 24 ≤ o3)) false (f.xw && notMult f.wz 2)
      [(casStageBad s32 o1 none || casStageBad s32 o2 (some o1) || casStageBad s32 o3 (some o2), 6),
       (s32 && f.ps != 0#4, 6)]
  | .vld f =>
    if f.sub == 0#5 then checkG true (f.nz false true true true false true true false) false
    else checkG (f.sub == 1#5) (f.nz false false true true true true true false) (4 ≤ f.a.toNat) [(63 < f.imm.toNat, 6)]
  | .vst f =>
    if f.sub == 0#5 then checkG true (f.nz true false true true false true true false) false
    else checkG (f.sub == 1#5) (f.nz false false true true true true true false) (4 ≤ f.d.toNat) [(63 < f.imm.toNat, 6)]
  | .vldb f =>
    checkG (f.sub.toNat < 2) (f.nz false true true false false true true false) false [(15 < f.c.toNat, 6)]
  | .vcvt f =>
    let s := f.f1.toNat
    let d := f.f2.toNat
    let sb := fmtBits s
    let db := fmtBits d
    checkG (f.sub.toNat < 2) (f.nz false false true true true false false false || 16 ≤ f.imm.toNat)
      ((sb < db && notMult f.d (db / sb)) || (db < sb && notMult f.a (sb / db)))
      [(14 ≤ s || 14 ≤ d, 6), (8 * db ≤ sb || 8 * sb ≤ db, 6), (!fmtFloat d && f.imm != 0#16, 6)]
  | .vred f =>
    checkG (f.sub.toNat < 6 && !(3 ≤ f.sub.toNat && fmtFloat f.f1.toNat)) (f.nz false false true true true false true true)
      false [(14 ≤ f.f1.toNat, 6)]
  | .vbcast f =>
    if f.sub == 0#5 then checkG true (f.nz false false true true true true false true) false [(14 ≤ f.f2.toNat, 6)]
    else checkG (f.sub == 1#5) (f.nz false false true true true true false false) false
      [(14 ≤ f.f2.toNat, 6), (4096 / fmtBits f.f2.toNat ≤ f.imm.toNat, 6)]
  | .vperm f =>
    checkG (f.sub == 0#5) (f.nz false false false true true false true true) false
      [(14 ≤ f.f1.toNat, 6), (fmtBits f.f1.toNat < 16, 6)]
  | .vsel f => checkG (f.sub == 0#5) (f.nz false false false false true false true true) false [(14 ≤ f.f1.toNat, 6)]
  | .tbind f =>
    let un := f.sub.getLsbD 2
    checkG (f.sub.toNat < 8 && !(un && f.sub.toNat != 4)) (f.nz false un true true un true true un) (16 ≤ f.d.toNat)
  | .sfill f =>
    checkG (f.sub.toNat < 8) (f.nz false false (!f.sub.getLsbD 2) true true true true true) (8 ≤ f.d.toNat || 16 ≤ f.a.toNat)
  | .sdrop f => checkG (f.sub == 0#5) (f.nz false false true true true true true true) (8 ≤ f.d.toNat)
  | .mma f | .mmaz f =>
    checkG (f.sub == 0#5) (f.nz false false false true true false false true)
      (4 ≤ f.d.toNat || 8 ≤ f.a.toNat || 8 ≤ f.b.toNat) [((mmaShape f.f1.toNat f.f2.toNat).isNone, 6)]
  | .ast f => checkG (f.sub.toNat < 2) (f.nz false false true true true true true true) (16 ≤ f.d.toNat || 4 ≤ f.a.toNat)
  | .ald f => checkG (f.sub == 0#5) (f.nz false false true true true true true true) (4 ≤ f.d.toNat || 16 ≤ f.a.toNat)
  | .amask f => checkG (f.sub == 0#5) (f.nz false false false true false true true true) (4 ≤ f.d.toNat)
  | .tskip f => checkG (f.sub == 0#5) (f.nz false false false true false true true true) false
  | .trn f =>
    checkG (f.sub == 0#5) (f.nz false false true true true true true false || f.imm.getLsbD 15)
      (16 ≤ f.d.toNat || 16 ≤ f.a.toNat)
  | .vgmv f =>
    checkG (f.sub == 0#5) (f.nz false false false false true true true true)
      (16 ≤ f.d.toNat || 16 ≤ f.a.toNat || 16 ≤ f.b.toNat)
  | .tileCpy f =>
    let mode := f.imm.toNat % 4
    checkG (f.sub.toNat < 16)
      (f.nz false false (!f.sub.getLsbD 2) (!f.sub.getLsbD 3) (mode != 2) true true false || 1024 ≤ f.imm.toNat ||
        (mode != 1 && f.imm.toNat / 4 != 0))
      (16 ≤ f.d.toNat || 16 ≤ f.a.toNat || (f.sub.getLsbD 3 && notMult f.c 2)) [(mode == 3, 6)]
  | .tileCpyx f | .tileCpym f =>
    let mode := f.imm.toNat % 4
    checkG (f.sub.toNat < 8)
      (f.nz false false (!f.sub.getLsbD 2) false (mode != 2) true true false || 1024 ≤ f.imm.toNat ||
        (mode != 1 && f.imm.toNat / 4 != 0))
      (16 ≤ f.d.toNat || 16 ≤ f.a.toNat) [(mode == 3, 6)]
  | .bfence f => checkG (f.sub == 0#5) (f.nz false true true true true true true true) false
  | .bwait f => checkG (f.sub == 0#5) (f.nz true false true true true true true true) false
  | .tileQfence f =>
    let m := f.imm.toNat
    checkG (f.sub == 0#5) (f.nz true (!bitOf m 8) true true true false true false || 512 ≤ m) false
      [(12 ≤ f.f1.toNat, 4), (m == 0, 6)]
  | .tileDrain f =>
    checkG (f.sub.toNat < 4) (f.nz true true true true true false true true) false [(12 ≤ f.f1.toNat, 4)]
  | .tileRound f =>
    checkG (f.sub == 0#5) (f.nz true false true true true false true true) false [(12 ≤ f.f1.toNat || f.f1.toNat < 6, 4)]
  -- stream instructions (22 R388)
  | .launch _ => none
  | .xfer f | .hand f => firstCause [(f.opnd.getLsbD 49, 1)]
  | .res f | .resRelease f => firstCause [((f.opnd.getLsbD 49) != (match i with | .resRelease _ => true | _ => false), 0)]
  | .sigevAdd f | .sigevSet f =>
    let mode := f.opnd.toNat / 2 ^ 12 % 4
    let sc := f.opnd.toNat / 2 ^ 14 % 16
    firstCause [(mode != (match i with | .sigevSet _ => 1 | _ => 0), 0), (sc != 6 && sc != 7, 6)]
  | .waitev f => firstCause [(f.opnd.toNat / 2 ^ 12 % 64 != 0, 1)]
  | .twait _ => none
  | .jump f => firstCause [(f.opnd.toNat / 2 ^ 32 != 0, 1)]
  | .halt f | .snop f => firstCause [(f.opnd != 0#50, 1)]
  -- events and commands
  | .resultLands _ _ | .gwctReturn _ | .watchdog _ | .trywTimeout _ | .roundStall _ | .roundIncrement _ _
  | .roundBroadcast _ _ _ | .roundFetchAnswer _ | .reggrowGrant _ _ | .arbiterTimeout _ _ | .gateClose _
  | .bundleIssue _ | .timedCommandRelease _ | .cloveCommandComplete _ _ | .matrixCommandComplete _ _
  | .aniseCommandComplete _ | .cuminCommandComplete _ | .qfenceEntryRelease _ | .residueMismatch _
  | .resolveReplayPatch _ _ | .resolveSkip _ _ | .resolveRetry _ _ | .resolveUnresolvable _ _ | .faultRecordWrite _
  | .kick _ _ | .streamInstructionStart _ | .launchComplete _ | .xferComplete _ _ | .twaitExpiry _ _
  | .distributorPlace _ | .unitBlocking _ | .create _ | .destroy _ | .load _ | .unload _ | .preempt _ | .resume _
  | .spill _ | .migout _ | .migin _ | .shootdown _ _ _ | .shootdownComplete _ | .handoverKick _ _
  | .requantisationKick _ _ | .requantSwap _ | .portConfig _ _ _ | .portRetrained _ | .ptpFrame _ _ | .fabricFrame _ _
  | .linkFailure _ | .peerReset _ _ | .linkReconnect _ _ _ | .linkNotRestored _ | .lochFrame _ _
  | .lochEntryComplete _ | .bind _ _ _ | .unbind _ _ | .cxlMemRead _ _ | .cxlMemWrite _ _ | .hostSnoop _
  | .hostLinkLost | .uncorrectableError _ | .correctableError _ | .attest _ _ | .update _ _ _ _ | .updateWindowEnd _
  | .powerCap _ _ | .clockStep _ | .criticalTemperature | .telemetryRefresh | .coldReset | .grandmasterTimeout
  | .registerWrite _ _ | .chipTimeReachesGw _ | .rangesResident _ _ | .partitionDescriptorWrite _ _ _ _ _
  | .debuggerStop _ | .debuggerResume _ _ | .debuggerAttach _ _ | .backInvalidationAnswer _ | .savetimePassed _ => none

/-- An instruction whose every field a group with a full allocation accepts. -/
abbrev Instr.wf (i : Instr) : Prop := i.check 256 = none

end Sys2Proof
end

