-- ==== Sys2Proof/Machine/Operands.lean ====
section
/-! DEFINITION. Operands.lean: the operand forms of lane instructions: lane registers and UB (03 R62, R69), source
modifiers (02 R47, 04 R84), immediates, packed elements (02 R42), and the settings of `fm` with the overrides of a word
(01 R26, 03 R70). -/
namespace Sys2Proof

/-- absA and negA. -/
def RFmt.ma (f : RFmt) : Bool × Bool := (f.mods.getLsbD 1, f.mods.getLsbD 0)
/-- absB and negB. -/
def RFmt.mb (f : RFmt) : Bool × Bool := (f.mods.getLsbD 3, f.mods.getLsbD 2)
/-- absC and negC. -/
def RFmt.mc (f : RFmt) : Bool × Bool := (f.mods.getLsbD 5, f.mods.getLsbD 4)
/-- The sign-extended immediate of the I format as a word. -/
def IFmt.simm (f : IFmt) : Word := f.imm.signExtend 32
/-- The zero-extended immediate of the logic forms (03 R63). -/
def IFmt.zimm (f : IFmt) : Word := f.imm.setWidth 32

end Sys2Proof

namespace Sys2Proof.Machine

/-- Source B of a form marked u: a lane register, or under UB a group-uniform register that every lane reads. -/
def Group.rB (g : Group) (st : Nat) (f : RFmt) (lane : Nat) : Word :=
  if f.ub then g.rg st f.b else g.rv st f.b lane

/-- A lane pair read, low word in the even register. -/
def Group.rvPair (g : Group) (st : Nat) (r : BitVec 8) (lane : Nat) : DWord :=
  pairWord (g.rv st (r + 1#8) lane) (g.rv st r lane)

/-- An integer source of 32 bits after its modifiers. -/
def intSrc (signed : Bool) (m : Bool × Bool) (x : Word) : Int := intMods 32 signed m.1 m.2 (intVal 32 signed x.toNat)

/-- A floating-point source element after its modifiers, DAZ applied. -/
def fltSrc (v : FEnv) (f : FFmt) (m : Bool × Bool) (x : Nat) : FV := decodeF f v.daz (fltMods f m.1 m.2 x)

/-- The settings of an R-format floating-point form: `fm` with RO, SC and CL (03 R70, 02 R43, R47). -/
def Group.env (g : Group) (f : RFmt) : FEnv := (envOf g.fm).withMods f.fs.toNat f.sc.toInt f.cl.toNat

/-- The elements of width `b` of a word. -/
def elemsOf (b : Nat) (x : Word) : List Nat := (List.range (32 / b)).map (fun j => elem x.toNat b j)

end Sys2Proof.Machine
end

