-- ==== Sys2Proof/Machine/Flags.lean ====
section
/-! DEFINITION. Flags.lean: what a lane instruction writes: a word with its flags ORed into `fx` (01 R27), packed results
whose flags are ORed together (02 R53), and the integer result of a clamp (04 R84). -/
namespace Sys2Proof.Machine

/-- A 32-bit result and its flags, in one lane. -/
def wRes (g : Group) (d : BitVec 8) (lane : Nat) (r : Nat × Word) : Writes :=
  wV d lane (BitVec.ofNat 32 r.1) ++ wFx g lane r.2

/-- The results of packed elements of width `b`: the word, and the OR of the flags (02 R53). -/
def packRes (b : Nat) (l : List (Nat × Word)) : Nat × Word :=
  (packElems b (l.map (fun e => e.1)), l.foldl (fun a e => a ||| e.2) 0#32)

/-- An exact integer result delivered through the clamp to 32 bits. -/
def intRes (signed : Bool) (cl : Nat) (x : Int) : Word := BitVec.ofNat 32 (deliverInt 32 signed cl x)

/-- A predicate result and its flags, in one lane. -/
def wPred (g : Group) (d : BitVec 8) (lane : Nat) (r : Bool × Word) : Writes := wK d lane r.1 ++ wFx g lane r.2

end Sys2Proof.Machine
end

