-- ==== Sys2Proof/Decode.lean ====
section
/-! DEFINITION. Decode.lean: the decoders of lane words (03 R61 to R67, R74, R75), tile operation words (06 R152 to R157)
and stream words (22 R385, R388), each total, and the encoder. A word no instruction has is rejected with the ILLEGAL
CAUSE of 26 R436: 0 for a reserved opcode or sub-opcode, 1 for a nonzero reserved field. The checks that depend on the
operands are `Instr.check`, made when the instruction executes. -/
namespace Sys2Proof

/-- What a decoder answers: an instruction, or the ILLEGAL CAUSE. -/
abbrev Dec := Except Nat Instr

/-- `n` bits of `w` from bit `lo` on, as a number. -/
def fld (w : DWord) (lo n : Nat) : Nat := (w.extractLsb' lo n).toNat

/-- `d`, unless the reserved bits `r` are not zero; a reserved sub-opcode comes before them (03 R75). -/
def reserved (r : Nat) (d : Dec) : Dec :=
  if r = 0 then d
  else match d with
    | .error c => .error c
    | .ok i => if i.check 256 = some 0 then .error 0 else .error 1

/-- Entry `k` of `l`; a reserved sub-opcode beyond its end. -/
def nth (k : Nat) (l : List Instr) : Dec :=
  match l, k with
  | [], _ => .error 0
  | i :: _, 0 => .ok i
  | _ :: t, k + 1 => nth k t

/-- Bits 63 and 15:12, which every lane word shares (03 R62, R71). -/
def unpackHead (w : DWord) : Head := ⟨w.getLsbD 63, w.getLsbD 15, w.extractLsb' 12 3⟩

/-- The fields of the R format (03 R62). -/
def unpackR (w : DWord) : RFmt :=
  ⟨unpackHead w, w.extractLsb' 60 3, w.extractLsb' 56 4, w.extractLsb' 54 2, w.extractLsb' 48 6, w.extractLsb' 40 8,
    w.extractLsb' 32 8, w.extractLsb' 24 8, w.extractLsb' 16 8, w.extractLsb' 8 4⟩

/-- The fields of the I format (03 R63). -/
def unpackI (w : DWord) : IFmt :=
  ⟨unpackHead w, w.extractLsb' 60 3, w.extractLsb' 56 4, w.extractLsb' 54 2, w.extractLsb' 48 2, w.extractLsb' 32 16,
    w.extractLsb' 24 8, w.extractLsb' 16 8, w.extractLsb' 8 4⟩

/-- The fields of the L format (03 R64). -/
def unpackL (w : DWord) : LFmt := ⟨unpackHead w, w.extractLsb' 24 32, w.extractLsb' 16 8, w.extractLsb' 8 4⟩

/-- The fields of the M format (03 R65). -/
def unpackM (w : DWord) : MFmt :=
  ⟨unpackHead w, w.extractLsb' 59 4, w.extractLsb' 43 16, w.extractLsb' 39 4, w.extractLsb' 35 4, w.extractLsb' 32 3,
    w.extractLsb' 24 8, w.extractLsb' 16 8, w.extractLsb' 8 4⟩

/-- The fields of the B format (03 R66). -/
def unpackB (w : DWord) : BFmt := ⟨unpackHead w, w.extractLsb' 40 8, w.extractLsb' 16 24⟩

/-- The fields of the Y format (03 R67). -/
def unpackY (w : DWord) : YFmt :=
  ⟨unpackHead w, w.extractLsb' 40 16, w.extractLsb' 32 8, w.extractLsb' 24 8, w.extractLsb' 16 8, w.extractLsb' 8 4⟩

/-- The fields of the general layout (06 R153). -/
def unpackG (w : DWord) : GFmt :=
  ⟨w.extractLsb' 48 16, w.extractLsb' 44 4, w.extractLsb' 40 4, w.extractLsb' 37 3, w.extractLsb' 32 5,
    w.extractLsb' 26 5, w.extractLsb' 21 5, w.extractLsb' 16 5, w.extractLsb' 11 5⟩

/-- The fields of the jump layout (06 R154). -/
def unpackJ (w : DWord) : JFmt :=
  ⟨w.extractLsb' 44 20, w.extractLsb' 42 2, w.extractLsb' 26 5, w.extractLsb' 21 5, w.extractLsb' 16 5,
    w.extractLsb' 11 5⟩

/-- The fields of the constant layout (06 R155). -/
def unpackK (w : DWord) : KFmt :=
  ⟨w.extractLsb' 32 32, w.extractLsb' 26 5, w.extractLsb' 21 5, w.extractLsb' 16 5, w.extractLsb' 11 5⟩

/-- The fields of the cascade layout (06 R156). -/
def unpackV (w : DWord) : VFmt :=
  ⟨w.extractLsb' 59 5, w.extractLsb' 54 5, w.extractLsb' 49 5, w.extractLsb' 44 5, w.extractLsb' 39 5,
    w.extractLsb' 35 4, w.extractLsb' 33 2, w.getLsbD 32, w.extractLsb' 30 2, w.extractLsb' 28 2, w.extractLsb' 26 2,
    w.extractLsb' 21 5, w.extractLsb' 16 5, w.extractLsb' 11 5, w.extractLsb' 0 2⟩

/-- The fields of a stream instruction (22 R385). -/
def unpackS (w : DWord) : SFmt := ⟨w.extractLsb' 6 8, w.extractLsb' 14 50⟩

/-- The lane instruction of a word (03 R74, R75). -/
def decodeLane (w : DWord) : Dec :=
  match fld w 0 8 with
  | 0x01 => .ok (.nop (unpackR w))
  | 0x10 => .ok (.iadd (unpackR w))
  | 0x11 => .ok (.isub (unpackR w))
  | 0x12 => .ok (.imul (unpackR w))
  | 0x13 => .ok (.imad (unpackR w))
  | 0x14 => .ok (.imulh (unpackR w))
  | 0x15 => .ok (.imadw (unpackR w))
  | 0x16 => .ok (.imin (unpackR w))
  | 0x17 => .ok (.imax (unpackR w))
  | 0x18 => .ok (.iabs (unpackR w))
  | 0x19 => .ok (.shl (unpackR w))
  | 0x1A => .ok (.shr (unpackR w))
  | 0x1B => .ok (.sar (unpackR w))
  | 0x1C => nth (fld w 8 4) [.and (unpackR w), .or (unpackR w), .xor (unpackR w), .andn (unpackR w)]
  | 0x1D => .ok (.lop3 (unpackR w))
  | 0x1E => .ok (.popc (unpackR w))
  | 0x1F => .ok (.clz (unpackR w))
  | 0x20 => .ok (.brev (unpackR w))
  | 0x21 => .ok (.bfx (unpackR w))
  | 0x22 => .ok (.bfi (unpackR w))
  | 0x23 => .ok (.prm (unpackR w))
  | 0x24 => .ok (.sel (unpackR w))
  | 0x25 => .ok (.mov (unpackR w))
  | 0x26 => .ok (.iset (unpackR w))
  | 0x27 => reserved (fld w 50 4) (.ok (.movi (unpackI w)))
  | 0x28 => reserved (fld w 56 7) (.ok (.movl (unpackL w)))
  | 0x29 => .ok (.lea (unpackR w))
  | 0x30 => reserved (fld w 50 4) (.ok (.iaddImm (unpackI w)))
  | 0x31 => reserved (fld w 50 4) (.ok (.imulImm (unpackI w)))
  | 0x32 => reserved (fld w 50 4) (.ok (.iminImm (unpackI w)))
  | 0x33 => reserved (fld w 50 4) (.ok (.imaxImm (unpackI w)))
  | 0x34 => reserved (fld w 50 4) (.ok (.shlImm (unpackI w)))
  | 0x35 => reserved (fld w 50 4) (.ok (.shrImm (unpackI w)))
  | 0x36 => reserved (fld w 50 4) (.ok (.sarImm (unpackI w)))
  | 0x37 => reserved (fld w 50 4) (nth (fld w 8 4) [.andImm (unpackI w), .orImm (unpackI w), .xorImm (unpackI w), .andnImm (unpackI w)])
  | 0x38 => reserved (fld w 50 4) (.ok (.isetImm (unpackI w)))
  | 0x40 => .ok (.fadd (unpackR w))
  | 0x41 => .ok (.fsub (unpackR w))
  | 0x42 => .ok (.fmul (unpackR w))
  | 0x43 => .ok (.fma (unpackR w))
  | 0x44 => .ok (.fmin (unpackR w))
  | 0x45 => .ok (.fmax (unpackR w))
  | 0x46 => .ok (.fset (unpackR w))
  | 0x47 => .ok (.frnd (unpackR w))
  | 0x48 => .ok (.fclass (unpackR w))
  | 0x50 => .ok (.hadd2 (unpackR w))
  | 0x51 => .ok (.hmul2 (unpackR w))
  | 0x52 => .ok (.hfma2 (unpackR w))
  | 0x53 => .ok (.hmin2 (unpackR w))
  | 0x54 => .ok (.hmax2 (unpackR w))
  | 0x58 => .ok (.padd4 (unpackR w))
  | 0x59 => .ok (.pmul4 (unpackR w))
  | 0x5A => .ok (.pmax4 (unpackR w))
  | 0x60 => .ok (.dot4 (unpackR w))
  | 0x61 => .ok (.dot8 (unpackR w))
  | 0x62 => .ok (.dot4s (unpackR w))
  | 0x63 => .ok (.dot8s (unpackR w))
  | 0x68 => .ok (.cvt (unpackR w))
  | 0x69 => .ok (.cvtp (unpackR w))
  | 0x6A => .ok (.pack (unpackR w))
  | 0x6B => .ok (.unpack (unpackR w))
  | 0x70 => nth (fld w 8 4) [.rcp (unpackR w), .rsq (unpackR w), .sqrt (unpackR w), .ex2 (unpackR w), .lg2 (unpackR w), .sin (unpackR w), .cos (unpackR w), .tanh (unpackR w)]
  | 0x78 => .ok (.shfl (unpackR w))
  | 0x79 => .ok (.vote (unpackR w))
  | 0x7A => .ok (.matchL (unpackR w))
  | 0x7B => .ok (.redx (unpackR w))
  | 0x7C => nth (fld w 8 4) [.plopAnd (unpackR w), .plopOr (unpackR w), .plopXor (unpackR w), .plopAndn (unpackR w)]
  | 0x7D => nth (fld w 8 4) [.pmov (unpackR w), .p2g (unpackR w), .g2p (unpackR w)]
  | 0x80 => reserved (fld w 48 15) (nth (fld w 8 4) [.bra (unpackB w), .bany (unpackB w), .ball (unpackB w), .bnone (unpackB w), .call (unpackB w)])
  | 0x81 => .ok (.brx (unpackR w))
  | 0x82 => .ok (.ret (unpackR w))
  | 0x83 => .ok (.exit (unpackR w))
  | 0x84 => .ok (.yield (unpackR w))
  | 0x85 => .ok (.msplit (unpackR w))
  | 0x86 => .ok (.mjoin (unpackR w))
  | 0x87 => reserved (fld w 50 4) (.ok (.bkpt (unpackI w)))
  | 0x90 => .ok (.ld (unpackM w))
  | 0x91 => .ok (.st (unpackM w))
  | 0x92 => .ok (.ldb (unpackM w))
  | 0x93 => .ok (.ldacq (unpackM w))
  | 0x94 => .ok (.strel (unpackM w))
  | 0x95 => .ok (.atom (unpackM w))
  | 0x96 => .ok (.atomc (unpackM w))
  | 0x97 => .ok (.red (unpackM w))
  | 0x98 => .ok (.prf (unpackM w))
  | 0x99 => .ok (.lkup (unpackM w))
  | 0x9A => .ok (.tagset (unpackM w))
  | 0x9B => .ok (.ckout (unpackM w))
  | 0x9C => .ok (.ckin (unpackM w))
  | 0x9D => .ok (.round (unpackM w))
  | 0x9E => .ok (.fence (unpackM w))
  | 0x9F => .ok (.qfence (unpackM w))
  | 0xA0 => .ok (.xlat (unpackM w))
  | 0xB0 => reserved (fld w 56 7) (.ok (.bar (unpackY w)))
  | 0xB1 => reserved (fld w 56 7) (.ok (.barm (unpackY w)))
  | 0xB2 => reserved (fld w 56 7) (.ok (.barinit (unpackY w)))
  | 0xB3 => reserved (fld w 56 7) (.ok (.arrive (unpackY w)))
  | 0xB4 => reserved (fld w 56 7) (.ok (.waitb (unpackY w)))
  | 0xB5 => reserved (fld w 56 7) (.ok (.tryw (unpackY w)))
  | 0xB6 => reserved (fld w 56 7) (.ok (.waitc (unpackY w)))
  | 0xB7 => reserved (fld w 56 7) (.ok (.drain (unpackY w)))
  | 0xB8 => reserved (fld w 56 7) (.ok (.trigger (unpackY w)))
  | 0xB9 => reserved (fld w 56 7) (.ok (.waitpred (unpackY w)))
  | 0xC0 => reserved (fld w 56 7) (.ok (.cpy (unpackY w)))
  | 0xC1 => reserved (fld w 56 7) (.ok (.cpyx (unpackY w)))
  | 0xC2 => reserved (fld w 56 7) (.ok (.cpym (unpackY w)))
  | 0xC3 => reserved (fld w 56 7) (.ok (.mklay (unpackY w)))
  | 0xC4 => reserved (fld w 56 7) (.ok (.rmlay (unpackY w)))
  | 0xC8 => reserved (fld w 56 7) (.ok (.gate (unpackL w)))
  | 0xC9 => reserved (fld w 56 7) (.ok (.reggrow (unpackY w)))
  | 0xCA => reserved (fld w 56 7) (.ok (.regshr (unpackY w)))
  | 0xD0 => reserved (fld w 56 7) (.ok (.trap (unpackY w)))
  | 0xD1 => reserved (fld w 56 7) (.ok (.gets (unpackY w)))
  | 0xD2 => reserved (fld w 56 7) (.ok (.sets (unpackY w)))
  | 0xD3 => reserved (fld w 56 7) (.ok (.qfeat (unpackY w)))
  | 0xD4 => reserved (fld w 56 7) (.ok (.qphys (unpackY w)))
  | 0xE0 => reserved (fld w 56 7) (.ok (.kvnew (unpackY w)))
  | 0xE1 => reserved (fld w 56 7) (.ok (.kvfork (unpackY w)))
  | 0xE2 => reserved (fld w 56 7) (.ok (.kvapp (unpackY w)))
  | 0xE3 => reserved (fld w 56 7) (.ok (.kvmap (unpackY w)))
  | 0xE4 => reserved (fld w 56 7) (.ok (.kvret (unpackY w)))
  | 0xE5 => reserved (fld w 56 7) (.ok (.kvfree (unpackY w)))
  | 0xE6 => reserved (fld w 56 7) (.ok (.kvcpt (unpackY w)))
  | _ => .error 0

/-- `i`, if the slot class is `c` and the reserved bits `r` are zero (06 R152). -/
def ofClass (w : DWord) (c r : Nat) (i : Instr) : Dec :=
  if fld w 8 3 = c then reserved r (.ok i) else .error 0

/-- The tile operation of a word (06 R157). -/
def decodeTile (w : DWord) : Dec :=
  match fld w 0 8 with
  | 0x01 => ofClass w 0 (fld w 31 1) (.cnop (unpackG w))
  | 0x02 => ofClass w 0 (fld w 31 1) (.cadd (unpackG w))
  | 0x03 => ofClass w 0 (fld w 31 1) (.csub (unpackG w))
  | 0x04 => ofClass w 0 (fld w 31 1) (.cmul (unpackG w))
  | 0x05 => ofClass w 0 (fld w 31 1) (.cand (unpackG w))
  | 0x06 => ofClass w 0 (fld w 31 1) (.cor (unpackG w))
  | 0x07 => ofClass w 0 (fld w 31 1) (.cxor (unpackG w))
  | 0x08 => ofClass w 0 (fld w 31 1) (.cshl (unpackG w))
  | 0x09 => ofClass w 0 (fld w 31 1) (.cshr (unpackG w))
  | 0x0A => ofClass w 0 (fld w 31 1) (.csar (unpackG w))
  | 0x0B => ofClass w 0 (fld w 31 1) (.cmov (unpackG w))
  | 0x0C => ofClass w 0 (fld w 31 1) (.cmovi (unpackK w))
  | 0x0D => ofClass w 0 (fld w 31 1) (.ccmp (unpackG w))
  | 0x0E => ofClass w 0 (fld w 31 1) (.cld (unpackG w))
  | 0x0F => ofClass w 0 (fld w 31 1) (.cst (unpackG w))
  | 0x10 => ofClass w 0 (fld w 31 11) (.jmp (unpackJ w))
  | 0x11 => ofClass w 0 (fld w 31 11) (.jc (unpackJ w))
  | 0x12 => ofClass w 0 (fld w 31 11) (.jal (unpackJ w))
  | 0x13 => ofClass w 0 (fld w 31 1) (.jr (unpackG w))
  | 0x14 => ofClass w 0 (fld w 31 11) (.loop (unpackJ w))
  | 0x15 => ofClass w 0 (fld w 31 1) (.gret (unpackG w))
  | 0x16 => ofClass w 0 (fld w 31 1) (.cgets (unpackG w))
  | 0x17 => ofClass w 0 (fld w 31 1) (.csets (unpackG w))
  | 0x20 => ofClass w 1 (fld w 31 1) (.apset (unpackK w))
  | 0x21 => ofClass w 1 (fld w 31 1) (.apadd (unpackG w))
  | 0x22 => ofClass w 1 (fld w 31 1) (.sdset (unpackK w))
  | 0x23 => ofClass w 1 (fld w 31 1) (.lcset (unpackK w))
  | 0x24 => ofClass w 1 (fld w 31 1) (.apld (unpackG w))
  | 0x40 | 0x41 | 0x42 | 0x43 => ofClass w 2 0 (.vcas (unpackV w))
  | 0x44 => ofClass w 2 (fld w 31 1) (.vld (unpackG w))
  | 0x45 => ofClass w 2 (fld w 31 1) (.vst (unpackG w))
  | 0x46 => ofClass w 2 (fld w 31 1) (.vcvt (unpackG w))
  | 0x47 => ofClass w 2 (fld w 31 1) (.vred (unpackG w))
  | 0x48 => ofClass w 2 (fld w 31 1) (.vbcast (unpackG w))
  | 0x49 => ofClass w 2 (fld w 31 1) (.vperm (unpackG w))
  | 0x4A => ofClass w 2 (fld w 31 1) (.vsel (unpackG w))
  | 0x4B => ofClass w 2 (fld w 31 1) (.vldb (unpackG w))
  | 0x60 => ofClass w 3 (fld w 31 1) (.tbind (unpackG w))
  | 0x61 => ofClass w 3 (fld w 31 1) (.mma (unpackG w))
  | 0x62 => ofClass w 3 (fld w 31 1) (.mmaz (unpackG w))
  | 0x63 => ofClass w 3 (fld w 31 1) (.ast (unpackG w))
  | 0x64 => ofClass w 3 (fld w 31 1) (.ald (unpackG w))
  | 0x65 => ofClass w 3 (fld w 31 1) (.amask (unpackG w))
  | 0x66 => ofClass w 3 (fld w 31 1) (.tskip (unpackG w))
  | 0x67 => ofClass w 3 (fld w 31 1) (.trn (unpackG w))
  | 0x68 => ofClass w 3 (fld w 31 1) (.vgmv (unpackG w))
  | 0x69 => ofClass w 3 (fld w 31 1) (.tileCpy (unpackG w))
  | 0x6A => ofClass w 3 (fld w 31 1) (.tileCpyx (unpackG w))
  | 0x6B => ofClass w 3 (fld w 31 1) (.tileCpym (unpackG w))
  | 0x6C => ofClass w 3 (fld w 31 1) (.sfill (unpackG w))
  | 0x6D => ofClass w 3 (fld w 31 1) (.sdrop (unpackG w))
  | 0x6E => ofClass w 3 (fld w 31 1) (.bfence (unpackG w))
  | 0x6F => ofClass w 3 (fld w 31 1) (.bwait (unpackG w))
  | 0x70 => ofClass w 3 (fld w 31 1) (.tileQfence (unpackG w))
  | 0x71 => ofClass w 3 (fld w 31 1) (.tileDrain (unpackG w))
  | 0x72 => ofClass w 3 (fld w 31 1) (.tileRound (unpackG w))
  | _ => .error 0

/-- The stream instruction of a word (22 R385, R388): bit 63 tells the two forms of `res` apart, bit 26 those of
`sigev`. -/
def decodeStream (w : DWord) : Dec :=
  match fld w 0 6 with
  | 1 => .ok (.launch (unpackS w))
  | 2 => .ok (.xfer (unpackS w))
  | 3 => if fld w 26 2 = 1 then .ok (.sigevSet (unpackS w)) else .ok (.sigevAdd (unpackS w))
  | 4 => .ok (.waitev (unpackS w))
  | 5 => .ok (.twait (unpackS w))
  | 6 => .ok (.hand (unpackS w))
  | 7 => if w.getLsbD 63 then .ok (.resRelease (unpackS w)) else .ok (.res (unpackS w))
  | 8 => .ok (.jump (unpackS w))
  | 9 => .ok (.halt (unpackS w))
  | 10 => .ok (.snop (unpackS w))
  | _ => .error 0

/-- A Boolean as one bit of a word. -/
def bit1 (b : Bool) : BitVec 1 := BitVec.ofBool b

/-- The word of an R-format instruction with opcode `op` (03 R62). -/
def packR (op : BitVec 8) (f : RFmt) : DWord :=
  bit1 f.hd.s ++ f.fs ++ f.sc ++ f.cl ++ f.mods ++ f.c ++ f.b ++ f.a ++ f.d ++ bit1 f.hd.gn ++ f.hd.gp ++ f.sub ++ op

/-- The word of an I-format instruction (03 R63). -/
def packI (op : BitVec 8) (f : IFmt) : DWord :=
  bit1 f.hd.s ++ f.fs ++ f.sc ++ f.cl ++ 0#4 ++ f.mods ++ f.imm ++ f.a ++ f.d ++ bit1 f.hd.gn ++ f.hd.gp ++ f.sub ++ op

/-- The word of an L-format instruction (03 R64). -/
def packL (op : BitVec 8) (f : LFmt) : DWord :=
  bit1 f.hd.s ++ 0#7 ++ f.imm ++ f.d ++ bit1 f.hd.gn ++ f.hd.gp ++ f.sub ++ op

/-- The word of an M-format instruction (03 R65). -/
def packM (op : BitVec 8) (f : MFmt) : DWord :=
  bit1 f.hd.s ++ f.hint ++ f.off ++ f.ac ++ f.scope ++ f.bx ++ f.a ++ f.d ++ bit1 f.hd.gn ++ f.hd.gp ++ f.sub ++ op

/-- The word of a relative branch of condition `cond` (03 R66). -/
def packB (cond : BitVec 4) (f : BFmt) : DWord :=
  bit1 f.hd.s ++ 0#15 ++ f.x ++ f.off ++ bit1 f.hd.gn ++ f.hd.gp ++ cond ++ 0x80#8

/-- The word of a Y-format instruction (03 R67). -/
def packY (op : BitVec 8) (f : YFmt) : DWord :=
  bit1 f.hd.s ++ 0#7 ++ f.imm ++ f.b ++ f.a ++ f.d ++ bit1 f.hd.gn ++ f.hd.gp ++ f.sub ++ op

/-- The word of a general-layout operation of class `cls` (06 R153). -/
def packG (op : BitVec 8) (cls : BitVec 3) (f : GFmt) : DWord :=
  f.imm ++ f.f2 ++ f.f1 ++ f.p ++ f.c ++ 0#1 ++ f.b ++ f.a ++ f.d ++ f.sub ++ cls ++ op

/-- The word of a jump-layout operation (06 R154). -/
def packJ (op : BitVec 8) (cls : BitVec 3) (f : JFmt) : DWord :=
  f.off ++ f.nul ++ 0#11 ++ f.b ++ f.a ++ f.d ++ f.sub ++ cls ++ op

/-- The word of a constant-layout operation (06 R155). -/
def packK (op : BitVec 8) (cls : BitVec 3) (f : KFmt) : DWord :=
  f.imm ++ 0#1 ++ f.b ++ f.a ++ f.d ++ f.sub ++ cls ++ op

/-- The word of a cascade (06 R156). -/
def packV (f : VFmt) : DWord :=
  f.op3 ++ f.op2 ++ f.op1 ++ f.wd ++ f.wc ++ f.ps ++ f.cl ++ bit1 f.xw ++ f.mc ++ f.mb ++ f.ma ++ f.wb ++ f.wa ++
    f.wz ++ 2#3 ++ 0x10#6 ++ f.ty

/-- The word of a stream instruction (22 R385). -/
def packS (op : BitVec 6) (f : SFmt) : DWord := f.opnd ++ f.dep ++ op

/-- The word of an instruction; 0, which no set decodes, for an event or a command. -/
def encode (i : Instr) : DWord :=
  match i with
  | .nop f => packR 0x01 f
  | .iadd f => packR 0x10 f
  | .isub f => packR 0x11 f
  | .imul f => packR 0x12 f
  | .imad f => packR 0x13 f
  | .imulh f => packR 0x14 f
  | .imadw f => packR 0x15 f
  | .imin f => packR 0x16 f
  | .imax f => packR 0x17 f
  | .iabs f => packR 0x18 f
  | .shl f => packR 0x19 f
  | .shr f => packR 0x1A f
  | .sar f => packR 0x1B f
  | .and f => packR 0x1C f
  | .or f => packR 0x1C f
  | .xor f => packR 0x1C f
  | .andn f => packR 0x1C f
  | .lop3 f => packR 0x1D f
  | .popc f => packR 0x1E f
  | .clz f => packR 0x1F f
  | .brev f => packR 0x20 f
  | .bfx f => packR 0x21 f
  | .bfi f => packR 0x22 f
  | .prm f => packR 0x23 f
  | .sel f => packR 0x24 f
  | .mov f => packR 0x25 f
  | .iset f => packR 0x26 f
  | .lea f => packR 0x29 f
  | .fadd f => packR 0x40 f
  | .fsub f => packR 0x41 f
  | .fmul f => packR 0x42 f
  | .fma f => packR 0x43 f
  | .fmin f => packR 0x44 f
  | .fmax f => packR 0x45 f
  | .fset f => packR 0x46 f
  | .frnd f => packR 0x47 f
  | .fclass f => packR 0x48 f
  | .hadd2 f => packR 0x50 f
  | .hmul2 f => packR 0x51 f
  | .hfma2 f => packR 0x52 f
  | .hmin2 f => packR 0x53 f
  | .hmax2 f => packR 0x54 f
  | .padd4 f => packR 0x58 f
  | .pmul4 f => packR 0x59 f
  | .pmax4 f => packR 0x5A f
  | .dot4 f => packR 0x60 f
  | .dot8 f => packR 0x61 f
  | .dot4s f => packR 0x62 f
  | .dot8s f => packR 0x63 f
  | .cvt f => packR 0x68 f
  | .cvtp f => packR 0x69 f
  | .pack f => packR 0x6A f
  | .unpack f => packR 0x6B f
  | .rcp f => packR 0x70 f
  | .rsq f => packR 0x70 f
  | .sqrt f => packR 0x70 f
  | .ex2 f => packR 0x70 f
  | .lg2 f => packR 0x70 f
  | .sin f => packR 0x70 f
  | .cos f => packR 0x70 f
  | .tanh f => packR 0x70 f
  | .shfl f => packR 0x78 f
  | .vote f => packR 0x79 f
  | .matchL f => packR 0x7A f
  | .redx f => packR 0x7B f
  | .plopAnd f => packR 0x7C f
  | .plopOr f => packR 0x7C f
  | .plopXor f => packR 0x7C f
  | .plopAndn f => packR 0x7C f
  | .pmov f => packR 0x7D f
  | .p2g f => packR 0x7D f
  | .g2p f => packR 0x7D f
  | .brx f => packR 0x81 f
  | .ret f => packR 0x82 f
  | .exit f => packR 0x83 f
  | .yield f => packR 0x84 f
  | .msplit f => packR 0x85 f
  | .mjoin f => packR 0x86 f
  | .movi f => packI 0x27 f
  | .iaddImm f => packI 0x30 f
  | .imulImm f => packI 0x31 f
  | .iminImm f => packI 0x32 f
  | .imaxImm f => packI 0x33 f
  | .shlImm f => packI 0x34 f
  | .shrImm f => packI 0x35 f
  | .sarImm f => packI 0x36 f
  | .andImm f => packI 0x37 f
  | .orImm f => packI 0x37 f
  | .xorImm f => packI 0x37 f
  | .andnImm f => packI 0x37 f
  | .isetImm f => packI 0x38 f
  | .bkpt f => packI 0x87 f
  | .movl f => packL 0x28 f
  | .gate f => packL 0xC8 f
  | .bra f => packB 0 f
  | .bany f => packB 1 f
  | .ball f => packB 2 f
  | .bnone f => packB 3 f
  | .call f => packB 4 f
  | .ld f => packM 0x90 f
  | .st f => packM 0x91 f
  | .ldb f => packM 0x92 f
  | .ldacq f => packM 0x93 f
  | .strel f => packM 0x94 f
  | .atom f => packM 0x95 f
  | .atomc f => packM 0x96 f
  | .red f => packM 0x97 f
  | .prf f => packM 0x98 f
  | .lkup f => packM 0x99 f
  | .tagset f => packM 0x9A f
  | .ckout f => packM 0x9B f
  | .ckin f => packM 0x9C f
  | .round f => packM 0x9D f
  | .fence f => packM 0x9E f
  | .qfence f => packM 0x9F f
  | .xlat f => packM 0xA0 f
  | .bar f => packY 0xB0 f
  | .barm f => packY 0xB1 f
  | .barinit f => packY 0xB2 f
  | .arrive f => packY 0xB3 f
  | .waitb f => packY 0xB4 f
  | .tryw f => packY 0xB5 f
  | .waitc f => packY 0xB6 f
  | .drain f => packY 0xB7 f
  | .trigger f => packY 0xB8 f
  | .waitpred f => packY 0xB9 f
  | .cpy f => packY 0xC0 f
  | .cpyx f => packY 0xC1 f
  | .cpym f => packY 0xC2 f
  | .mklay f => packY 0xC3 f
  | .rmlay f => packY 0xC4 f
  | .reggrow f => packY 0xC9 f
  | .regshr f => packY 0xCA f
  | .trap f => packY 0xD0 f
  | .gets f => packY 0xD1 f
  | .sets f => packY 0xD2 f
  | .qfeat f => packY 0xD3 f
  | .qphys f => packY 0xD4 f
  | .kvnew f => packY 0xE0 f
  | .kvfork f => packY 0xE1 f
  | .kvapp f => packY 0xE2 f
  | .kvmap f => packY 0xE3 f
  | .kvret f => packY 0xE4 f
  | .kvfree f => packY 0xE5 f
  | .kvcpt f => packY 0xE6 f
  | .cnop f => packG 0x01 0 f
  | .cadd f => packG 0x02 0 f
  | .csub f => packG 0x03 0 f
  | .cmul f => packG 0x04 0 f
  | .cand f => packG 0x05 0 f
  | .cor f => packG 0x06 0 f
  | .cxor f => packG 0x07 0 f
  | .cshl f => packG 0x08 0 f
  | .cshr f => packG 0x09 0 f
  | .csar f => packG 0x0A 0 f
  | .cmov f => packG 0x0B 0 f
  | .ccmp f => packG 0x0D 0 f
  | .cld f => packG 0x0E 0 f
  | .cst f => packG 0x0F 0 f
  | .jr f => packG 0x13 0 f
  | .gret f => packG 0x15 0 f
  | .cgets f => packG 0x16 0 f
  | .csets f => packG 0x17 0 f
  | .apadd f => packG 0x21 1 f
  | .apld f => packG 0x24 1 f
  | .vld f => packG 0x44 2 f
  | .vst f => packG 0x45 2 f
  | .vcvt f => packG 0x46 2 f
  | .vred f => packG 0x47 2 f
  | .vbcast f => packG 0x48 2 f
  | .vperm f => packG 0x49 2 f
  | .vsel f => packG 0x4A 2 f
  | .vldb f => packG 0x4B 2 f
  | .tbind f => packG 0x60 3 f
  | .mma f => packG 0x61 3 f
  | .mmaz f => packG 0x62 3 f
  | .ast f => packG 0x63 3 f
  | .ald f => packG 0x64 3 f
  | .amask f => packG 0x65 3 f
  | .tskip f => packG 0x66 3 f
  | .trn f => packG 0x67 3 f
  | .vgmv f => packG 0x68 3 f
  | .tileCpy f => packG 0x69 3 f
  | .tileCpyx f => packG 0x6A 3 f
  | .tileCpym f => packG 0x6B 3 f
  | .sfill f => packG 0x6C 3 f
  | .sdrop f => packG 0x6D 3 f
  | .bfence f => packG 0x6E 3 f
  | .bwait f => packG 0x6F 3 f
  | .tileQfence f => packG 0x70 3 f
  | .tileDrain f => packG 0x71 3 f
  | .tileRound f => packG 0x72 3 f
  | .jmp f => packJ 0x10 0 f
  | .jc f => packJ 0x11 0 f
  | .jal f => packJ 0x12 0 f
  | .loop f => packJ 0x14 0 f
  | .cmovi f => packK 0x0C 0 f
  | .apset f => packK 0x20 1 f
  | .sdset f => packK 0x22 1 f
  | .lcset f => packK 0x23 1 f
  | .vcas f => packV f
  | .launch f => packS 1 f
  | .xfer f => packS 2 f
  | .sigevAdd f => packS 3 f
  | .sigevSet f => packS 3 f
  | .waitev f => packS 4 f
  | .twait f => packS 5 f
  | .hand f => packS 6 f
  | .res f => packS 7 f
  | .resRelease f => packS 7 f
  | .jump f => packS 8 f
  | .halt f => packS 9 f
  | .snop f => packS 10 f
  | .resultLands _ _ | .gwctReturn _ | .watchdog _ | .trywTimeout _ | .roundStall _ | .roundIncrement _ _
  | .roundBroadcast _ _ _ | .roundFetchAnswer _ | .reggrowGrant _ _ | .arbiterTimeout _ _ | .gateClose _
  | .bundleIssue _ | .timedCommandRelease _ | .cloveCommandComplete _ _ | .matrixCommandComplete _ _
  | .aniseCommandComplete _ | .cuminCommandComplete _ | .qfenceEntryRelease _ | .residueMismatch _
  | .resolveReplayPatch _ _ | .resolveSkip _ _ | .resolveRetry _ _ | .resolveUnresolvable _ _
  | .faultRecordWrite _ | .kick _ _ | .streamInstructionStart _ | .launchComplete _ | .xferComplete _ _
  | .twaitExpiry _ _ | .distributorPlace _ | .unitBlocking _ | .create _ | .destroy _ | .load _ | .unload _
  | .preempt _ | .resume _ | .spill _ | .migout _ | .migin _ | .shootdown _ _ _ | .shootdownComplete _
  | .handoverKick _ _ | .requantisationKick _ _ | .requantSwap _ | .portConfig _ _ _ | .portRetrained _
  | .ptpFrame _ _ | .fabricFrame _ _ | .linkFailure _ | .peerReset _ _ | .linkReconnect _ _ _ | .lochFrame _ _
  | .lochEntryComplete _ | .bind _ _ _ | .unbind _ _ | .cxlMemRead _ _ | .cxlMemWrite _ _ | .hostSnoop _
  | .hostLinkLost | .uncorrectableError _ | .correctableError _ | .attest _ _ | .update _ _ _ _
  | .updateWindowEnd _ | .powerCap _ _ | .clockStep _ | .criticalTemperature | .telemetryRefresh | .coldReset
  | .grandmasterTimeout | .registerWrite _ _ | .chipTimeReachesGw _ | .rangesResident _ _ | .linkNotRestored _
  | .partitionDescriptorWrite _ _ _ _ _ | .debuggerStop _ | .debuggerResume _ _ | .debuggerAttach _ _
  | .backInvalidationAnswer _ | .savetimePassed _ => 0#64

/-- The sets of instructions a word is read in. -/
inductive WordSet where
  | lane | tile | stream
  deriving DecidableEq, Repr

/-- The instruction whose bits are `w`: a lane word first, then a tile word, then a stream word. A word takes 64 bits in
every set, so shorter ones are filled with zeros above. -/
def decodeTableWord (nbits w : Nat) : Option Instr :=
  let x : DWord := BitVec.ofNat 64 (w % 2 ^ nbits)
  match decodeLane x, decodeTile x, decodeStream x with
  | .ok i, _, _ => some i
  | _, .ok i, _ => some i
  | _, _, .ok i => some i
  | _, _, _ => none

end Sys2Proof
end

