-- ==== Sys2Proof/Machine/Teams.lean ====
section
/-! DEFINITION. Teams.lean: layout arithmetic (10 R249), barrier objects and waits (05 R137 to R140), the fault queue
(26 R441 to R443), the exit of groups and release of resources (09 R215, R218), the opening of a gate (12 R288 to R290),
and the ends of units (09 R231, 26 R440). -/
namespace Sys2Proof.Machine

/-! ### Layouts (10 R247 to R249) -/

/-- Elements of a record. -/
def Layout.count (l : Layout) : Nat := (l.size.take l.ndim).foldl (· * ·) 1

/-- Bits of an element. -/
def Layout.bits (l : Layout) : Nat :=
  match l.fmt with
  | 0 | 6 | 7 => 32 | 1 | 2 | 8 | 9 => 16 | 3 | 4 | 10 | 11 => 8 | _ => 4

/-- Whether elements are nibbles. -/
def Layout.nib (l : Layout) : Bool := l.bits == 4

/-- The coordinates of element `k`, dimension 0 fastest. -/
def coords : List Nat → Nat → List Nat
  | [], _ => []
  | z :: t, k => k % z :: coords t (k / z)

/-- The byte offset of an element, and which nibble it is (10 R249). -/
def Layout.offset (l : Layout) (k : Nat) : Int × Nat :=
  let c := coords (l.size.take l.ndim) k
  let o : Int := (List.range l.ndim).foldl (fun a j => a + (nthD c j 0 : Nat) * nthD l.stride j 0) 0
  let i0 := nthD c 0 0
  let o := if l.nib then o + (i0 / 2 : Nat) else o
  let o : Int := if l.tord == 1 then
      o / 128 * 128 + (((o % 128).toNat ^^^ ((nthD c 1 0 % 8) * 16) : Nat) : Int) else o
  (o, if l.nib then i0 % 2 else 0)

/-- The lowest and highest offsets of a record (10 R249). -/
def Layout.extent (l : Layout) : Int × Int :=
  let f (pick : Int → Int) : Int := (List.range l.ndim).foldl (fun a j =>
    a + pick (((nthD l.size j 1 : Nat) - 1 : Int) * nthD l.stride j 0)) 0
  let p0 : Int := if l.nib then ((nthD l.size 0 1 - 1) / 2 : Nat) else 0
  (f (fun x => if x < 0 then x else 0), f (fun x => if x < 0 then 0 else x) + p0 + ((l.bits + 7) / 8 : Nat))

/-- Whether base `b` meets the allocation recorded at `mklay` (10 R249). -/
def LayHandle.fits (h : LayHandle) (b : Nat) : Bool :=
  let e := h.lay.extent
  let al := if h.lay.tord == 1 then 128 else (h.lay.bits + 7) / 8
  b % al == 0 && (h.base : Int) ≤ b + e.1 && (b : Int) + e.2 ≤ h.base + h.len

/-! ### Fault queue -/

/-- The place word of a record (26 R442). -/
def placeWord (core q slot ti st : Nat) : DWord :=
  BitVec.ofNat 64 (core + q * 2 ^ 8 + slot * 2 ^ 10 + ti * 2 ^ 14 + st * 2 ^ 16)

/-- The 128 bytes of a record (26 R442). -/
def FQRec.bytes (r : FQRec) : List Byte :=
  leBytes 8 r.frec.w0.toNat ++ leBytes 8 r.frec.w1.toNat ++ leBytes 8 r.frec.w2.toNat ++ leBytes 8 r.frec.w3.toNat ++
  leBytes 8 r.frec.at_.toNat ++ leBytes 8 r.frec.mask.toNat ++ leBytes 8 (r.id + r.cls * 2 ^ 32 + r.source * 2 ^ 40) ++
  leBytes 8 r.place.toNat ++ leBytes 8 r.time.toNat ++ List.replicate 56 0#8

/-- Whether the ring has room for a record of class `cls` (26 R443). -/
def FaultQ.room (f : FaultQ) (cls : Nat) : Bool :=
  let used := (f.tail - f.head).toNat
  f.base != 0#64 && (used + 1 < 2 ^ f.logn || (cls == 2 && used < 2 ^ f.logn))

/-- Whether a new record of class `cls` enters the internal buffer, in which records wait while there is no ring: 64 entries,
the last one for a fatal record; one that finds no room waits outside (26 R441, R443). -/
def FaultQ.buffers (f : FaultQ) (cls : Nat) : Bool :=
  let used := f.recs.countP (fun r => r.buffered && !r.written)
  f.base == 0#64 && (used < 63 || (cls == 2 && used < 64))

/-- The record that is written next, where it has room: the oldest of the buffer, then the oldest that waits outside
(26 R443). -/
def FaultQ.nextRec (f : FaultQ) : Option FQRec :=
  let l := f.recs.filter (fun r => !r.written && f.room r.cls)
  (l.find? (fun r => r.buffered)).or l.head?

/-- A record written to the ring, where it has room and the host does not hold its place (25 R425, 26 R443). -/
def State.writeRec (s : State) (cn : Nat) (id : Nat) : State :=
  match KMap.look s.ctxs cn with
  | none => s
  | some c =>
    match c.fq.recs.find? (fun r => r.id == id && !r.written) with
    | none => s
    | some r =>
      let pa := c.fq.base.toNat + 128 * (c.fq.tail.toNat % 2 ^ c.fq.logn)
      if !c.fq.room r.cls then s
      else if s.hostHas pa 128 || s.homeBusy pa then s.snoop pa 128
      else
        let s1 := s.homeWrite none pa r.bytes
        let note := c.fq.tail == c.fq.head || r.cls == 2
        let upd (x : FQRec) : FQRec := if x.id == id then { x with written := true } else x
        -- a notice is done with once it is written; a record of class 0 stays outstanding
        let recs := (c.fq.recs.map upd).filter (fun x => x.cls == 0 || !x.written)
        { s1.updC cn (fun c => { c with fq := { c.fq with tail := c.fq.tail + 1#64, recs := recs } }) with
          outbox := if note then s1.outbox ++ [.msix c.fq.vector] else s1.outbox }

/-- A new record in a context's fault queue (26 R442). -/
def State.record (s : State) (cn cls source unit cmd : Nat) (place : DWord) (r : FaultRec) : State :=
  match KMap.look s.ctxs cn with
  | none => s
  | some c =>
    let id := c.fq.nextId.toNat
    let x : FQRec := ⟨id, cls, source, unit, cmd, place, s.time64, r, false, c.fq.buffers cls⟩
    let fq := { c.fq with nextId := c.fq.nextId + 1#32, recs := c.fq.recs ++ [x] }
    let s := s.updC cn (fun c => { c with fq := fq })
    if (fq.nextRec.map (fun r => r.id)) == some id then s.writeRec cn id else s

/-! ### Windows and peers (17 R343 to R345) -/

/-- A known peer, or one not met yet: generation 1, reachable (17 R345). -/
def State.peerOf (s : State) (p : Nat) : Peer := (KMap.look s.peers p).getD ⟨1#32, true, 0, 0, 0, [], []⟩

/-- Port `n`. -/
def State.port (s : State) (n : Nat) : Port := (KMap.look s.ports n).getD Port.reset

/-- The mode a port works in: 3 acts as 0, and a port that retrains carries nothing (25 R427). -/
def Port.works (p : Port) : Option Nat := if p.training.isSome then none else some (if p.mode == 3 then 0 else p.mode)

/-- Whether a frame may leave now: one to a peer only through a port in fabric mode (25 R428). -/
def State.mayLeave (s : State) (o : Out) : Bool :=
  match o with
  | .frame port _ => (s.port port).works == some 1
  | _ => true

/-- A frame leaves at chip time `due`, or as soon as its port carries fabric frames; those before it at the port go first
(25 R428, R429). -/
def State.send (s : State) (due : Nat) (o : Out) : State :=
  let same (x : Out) : Bool := match x, o with
    | .frame p _, .frame q _ => p == q
    | _, _ => false
  let behind := match o with
    | .frame _ (.request _ _ _ _ _ _ _) => s.acks.any (fun a => same a.2 && !s.mayLeave a.2)
    | _ => false
  if due ≤ s.chipTime && s.mayLeave o && !behind then { s with outbox := s.outbox ++ [o] }
  else { s with acks := s.acks ++ [(due, o)] }

/-- An access of context `cn` sent to a peer: numbered, and unacknowledged from now on (17 R345, 25 R429). -/
def State.access (s : State) (peer cn pctx : Nat) (rva : DWord) (lva : Nat) (kind : RemoteKind) (gid : Option Nat)
    (hold lane : Nat) (via : Option PageInfo) : State :=
  let pr := s.peerOf peer
  ({ s with
    nextId := s.nextId + 1
    remote := s.remote ++ [⟨s.nextId, peer, pr.gen.toNat, cn, pctx, rva, lva, kind, gid, hold, lane, s.chipTime⟩] } : State).send
      s.chipTime (.frame (Config.portOfPeer peer).toNat (.request peer s.nextId pr.gen.toNat pctx rva kind via))

/-- Whether a remote access writes: a store, `red`, atomic or `ckin` (17 R346). -/
def remoteWrites (k : RemoteKind) : Bool :=
  match k with
  | .read _ => false
  | .checkout => false
  | .hostOut => false
  | _ => true

/-- Whether as many stores and atomics to a peer are unacknowledged as there may ever be (17 R346). -/
def State.linkFull (s : State) (peer : Nat) : Bool :=
  512 ≤ s.remote.countP (fun a => a.peer == peer && remoteWrites a.kind)

/-- The place where accesses to a peer wait that would be one too many (17 R346). -/
def linkPlace (peer : Nat) : Nat := 2 ^ 71 + peer

/-- What the entry of window `l.frame` makes of `va`: peer, context and address there; `none` where the entry is malformed or
does not hold `va` (17 R343, R344). -/
def State.windowTo (s : State) (cn : Nat) (l : Leaf) (va : Nat) : Option (Nat × Nat × Nat) :=
  (KMap.look s.ctxs cn).bind (fun c =>
    let w (k : Nat) := s.memNat (c.winBase + 32 * l.frame + 8 * k) 8
    let lbase := w 0
    let len := w 1
    let rbase := w 2
    let w3 := w 3
    if c.winCount ≤ l.frame || !bitOf w3 63 || bitsOf w3 62 24 != 0 || bitsOf lbase 63 57 != 0 ||
        bitsOf rbase 63 57 != 0 || va < lbase || lbase + len ≤ va then none
    else some (bitsOf w3 11 0, bitsOf w3 23 12, va - lbase + rbase))

/-- The block of a context under which a check-out on its way to another merge agent will have its working copy; one through a
window has it under va + 2^52 (11 R284, 20 R373). -/
def RemAcc.block (a : RemAcc) : Option Nat :=
  match a.kind with
  | .checkout => some ((2 ^ 52 + a.lva) / 4096)
  | .hostOut => some (a.va.toNat / 4096)
  | _ => none

/-- The place of a group. -/
def State.groupPlace (s : State) (g : Group) : DWord :=
  match KMap.look s.halves g.hid with
  | some h => placeWord h.core h.quarter g.slot 0 0
  | none => 0#64

/-- The context of a group. -/
def State.ctxOf (s : State) (g : Group) : Nat := ((KMap.look s.halves g.hid).map (fun h => h.ctx)).getD 0
/-- The core of a group. -/
def State.coreOf (s : State) (g : Group) : Nat := ((KMap.look s.halves g.hid).map (fun h => h.core)).getD 0

/-! ### Waking -/

/-- The retry counts of queued commands, kept under 10 + level; those of instructions stand under the level. -/
def Group.copyTries (g : Group) : Regs 8 := g.retries.filter (fun e => 10 ≤ e.1)

/-- `watch` set to zero by an event of 05 R116; watchdog retries are forgotten (09 R232). -/
def Group.clearWatch (g : Group) : Group :=
  { g with watch := 0#32, retries := if g.retries.get 8 == 1#8 then g.copyTries else g.retries }

/-- The group runs on, parked on a marker it issued while a covered write is outstanding (03 R72, 09 R219). -/
def Group.wake (g : Group) : Group :=
  if g.mark && g.covered then { g with sched := .marker } else { g with sched := .ready, mark := false }

/-- The retry counts once an instruction that has waited is done: they clear, but for those of a watchdog and while a replayed
memory instruction has still to perform (09 R232). -/
def Group.doneTries (g : Group) : Regs 8 :=
  if g.retries.get 8 == 1#8 || g.held.any HeldI.again then g.retries else g.copyTries

/-- A blocked group's instruction completes: the group goes on at the next one. -/
def Group.complete (g : Group) : Group :=
  match g.sched with
  | .blocked _ => { g with pc := g.pc + 8#64, retries := g.doneTries }.wake
  | _ => g

/-- The completion of a wait that parked the group (05 R116). -/
def Group.completeWait (g : Group) : Group := g.clearWatch.complete

/-! ### Barrier objects (05 R137, R138; 10 R244) -/

/-- A barrier object (10 R244). -/
structure BarObj where
  expected : Nat
  current : Nat
  phase : Bool
  pending : Word
  reserved : Nat
  deriving DecidableEq, Repr

/-- The object at a place. -/
def State.barObj (s : State) (p : LPlace) : BarObj :=
  let x := leNat (s.locBytes p 8)
  ⟨bitsOf x 11 0, bitsOf x 23 12, bitOf x 24, BitVec.ofNat 32 (bitsOf x 63 32), bitsOf x 31 25⟩

/-- The word of an object. -/
def BarObj.word (o : BarObj) : Nat :=
  o.expected + o.current * 2 ^ 12 + b2n o.phase * 2 ^ 24 + o.reserved * 2 ^ 25 + o.pending.toNat * 2 ^ 32

/-- The object stored. -/
def State.setBar (s : State) (p : LPlace) (o : BarObj) : State := s.locWrite p (leBytes 8 o.word)

/-- The groups that wait on an object: the waiter bitmaps of its slots in both cores (10 R245). -/
def State.waiters (s : State) (p : LPlace) : List Nat :=
  (s.groups.filter (fun e => match e.2.sched with
    | .blocked (.waitb h o _) => h == p.hid && o == p.off
    | .blocked (.tryw h o _ _ _) => h == p.hid && o == p.off
    | _ => false)).map (fun e => e.1)

/-- The predicate result of `tryw` in every lane below W. -/
def Group.setPred (g : Group) (kd : Nat) (b : Bool) : Group :=
  g.wrNow ((List.range g.width).map (fun i => (kk kd i, if b then 1#64 else 0#64)))

/-- A waiter whose awaited parity now differs from the phase wakes (05 R138, 10 R245). -/
def Group.phaseWake (g : Group) (phase : Bool) : Group :=
  match g.sched with
  | .blocked (.waitb _ _ p) => if p != phase then g.completeWait else g
  | .blocked (.tryw _ _ p kd _) => if p != phase then (g.setPred kd true).complete else g
  | _ => g

/-- What a group's wait on an object acquires: the releases of the arrivals, those of the partner core at pair scope, and the
bytes of every copy credited to the object, whichever core of the pair has issued it (05 R138, 11 R272). -/
def State.acquirePhase (s : State) (gid : Nat) : State :=
  match KMap.look s.groups gid with
  | some g => s.acquireAt (s.coreOf g) 4
  | none => s

/-- A phase completes when the arrivals are all there and no byte is pending (05 R137). DESIGN CHOICE (log entry 82): an
object whose EXPECTED is 0, which no `barinit` makes, never completes. -/
def State.checkPhase (s : State) (p : LPlace) : State :=
  let o := s.barObj p
  if o.current == o.expected && o.pending == 0#32 && o.expected != 0 then
    let s1 := s.setBar p { o with current := 0, phase := !o.phase, pending := 0#32 }
    (s.waiters p).foldl (fun s gid => (s.acquirePhase gid).updG gid (fun g => g.phaseWake (!o.phase))) s1
  else s

/-- `n` landed bytes credited to a barrier object (05 R137, 10 R246): a wait on the object acquires them in either core of the
pair, so the copies that they have overtaken there are marked (05 R138). -/
def State.credit (s : State) (bar : Option (Nat × Nat)) (n : Nat) : State :=
  match bar with
  | none => s
  | some (hid, off) =>
    let p : LPlace := ⟨hid, false, off⟩
    match KMap.look s.halves hid with
    | none => s
    | some h =>
      let o := s.barObj p
      (((s.setBar p { o with pending := o.pending - BitVec.ofNat 32 n }).releaseAt h.core 4).releaseAt (h.core ^^^ 1) 4).checkPhase p

/-- An arrival applied to its object (05 R137). -/
def State.applyArrival (s : State) (a : Arrival) : State :=
  let p : LPlace := ⟨a.hid, false, a.off⟩
  let o := s.barObj p
  ({ s with arrivals := s.arrivals.erase a }.setBar p
    { o with current := (o.current + a.count) % 4096, pending := o.pending + a.bytes }).checkPhase p

/-- The arrivals under way to objects that `n` bytes at a place touch, applied in their order: those of `own`, or all. -/
def State.settle (s : State) (p : LPlace) (n : Nat) (own : Option Nat) : State :=
  (s.arrivals.filter (fun a => a.hid == p.hid && !p.tob && a.off < p.off + n && p.off < a.off + 8 &&
    own.all (fun gid => a.gid == gid))).foldl State.applyArrival s

/-- Held entries of a bound Loch queue credited to its object, while the object waits for bytes (25 R434). -/
def lochCredits : Nat → Nat → State → State
  | 0, _, s => s
  | f + 1, n, s =>
    match KMap.look s.loch n with
    | none => s
    | some q =>
      match q.bind with
      | none => s
      | some (hid, off) =>
        let p : LPlace := ⟨hid, false, off⟩
        if q.held == 0 || (KMap.look s.halves hid).isNone || (s.barObj p).pending.toInt ≤ 0 then s
        else
          let s := { s with loch := KMap.put s.loch n { q with held := q.held - 1 } }
          lochCredits f n (s.credit (some (hid, off)) 1)

/-- Every bound Loch queue gives the credits that it can give. -/
def State.lochCredit (s : State) : State :=
  s.loch.foldl (fun s q => lochCredits q.2.held q.1 s) s

/-! ### Team barriers -/

/-- `bar` completes when every group of the half that has not exited has arrived (05 R139). DESIGN CHOICE (log entry 83): the
group that arrives last, which never waits, counts as parked by it too, so that its `watch` goes to zero (05 R116). -/
def State.barCheck (s : State) (hid : Nat) : State :=
  match KMap.look s.halves hid with
  | none => s
  | some h =>
    if !h.bar.isEmpty && (s.liveGids hid).all (fun x => h.bar.contains x) then
      h.bar.foldl (fun s gid => s.updG gid Group.completeWait) (s.updH hid (fun h => { h with bar := [] }))
    else s

/-- The episodes of `barm` that are complete end (05 R140). -/
def State.barmCheck (s : State) (hid : Nat) : State :=
  match KMap.look s.halves hid with
  | none => s
  | some h =>
    h.barm.foldl (fun s e =>
      let live := s.liveGids hid
      let wanted := live.filter (fun x => match KMap.look s.groups x with
        | some g => bitOf e.2.1 g.idx
        | none => false)
      if wanted.all (fun x => e.2.2.contains x) then
        e.2.2.foldl (fun s gid => s.updG gid Group.completeWait)
          (s.updH hid (fun h => { h with barm := KMap.del h.barm e.1 }))
      else s) s

/-! ### Images and the opening of a gate (12 R288 to R290) -/

/-- Word `i` of a loaded image. -/
def Image.word (m : Image) (off : Nat) : DWord := nthD m.words (off / 8) 0#64

/-- The length in words of the bundle whose header is `w`: one and the slots present (06 R161). -/
def bundleLen (w : DWord) : Nat := 1 + ((List.range 5).countP (fun i => w.getLsbD i))

/-- The bundle after the one at `x`, without loops (06 R161); after a position that is no multiple of 8, the next multiple
(09 R231). -/
def Image.seq (m : Image) (x : Nat) : Nat :=
  if x % 8 == 0 then x + 8 * bundleLen (m.word x) else (x / 8 + 1) * 8

/-- Whether a half holds neither tile context nor banks any more. -/
def Half.released (h : Half) : Bool := h.tileFree && h.banksFree

/-- The bundle offset of list index `i`. -/
def Image.bundleOf (m : Image) (i : Nat) : Option Nat := (m.index.find? (fun e => e.2 == i)).map (fun e => e.1)

/-- The portable index of the bundle at `off`. DESIGN CHOICE (log entry 113): 0 where no bundle of the image stands there. -/
def Image.indexOf (m : Image) (off : Nat) : Nat := ((m.index.find? (fun e => e.1 == off)).map (fun e => e.2)).getD 0

/-- A trap to deliver: the group, the fault word, and the register writes of the ignore result (09 R231). -/
structure Todo where
  gid : Nat
  frec : FaultRec
  ign : Writes
  deriving DecidableEq, Repr

/-- The word of a `gate` with immediate `imm` (03 R64). -/
def gateWord (imm : Word) (mark : Bool) : DWord :=
  BitVec.ofNat 64 (0xC8 + 0x7000 + 255 * 2 ^ 16 + imm.toNat * 2 ^ 24 + b2n mark * 2 ^ 63)

/-- The last 256 bytes of a half's scratchpad (12 R290). -/
def Half.frameOff (h : Half) : Nat := 16384 * h.spadBanks - 256

/-- The live frame's fields DONE and BATCH, and FAULT to OPINDEX (12 R290). -/
def Tile.doneBatch (t : Tile) : Word :=
  match t.batches with
  | [] => t.batch
  | (b, _) :: _ => b - 1#32

/-- DONE and BATCH, the fault and its place, written into the frame (12 R290, R291). -/
def State.frameState (s : State) (hid : Nat) : State :=
  match KMap.look s.halves hid with
  | none => s
  | some h => match h.tile, h.gate with
    | some t, some _ =>
      let f : FaultRec := (t.fault.map (fun f => f.frec)).getD ⟨0#64, 0#64, 0#64, 0#64, 0#64, 0#64⟩
      let (k, sl, op) := match t.fault with
        | some f => (f.kind, f.slot, f.opindex)
        | none => (0, 0, 0)
      s.locWrite ⟨hid, false, h.frameOff + 0x10⟩
        (leBytes 4 t.batch.toNat ++ leBytes 4 t.doneBatch.toNat ++ leBytes 8 f.w0.toNat ++ leBytes 8 f.w1.toNat ++
          leBytes 8 f.w2.toNat ++ leBytes 8 f.w3.toNat ++ leBytes 8 (op + sl * 2 ^ 32 + k * 2 ^ 40))
    | _, _ => s

/-- Whether a held instruction only waits for a peer to acknowledge what it stores (11 R286). -/
def HeldI.accepted (h : HeldI) : Bool :=
  h.lanes == 0#64 && h.bad.isNone && (match h.instr with | .st _ | .strel _ => true | _ => false)

/-- Whether a release of a group at team scope has nothing to wait for (05 R131, 11 R272). -/
def Group.released (g : Group) : Bool := g.held.all HeldI.accepted

/-- The map, layouts and registers of a gate checked (05 R148, 01 R34, 12 R289): the ILLEGAL CAUSE, or the map and the
entry's bundle. -/
def State.gateChecks (s : State) (h : Half) (gs : List Group) (imm : Word) : Except Nat (List MapEnt × Nat) :=
  match (KMap.look s.launches h.launch).bind (fun l => KMap.look s.images l.image) with
  | none => .error 7
  | some m =>
    match m.maps[imm.toNat / 2 ^ 20]? with
    | none => .error 7
    | some mp =>
      let entry := imm.toNat % 2 ^ 20
      match (if m.routines.contains entry then m.bundleOf entry else none) with
      | none => .error 7
      | some off =>
        if h.tile.isNone then .error 7
        else if mp.any (fun e => gs.any (fun g => g.n ≤ e.hi)) then .error 2
        else
          let bad (e : MapEnt) : Bool :=
            let sp := gs.length * (e.hi - e.lo + 1) * ((gs.head?.map (fun g => g.width)).getD 0) * 4
            !(LayHandle.fits ⟨e.lay, 0, sp⟩ 0)
          if mp.any bad then .error 6 else .ok (mp, off)

/-- A gate opens once every group of the half that has not exited has arrived and the earlier accesses have completed;
a failing check is ILLEGAL in every group (12 R288). -/
def State.gateCheck (s : State) (hid : Nat) : State × List Todo :=
  match KMap.look s.halves hid with
  | none => (s, [])
  | some h =>
    let live := s.liveGids hid
    match h.gateArr with
    | [] => (s, [])
    | (_, imm, _) :: _ =>
      if h.gate.isSome || !(live.all (fun x => h.gateArr.any (fun a => a.1 == x))) || live.isEmpty then (s, [])
      else
        let gs := live.filterMap (fun x => KMap.look s.groups x)
        match s.gateChecks h gs imm with
        | .error c =>
          (s.updH hid (fun h => { h with gateArr := [] }),
            live.filterMap (fun x => (KMap.look s.groups x).map (fun g =>
              ⟨x, trapRec 1 c (gateWord imm g.mark) g.pc 0#64 g.pc, []⟩)))
        | .ok (mp, off) =>
          if gs.any (fun g => (List.range 4).any (fun c => g.wc.get c != 0#8) || !g.released) ||
              s.arrivals.any (fun a => live.contains a.gid) then (s, [])
          else
            -- step 4: what is outstanding has landed; step 5: the frame; step 6: handles, cfm and the resume record
            -- the accesses before the gate are ordered before those after it (11 R278)
            let s := live.foldl (fun s x => s.updG x (fun g => { g.landAll with recent := [] })) s
            let m := ((KMap.look s.launches h.launch).bind (fun l => KMap.look s.images l.image))
            let npc := (m.map (fun m => m.seq off)).getD off
            let nnpc := (m.map (fun m => m.seq npc)).getD off
            let g0 := gs.head?
            let ti := (h.tile.map (fun t => t.index)).getD 0
            let word8 := (((KMap.look s.launches h.launch).map (fun l => l.lr.groups - 1)).getD 0) * 2 ^ 48 +
              (h.core * 8 + h.quarter * 2 + ti) * 2 ^ 32 + imm.toNat
            let retpc := (g0.map (fun g => g.pc + 8#64)).getD 0#64
            let ems := (List.range 16).map (fun i => ((gs.find? (fun g => g.idx == i)).map (fun g => g.em)).getD 0#64)
            let frame := leBytes 8 retpc.toNat ++ leBytes 8 word8 ++ List.replicate 48 0#8 ++
              ems.flatMap (fun e => leBytes 8 e.toNat) ++ List.replicate 64 0#8
            let s := s.locWrite ⟨hid, false, h.frameOff⟩ frame
            let bindAll (t : Regs 64) : Regs 64 := (List.range mp.length).foldl (fun r i =>
              match mp[i]? with
              | some e => r.set e.handle (BitVec.ofNat 64 (2 ^ 63 + 2 ^ 48 + i))
              | none => r) t
            let s := s.updH hid (fun h => { h with
              gateArr := []
              gate := some ⟨imm, mp, live, gs.map (fun g => (g.idx, g.em))⟩
              tile := h.tile.map (fun t => { t with
                t := bindAll t.t, cfm := (g0.map (fun g => g.fm)).getD 0#32, cfmNext := [], valid := true, pc := off,
                npc := npc, nnpc := nnpc, after := (m.map (fun m => m.seq nnpc)).getD off, queued := 0, rem := [], an0 := false,
                an1 := false, loops := [], lands := [], fault := none, later := [],
                closing := false }) })
            (s.frameState hid, [])

/-! ### Exits -/

/-- The half of a command's issuer. -/
def State.issuerHid (s : State) (e : QEnt) : Option Nat :=
  match e.issuer with
  | .tile h => some h
  | .group x => (KMap.look s.groups x).map (fun g => g.hid)

/-- The sides of a command. -/
def Cmd.places (c : Cmd) : List Side :=
  match c with
  | .copy _ _ src dsts _ => src :: dsts.map (fun d => d.2)
  | .fill src _ => [src]
  | .ast _ dst _ => [dst]
  | .ald _ src => [src]
  | .trn dst src _ => [dst, src]
  | .vgmv dst src x _ => [dst, src, x]
  | _ => []

/-- Whether a command reads or writes the banks of its own half beside its sides: the streams of the matrix unit and of
`sfill`, and the scales of a copy. -/
def Cmd.ownBanks (c : Cmd) : Bool :=
  match c with
  | .copy mode _ _ _ _ => mode == 2
  | .fill _ _ => true
  | .mma _ _ _ _ _ _ => true
  | _ => false

/-- Whether a command reads or writes the banks of a half; an offset in the pair space may lie in either half's (09 R215). -/
def State.touches (s : State) (e : QEnt) (hid : Nat) : Bool :=
  let mates (x : Nat) : Bool := ((KMap.look s.halves hid).map (fun h => (s.teamHids h).contains x)).getD false
  (e.cmd.ownBanks && s.issuerHid e == some hid) || e.cmd.places.any (fun x => match x.space with
    | .loc h => h == hid || (mates h && 0x10000000 ≤ x.base)
    | .regs _ _ _ _ => false
    | .virt _ _ => false)

/-- Whether a group is parked on a fault of its own accesses; the faults of its commands hold none of them. -/
def Group.stuck (g : Group) : Bool := (g.fault.map (fun f => f.code != 0x11 && f.code != 0x0A)).getD false

/-- Whether operation `id` of a group is held behind the fault of an earlier one, or is the faulting one (05 R121). -/
def Group.behindFault (g : Group) (id : Nat) : Bool :=
  g.stuck && (match g.held.find? (fun h => some h.pc == g.fault.map (fun f => f.at_) && h.lanes != 0#64) with
    | some h => h.id ≤ id
    | none => false)

/-- Every entry of every engine queue and time-sorted buffer. -/
def State.entries (s : State) : List QEnt :=
  s.queues.flatMap (fun q => q.2) ++ s.timed.flatMap (fun q => q.2.map (fun e => e.2))

/-- The roles of the banks of a core, from the halves placed there (10 R234). -/
def State.setRole (s : State) (core : Nat) (banks : List Nat) (role : Nat → Nat) : State :=
  { s with roles := s.roles.set core (banks.foldl (fun w b =>
      (w &&& ~~~(3#64 <<< (2 * b))) ||| (BitVec.ofNat 64 (role b) <<< (2 * b))) (s.roles.get core)) }

/-- Whether the team of a half has exited: every group of it, in both halves (09 R218). -/
def State.teamOver (s : State) (h : Half) : Bool := ((s.teamHids h).flatMap s.liveGids).isEmpty

/-- Whether a half's tile context returns: its team has exited, and every command that the context issued has completed
(01 R30, 09 R215). -/
def State.ctxDone (s : State) (hid : Nat) (h : Half) : Bool :=
  s.teamOver h && !s.entries.any (fun e => e.issuer == .tile hid)

/-- Whether a half's banks return: its team has exited, and every command and pair store that reads or writes them has
completed, as has every arrival at an object in them (09 R215). -/
def State.banksDone (s : State) (hid : Nat) (h : Half) : Bool :=
  s.teamOver h && !s.entries.any (fun e => s.touches e hid) && s.arrivals.all (fun a => a.hid != hid) &&
    ((s.teamHids h).filter (fun x => x != hid)).all (fun x => (s.gidsOf x).all (fun gid => match KMap.look s.groups gid with
      | some g => g.wc.get 2 == 0#8
      | none => true))

/-- A half's tile context with its accumulators, and its banks, return each when it may (01 R30, 09 R215, R218). What the half
held stands there until it is placed anew (14 R311). -/
def State.releaseHalf (s : State) (hid : Nat) : State :=
  match KMap.look s.halves hid with
  | none => s
  | some h =>
    let tile := !h.tileFree && s.ctxDone hid h
    let banks := !h.banksFree && s.banksDone hid h
    -- stores of its tile context that are not yet visible are still its launch's (22 R399)
    let gw := (h.tile.map (fun t => t.gw)).getD 0
    let s := if tile && s.chipTime < gw then
        { s with visible := s.visible ++ [⟨0, h.core, 31, h.launch, BitVec.ofNat 64 gw⟩] }
      else s
    let s := if tile then s.updH hid (fun h => { h with tileFree := true, gate := none }) else s
    if banks then
      (s.updH hid (fun h => { h with banksFree := true, banks := [] })).setRole h.core h.banks (fun _ => 0)
    else s

/-- The halves of a team release what they hold, each as it may. -/
def State.tryRelease (s : State) (hid : Nat) : State :=
  match KMap.look s.halves hid with
  | none => s
  | some h => (s.teamHids h).foldl State.releaseHalf s

/-- Whether an entry is a copy command that group `gid`, or a tile context of its team, issued after `since`. -/
def State.copyOf (s : State) (gid since : Nat) (e : QEnt) : Bool :=
  let copy := match e.cmd with
    | .copy _ _ _ _ _ => true
    | _ => false
  let team := ((KMap.look s.groups gid).bind (fun g => KMap.look s.halves g.hid)).map s.teamHids
  copy && since ≤ e.id && (match e.issuer with
    | .group x => x == gid
    | .tile h => (team.map (fun l => l.contains h)).getD false)

/-- The pins of a group are released once the copies issued since are done (18 R353). -/
def State.releasePins (s : State) (cn gid : Nat) : State :=
  let upd (p : Pin) : Pin :=
    if p.gid == gid && !p.released then
      { p with released := true, cmds := (s.entries.filter (s.copyOf gid p.since)).map (fun e => e.id) }
    else p
  s.updC cn (fun c => { c with pins := (c.pins.map upd).filter (fun p => !(p.released && p.cmds.isEmpty)) })

/-- Whether a half's launch counts its trigger: every group that has not exited has triggered (05 R143). -/
def State.trigCheck (s : State) (hid : Nat) : State :=
  match KMap.look s.halves hid with
  | none => s
  | some h =>
    let all := (s.teamHids h).flatMap s.liveGids
    if all.all (fun x => ((KMap.look s.groups x).map (fun g => g.triggered)) == some true) then
      s.updL h.launch (fun l => if l.triggered.contains h.team then l else { l with triggered := l.triggered ++ [h.team] })
    else s

/-- What the exit of groups means to their half: barriers, gate, triggers, Loch bindings and resources (05 R139, R140,
R143; 09 R218, R233; 25 R434). -/
def State.afterExit (s : State) (hid : Nat) : State × List Todo :=
  let s := (((s.barCheck hid).barmCheck hid).trigCheck hid)
  let ended := match KMap.look s.halves hid with
    | some h => if s.teamOver h then s.teamHids h else []
    | none => [hid]
  let unb (q : Loch) : Loch := if q.bind.any (fun b => ended.contains b.1) then { q with bind := none } else q
  let s := { s with loch := KMap.mapv (fun _ q => unb q) s.loch }
  let (s, t) := s.gateCheck hid
  (s.tryRelease hid, t)

/-- A group ends as by `exit` in every lane (05 R114, 01 R18, R20): its covered writes and registers are gone, what it
issued still performs, and the instructions that a fault holds, the faulting one and those behind it, do not (09 R231;
17 R337). -/
def Group.dead (g : Group) : Group :=
  let gone (id : Nat) : Bool := g.behindFault id
  { g with
    live := 0#64, em := 0#64, sched := .exited, watch := 0#32, mark := false, v := [], fault := none
    held := g.held.filter (fun h => !gone h.id)
    fences := g.fences.filter (fun f => match f.act with | .perform id => !gone id | _ => true)
    landings := g.landings.filter (fun l => l.path.isSome && !l.wait.any gone) }

/-- The counters of a group are its outstanding results (01 R23). -/
def Group.fixWc (g : Group) : Group :=
  { g with wc := (List.range 4).foldl (fun m c =>
      m.set c (BitVec.ofNat 8 (g.landings.countP (fun l => l.path == some c)))) g.wc }

/-- The quarter of a group, numbered core × 4 + quarter. -/
def State.quarterOf (s : State) (g : Group) : Nat :=
  ((KMap.look s.halves g.hid).map (fun h => h.core * 4 + h.quarter)).getD 0

/-- A register of a quarter has freed now (09 R227). -/
def State.freed (s : State) (q : Nat) : State := { s with growTime := KMap.put s.growTime q s.chipTime }

/-- Group `gid` exits: its team goes on without it (09 R233). -/
def State.exitGroup (s : State) (gid : Nat) : State × List Todo :=
  match KMap.look s.groups gid with
  | none => (s, [])
  | some g =>
    let s := { s.updG gid (fun g => g.dead.fixWc) with
      waits := s.waits.filter (fun w => !(w.2.1 == gid && g.behindFault w.2.2)) }
    let s := s.updH g.hid (fun h => { h with
      bar := h.bar.filter (fun x => x != gid), gateArr := h.gateArr.filter (fun a => a.1 != gid) })
    let drop (q : List (Nat × Nat × Nat)) : List (Nat × Nat × Nat) := q.filter (fun e => e.1 != gid)
    let s := { s with grow := KMap.mapv (fun _ q => drop q) s.grow }
    ((s.freed (s.quarterOf g)).releasePins (s.ctxOf g) gid).afterExit g.hid

/-- Several groups exit, one after another. -/
def State.exitGroups (s : State) (l : List Nat) : State × List Todo :=
  l.foldl (fun a gid => let r := a.1.exitGroup gid; (r.1, a.2 ++ r.2)) (s, [])

/-- A gate of a half is closed without resuming anyone (09 R231: the team is terminated). -/
def State.dropGate (s : State) (hid : Nat) : State :=
  s.updH hid (fun h => { h with gate := none, gateArr := [], tile := h.tile.map (fun t => { t with valid := false }) })

/-- A queued command of a terminated issuer that has stopped at a fault counts as completed; its barrier is credited in
full later, when its queue goes on (09 R231, 10 R258). -/
def State.unfault (s : State) (dead : QEnt → Bool) : State :=
  let upd (e : QEnt) : QEnt := if dead e && e.fault.isSome then { e with fault := none, skip := 1 } else e
  { s with queues := KMap.mapv (fun _ q => q.map upd) s.queues }

/-- Groups terminated by containment: they exit, and the commands they issued never wait for service (09 R231,
10 R258). -/
def State.killGroups (s : State) (l : List Nat) : State × List Todo :=
  (l.foldl (fun s gid => s.updG gid (fun g => { g with killed := true })) s).exitGroups l

/-- A team is terminated, both halves of it (09 R231). -/
def State.killTeam (s : State) (hid : Nat) : State × List Todo :=
  match KMap.look s.halves hid with
  | none => (s, [])
  | some h =>
    let hids := s.teamHids h
    let s := hids.foldl State.dropGate s
    let s := s.unfault (fun e => hids.any (fun x => match e.issuer with
      | .tile y => y == x
      | .group z => ((KMap.look s.groups z).map (fun g => g.hid)) == some x))
    s.killGroups (hids.flatMap s.liveGids)

/-- A saved half that is terminated: it holds nothing and runs no more, and the commands it issued stand in the queues of the
core it left, to perform and to be credited (09 R231, 10 R258; log entry 97). -/
def State.buryHalf (s : State) (x : Saved) : State :=
  let h := x.half
  let gone (g : Group) : Group := { g.dead.fixWc with killed := true }
  let enter (s : State) (r : Nat × QEnt) : State :=
    let e := if r.2.fault.isSome then { r.2 with fault := none, skip := 1 } else r.2
    match r.2.cmd with
    | .qfence _ _ => s
    | _ =>
      -- a half that has come from elsewhere stands under the core it had there
      let core := h.core % 1024
      if 64 ≤ r.1 then { s with timed := KMap.put s.timed core ((KMap.look s.timed core).getD [] ++ [(r.1 - 64, e)]) }
      else { s with queues := KMap.put s.queues (core * 32 + r.1) ((KMap.look s.queues (core * 32 + r.1)).getD [] ++ [e]) }
  let s := x.residue.foldl enter { s with
    saved := s.saved.filter (fun y => y.hid != x.hid)
    halves := KMap.put s.halves x.hid
      { h with tileFree := true, banksFree := true, gate := none, banks := [], tile := h.tile.map (fun t => { t with valid := false }) }
    groups := x.groups.foldl (fun m e => KMap.put m e.1 (gone e.2)) s.groups }
  x.groups.foldl (fun s e => s.releasePins h.ctx e.1) s

/-- A launch is terminated: every team of it, placed, saved or waiting (09 R231). -/
def State.killGrid (s : State) (lid : Nat) : State × List Todo :=
  let hids := (s.halves.filter (fun e => e.2.launch == lid)).map (fun e => e.1)
  let s := s.updL lid (fun l => { l with killed := true })
  let dropU (q : List PUnit) : List PUnit := q.filter (fun u => u.launch != lid)
  let s := (s.saved.filter (fun x => x.half.launch == lid)).foldl State.buryHalf
    { s with dist := KMap.mapv (fun _ q => dropU q) s.dist }
  hids.foldl (fun a x => let r := a.1.killTeam x; (r.1, a.2 ++ r.2)) (s, [])

/-- The merge agent of a block checked out by a context, where it is another device's: device, context there and address;
window blocks stand under their va + 2^52, and a block that came along with a migration keeps the agent it had (20 R373,
R375). -/
def State.agentOf (s : State) (cn blk : Nat) : Option (Nat × Nat × Nat) :=
  (KMap.look s.ctxs cn).bind (fun c =>
    if 2 ^ 40 ≤ blk then
      let va := blk * 4096 - 2 ^ 52
      match s.walkCtx c va with
      | .ok l => if l.rem then s.windowTo cn l va else none
      | .error _ => none
    else match KMap.look c.agents blk with
    | some x => if x / 4096 == Config.deviceNumber.toNat then none else some (x / 4096, x % 4096, blk * 4096)
    | none =>
    if !isDevice (blk * 4096) && c.mergedev != Config.deviceNumber.toNat then some (c.mergedev, cn, blk * 4096)
    else none)

/-- One check-out of a block counts as checked in with no byte changed: the twin goes with the last (11 R285, 20 R375). -/
def State.lessTwin (s : State) (blk : Nat) : State :=
  match KMap.look s.twins blk with
  | none => s
  | some t =>
    if t.outs ≤ 1 then
      { s with
        twins := KMap.del s.twins blk
        poison := s.poison.filter (fun l => !(twinLine 0 ≤ l && l < 2 ^ 64 && (l - twinLine 0) / 32 == blk)) }
    else { s with twins := KMap.put s.twins blk { t with outs := t.outs - 1 } }

/-- A check-out of a context discarded without merge, at the block's merge agent (20 R373, R375). -/
def State.discard (s : State) (cn blk : Nat) : State :=
  match s.agentOf cn blk with
  | none => if 2 ^ 40 ≤ blk then s else s.lessTwin blk
  | some (peer, pctx, far) =>
    let kind : RemoteKind := if 2 ^ 40 ≤ blk then .discard else .hostDiscard
    ({ s with nextId := s.nextId + 1 }).send s.chipTime (.frame (Config.portOfPeer peer).toNat
      (.request peer s.nextId (s.peerOf peer).gen.toNat pctx (BitVec.ofNat 64 far) kind none))

/-- The working copies of a context, and those on their way to it, discarded without merge; each counts as checked in with no
byte changed (20 R375). -/
def State.dropWorks (s : State) (cn : Nat) : State :=
  let blks := ((KMap.look s.works cn).getD []).map (fun e => e.1) ++
    (s.remote.filter (fun a => a.ctx == cn)).filterMap RemAcc.block
  let s := blks.foldl (fun s b => s.discard cn b) s
  { s with
    works := KMap.del s.works cn, remote := s.remote.filter (fun a => !(a.ctx == cn && a.block.isSome))
    poison := s.poison.filter (fun l => l / 2 ^ 64 != cn + 1) }

/-- A context is terminated by containment: its units end, its working copies are dropped, its streams stop with the code
(09 R231, 20 R375). -/
def State.killCtx (s : State) (cn code : Nat) : State × List Todo :=
  let lids := (s.launches.filter (fun e => e.2.ctx == cn && !e.2.complete)).map (fun e => e.1)
  let s := s.dropWorks cn
  let r := lids.foldl (fun a x => let r := a.1.killGrid x; (r.1, a.2 ++ r.2)) (s, [])
  let stop (x : Stream) : Stream := if x.ctx == cn then { x with state := 3, code := code, field := 0, errpc := 0#64 } else x
  ({ r.1.updC cn (fun c => { c with killed := true }) with streams := KMap.mapv (fun _ x => stop x) r.1.streams }, r.2)

/-- Cached images that no context's handle, no launch and no context on its way here names are freed (23 R411). -/
def State.sweepImages (s : State) : State :=
  let used (k : Nat) : Bool := s.ctxs.any (fun c => c.2.handles.any (fun h => h.2.1 == k)) ||
    s.launches.any (fun l => l.2.image == k) || s.migLoad.any (fun x => x.1 == 8 && x.2.1 == k)
  { s with images := s.images.filter (fun m => used m.1) }

/-- What a context has on the device discarded: units, work in flight, images, working copies, pins, handles and tagged
copies (24 R416, 26 R440). -/
def State.purge (s : State) (cn : Nat) : State :=
  let hids := (s.halves.filter (fun e => e.2.ctx == cn)).map (fun e => e.1)
  let s := hids.foldl (fun s x => match KMap.look s.halves x with
    | some h => (s.setRole h.core h.banks (fun _ => 0)).freed (h.core * 4 + h.quarter)
    | none => s) s
  let s := s.dropWorks cn
  let mine (e : QEnt) : Bool := e.ctx == cn
  let lids := (s.launches.filter (fun e => e.2.ctx == cn)).map (fun e => e.1)
  let gone (gid : Nat) : Bool := match KMap.look s.groups gid with
    | some g => hids.contains g.hid
    | none => false
  let unb (q : Loch) : Loch :=
    let q := if q.ctx == cn then { q with entries := q.entries.filter (fun e => match e.cmd with
      | .loch _ _ _ _ _ _ => false
      | _ => !mine e) } else { q with entries := q.entries.filter (fun e => !mine e) }
    if (q.bind.map (fun b => hids.contains b.1)) == some true then { q with bind := none } else q
  let s := { s with
    groups := s.groups.filter (fun e => !hids.contains e.2.hid)
    halves := s.halves.filter (fun e => e.2.ctx != cn)
    launches := s.launches.filter (fun e => e.2.ctx != cn)
    dist := KMap.mapv (fun _ q => q.filter (fun u => !lids.contains u.launch)) s.dist
    grow := KMap.mapv (fun _ q => q.filter (fun e => !gone e.1)) s.grow
    queues := KMap.mapv (fun _ q => q.filter (fun e => !mine e)) s.queues
    timed := KMap.mapv (fun _ q => q.filter (fun e => !mine e.2)) s.timed
    loch := KMap.mapv (fun _ q => unb q) s.loch
    saved := s.saved.filter (fun x => x.half.ctx != cn)
    arrivals := s.arrivals.filter (fun a => !hids.contains a.hid)
    waits := s.waits.filter (fun w => !gone w.2.1)
    incs := s.incs.filter (fun e => e.1 / 256 != cn)
    bcasts := s.bcasts.filter (fun b => b.ctx != cn)
    pins := s.pins.filter (fun p => p.ctx != cn)
    remote := s.remote.filter (fun a => a.ctx != cn)
    l1 := s.l1.filter (fun c => match c.tag with
      | .round _ x _ => x != cn
      | .lease _ => true) }
  (s.updC cn (fun c => { c with pins := [], kicks := [], requant := [], handles := [], layouts := [], record := none })).sweepImages

/-- A fatal fault: every unit of the context stops at once and its work in flight is discarded (26 R440); the record
names the SOURCE and the place of the unit that met it. -/
def State.fatal (s : State) (cn code : Nat) (r : FaultRec) (src : Nat := 5) (unit : Nat := 0) (place : DWord := 0#64) :
    State :=
  let stop (x : Stream) : Stream :=
    if x.ctx == cn then { x with state := 3, code := code, field := 0, errpc := 0#64, ins := [] } else x
  let s := s.purge cn
  let s := { s with streams := KMap.mapv (fun _ x => stop x) s.streams }
  (s.updC cn (fun c => { c with killed := true })).record cn 2 src unit 0 place r

/-- A fatal fault word (26 R435). -/
def fatalRec (code : Nat) (at_ : DWord) : FaultRec := ⟨BitVec.ofNat 64 code, 0#64, 0#64, 0#64, at_, 0#64⟩

end Sys2Proof.Machine
end

