-- ==== Sys2Proof/Machine/Ops.lean ====
section
/-! DEFINITION. Ops.lean: taking a trap (09 R229 to R233) and a recoverable fault (17 R335, R336), fetching a lane
instruction (03 R61, 17 R335), and the frame of every lane instruction: the ILLEGAL checks, the program counter, `watch`,
and the switch marker (03 R72). -/
namespace Sys2Proof.Machine

/-! ### Containment -/

/-- The policy of a launch record at level 0 group, 1 team, 2 grid, 3 context (09 R229). -/
def LaunchRec.policy (r : LaunchRec) (lvl : Nat) : Nat :=
  match lvl with | 0 => r.polgrp | 1 => r.polteam | 2 => r.polgrid | _ => r.polctx

/-- What containment decides, and at which level (09 R229, R230). -/
inductive Decision where
  | ignore (lvl : Nat)
  | retry (lvl : Nat)
  | kill (lvl : Nat)
  | fatal
  deriving DecidableEq, Repr

/-- The first level that absorbs a fault: retry up to three times, kill parent passes it on, and kill parent at context
level makes it fatal (09 R230, R232). -/
def containment (pol : Nat → Nat) (count : Nat → Nat) : List Nat → Decision
  | [] => .fatal
  | l :: t =>
    match pol l with
    | 0 => .ignore l
    | 1 => if count l < 3 then .retry l else containment pol count t
    | 2 => .kill l
    | _ => containment pol count t

/-- One more trap absorbed by ignore or retry (26 R441). -/
def State.absorb (s : State) (cn : Nat) : State :=
  s.updC cn (fun c => { c with fq := { c.fq with absorbed := c.fq.absorbed + 1#32 } })

/-- What lands before a trap is taken at chip time `now`: covered writes and cross-lane results, not those of a Tarn operation
that are not visible yet (03 R73, 04 R111, 18 R354). -/
def Group.landTrap (g : Group) (now : Nat) : Group :=
  ({ g with landings := landWhere (fun l => l.wait.isNone && l.due ≤ now && (l.path == none || l.path == some 3)) g.landings } :
    Group).fixWc

/-- The group goes on after a trap that was absorbed: at the next instruction under ignore, at the trapped one under
retry or after WATCHDOG (09 R231, R232). -/
def Group.absorbed (g : Group) (watchdog retry : Bool) (lvl : Nat) (ign : Writes) : Group :=
  let g := { g with sched := .ready, mark := false, fault := none }
  let g := if watchdog then { g with watch := 0#32 } else g
  if retry then
    { g with retries := (g.retries.set lvl (g.retries.get lvl + 1#8)).set 8 (if watchdog then 1#8 else g.retries.get 8) }
  else
    let g := g.wrNow ign
    if watchdog then g else { g with pc := g.pc + 8#64, retries := g.doneTries }

/-- Whether the containment of a lane trap of `gid` ends in ignore (09 R229 to R232). -/
def State.ignores (s : State) (gid : Nat) : Bool :=
  match KMap.look s.groups gid with
  | none => false
  | some g =>
    let pol (l : Nat) : Nat := (((KMap.look s.halves g.hid).bind s.lrOf).map (fun r => r.policy l)).getD 3
    match containment pol (fun l => (g.retries.get l).toNat) [0, 1, 2, 3] with
    | .ignore _ => true
    | _ => false

/-- TAKING A TRAP: one trap of a group goes through containment from group level up (09 R230, R231). It answers the
machine after the decision, and the traps that the decision raises in other groups. -/
def State.trapOne (s : State) (t : Todo) : State × List Todo :=
  match KMap.look s.groups t.gid with
  | none => (s, [])
  | some g =>
    if g.sched == .exited then (s, [])
    else
      match KMap.look s.halves g.hid with
      | none => (s, [])
      | some h =>
        let s := s.updG t.gid (fun g => g.landTrap s.chipTime)
        let pol (l : Nat) : Nat := ((s.lrOf h).map (fun r => r.policy l)).getD 3
        let dec := containment pol (fun l => (g.retries.get l).toNat) [0, 1, 2, 3]
        let wd := t.frec.code == 5
        let note := s.record h.ctx 1 0 t.gid 0 (s.groupPlace g) t.frec
        match dec with
        | .ignore l =>
          ((if l == 3 then note else s).absorb h.ctx |>.updG t.gid (fun g => g.absorbed wd false l t.ign), [])
        | .retry l =>
          ((if l == 3 then note else s).absorb h.ctx |>.updG t.gid (fun g => g.absorbed wd true l t.ign), [])
        | .kill 0 =>
          (note.unfault (fun e => e.issuer == .group t.gid)).killGroups [t.gid]
        | .kill 1 => note.killTeam g.hid
        | .kill 2 => note.killGrid h.launch
        | .kill _ => note.killCtx h.ctx t.frec.code
        | .fatal => (note.fatal h.ctx t.frec.code t.frec 0 t.gid (s.groupPlace g), [])

/-- Traps taken one after another, with those that their decisions raise. -/
def State.runTraps : Nat → State → List Todo → State
  | 0, s, _ => s
  | _, s, [] => s
  | n + 1, s, t :: ts =>
    let r := s.trapOne t
    State.runTraps n r.1 (ts ++ r.2)

/-- A step's result with the traps it raised taken. -/
def withTraps (r : State × List Todo) : State := State.runTraps 4096 r.1 r.2

/-- Group `gid` traps with fault word `r`; `ign` is what ignore writes (09 R231). -/
def State.trapNow (s : State) (gid : Nat) (r : FaultRec) (ign : Writes) : State := withTraps (s, [⟨gid, r, ign⟩])

/-- `watch` after one more instruction (01 R28, 09 R224). -/
def Group.tick (g : Group) : Group := if g.watch == 0xFFFFFFFF#32 then g else { g with watch := g.watch + 1#32 }

/-- An instruction that group `gid` issues traps: it has issued, so it counts in `watch` (09 R224, R225). -/
def State.takeTrap (s : State) (gid : Nat) (r : FaultRec) (ign : Writes) : State :=
  (s.updG gid Group.tick).trapNow gid r ign

/-- The fault word of ILLEGAL (26 R436): the instruction word and its address. -/
def illegalRec (cause : Nat) (w pc : DWord) : FaultRec := trapRec 1 cause w pc 0#64 pc

/-- A recoverable fault of a group: it parks, and a record enters the fault queue at once (17 R335, R336). -/
def State.parkFault (s : State) (gid : Nat) (r : FaultRec) : State :=
  match KMap.look s.groups gid with
  | none => s
  | some g =>
    let park (g : Group) : Group :=
      { g with sched := if g.sched == .ready || g.sched == .marker then .parked else g.sched, fault := some r }
    (s.updG gid park).record (s.ctxOf g) 0 0 gid 0 (s.groupPlace g) r

/-- A fatal fault met by a group: its context dies (26 R440). -/
def State.groupFatal (s : State) (gid code : Nat) (at_ : DWord) : State :=
  match KMap.look s.groups gid with
  | none => s
  | some g => s.fatal (s.ctxOf g) code (fatalRec code at_) 0 gid (s.groupPlace g)

/-! ### Fetching -/

/-- A lane instruction word fetched at `pc` (17 R333, R335): the word, a recoverable fault, or poison. -/
def State.fetchLane (s : State) (core cn : Nat) (pc em : DWord) : (Except (Option FaultRec) DWord) × State :=
  let r := s.translate core cn pc.toNat .exec
  match r.1 with
  | .error e => (.error (some (transRec 0x10 e.1 e.2 .exec false pc.toNat pc em)), r.2)
  | .ok l =>
    if l.rem then (.error (some (transRec 0x10 6 l.level .exec true pc.toNat pc em)), r.2)
    else
      let pa := l.pa pc.toNat
      if s.poisoned pa 8 then (.error none, r.2) else (.ok (BitVec.ofNat 64 (s.memNat pa 8)), r.2)

/-! ### What ignore writes -/

/-- The 32-bit words a lane instruction writes: class (0 none, 1 lane registers, 2 group-uniform), how many, the first. -/
def destOf (i : Instr) : Nat × Nat × BitVec 8 :=
  match i with
  | .iadd f | .isub f | .imul f | .imad f | .imulh f | .imin f | .imax f | .iabs f | .shl f | .shr f | .sar f | .and f
  | .or f | .xor f | .andn f | .lop3 f | .popc f | .clz f | .brev f | .bfx f | .bfi f | .prm f | .sel f | .fadd f
  | .fsub f | .fmul f | .fma f | .fmin f | .fmax f | .frnd f | .fclass f | .hadd2 f | .hmul2 f | .hfma2 f | .hmin2 f
  | .hmax2 f | .padd4 f | .pmul4 f | .pmax4 f | .dot4 f | .dot8 f | .dot4s f | .dot8s f | .cvt f | .cvtp f | .pack f
  | .rcp f | .rsq f | .sqrt f | .ex2 f | .lg2 f | .sin f | .cos f | .tanh f | .shfl f => (1, 1, f.d)
  | .imadw f | .lea f | .unpack f => (1, 2, f.d)
  | .mov f => (if f.sub.toNat < 2 then 1 else 2, 1, f.d)
  | .vote f => (if f.sub == 2#4 then 2 else 0, 2, f.d)
  | .matchL f => (if f.sub.toNat < 2 then 1 else 0, if f.sub == 0#4 then 2 else 1, f.d)
  | .redx f => (2, 1, f.d)
  | .p2g f | .msplit f => (2, 2, f.d)
  | .call f => (2, 2, f.x)
  | .iaddImm f | .imulImm f | .iminImm f | .imaxImm f | .shlImm f | .shrImm f | .sarImm f | .andImm f | .orImm f
  | .xorImm f | .andnImm f | .movi f => (1, 1, f.d)
  | .movl f => (if f.sub == 0#4 then 1 else 2, 1, f.d)
  | .xlat f => (2, 1, f.d)
  | .ld f | .ldb f | .ldacq f =>
    (1, (match f.sub.toNat % 8 with | 5 => 2 | 6 => 4 | _ => 1), f.d)
  | .atom f | .ckout f | .ckin f | .tagset f => (match i with | .tagset _ => 0 | _ => 1, 1, f.d)
  | .atomc f => (1, if f.sub == 0#4 then 1 else 2, f.d)
  | .lkup f => (1, 2, f.d)
  | .arrive f => (2, 1, f.b)
  | .mklay f | .reggrow f | .regshr f | .qfeat f | .qphys f | .kvnew f | .kvfork f | .kvret f | .kvcpt f => (2, 1, f.d)
  | .kvapp f => (2, 2, f.d)
  | .kvmap f => (1, if f.sub == 3#4 then 2 else 1, f.d)
  | .gets f => (if srLane f.imm.toNat then 1 else 2, 1, f.d)
  | _ => (0, 0, 255#8)

end Sys2Proof.Machine

namespace Sys2Proof

/-- What the ignore policy writes: 0x7FFF_FFFF in every 32-bit word the instruction would write, in the faulting lanes
`en`; a register that the group does not hold takes nothing (09 R231). -/
def Instr.ignoreWrites (i : Instr) (g : Machine.Group) (en : List Nat) : Machine.Writes :=
  let x : DWord := 0x7FFFFFFF#64
  match Machine.destOf i with
  | (1, k, r) => en.flatMap (fun j => ((List.range k).filter (fun t => r.toNat + t < laneLimit g.n)).map (fun t =>
      (Machine.kv (r.toNat + t) j, x)))
  | (2, k, r) => ((List.range k).filter (fun t => r.toNat + t < 64)).map (fun t => (Machine.kg (r.toNat + t), x))
  | _ => []

end Sys2Proof

namespace Sys2Proof.Machine

/-! ### The frame of a lane instruction -/

/-- What the effect of a lane instruction answers. -/
inductive Ans where
  /-- it completes; its covered writes are outstanding until they land (03 R72) -/
  | ok (s : State) (w : Writes)
  /-- it completes and the group goes on at an address -/
  | jump (s : State) (pc : DWord) (w : Writes)
  /-- a precise trap in every enabled lane -/
  | trap (r : FaultRec)
  /-- the state is the answer: the group waits, has exited or is dead -/
  | gone (s : State)

/-- A group after an instruction that completes (03 R72, 09 R224, R232). -/
def Group.finish (g : Group) (mark : Bool) (pc : DWord) (w : Writes) : Group :=
  let g := (g.issue none w).tick
  let g := { g with pc := pc, retries := if g.retries.get 8 == 1#8 || g.held.any HeldI.again then g.retries else g.copyTries }
  if mark && g.covered then { g with mark := true, sched := .marker } else { g with mark := false, sched := .ready }

/-- A group blocked at its instruction; a wait that has not issued does not count in `watch`. -/
def State.blockG (s : State) (gid : Nat) (h : Head) (b : Blk) : State :=
  s.updG gid (fun g =>
    let g := if b == .issue then g else g.tick
    { g with sched := .blocked b, mark := h.s })

/-- The frame of a lane instruction whose form is checked by `bad`, given the group's registers. -/
def laneIf (bad : Nat → Option Nat) (i : Instr) (h : Head) (s : State) (body : Nat → Group → State → Ans) : Res :=
  match s.cur with
  | .group gid =>
    match KMap.look s.groups gid with
    | none => .fault .noCurrent
    | some g =>
      match bad g.n with
      | some c =>
        .next (s.takeTrap gid (illegalRec c (encode i) g.pc) (i.ignoreWrites g (g.enabled s.stamp h)))
      | none =>
        match body gid g s with
        | .ok s' w => .next (s'.updG gid (fun g' => g'.finish h.s (g.pc + 8#64) w))
        | .jump s' pc w => .next (s'.updG gid (fun g' => g'.finish h.s pc w))
        | .trap r => .next (s.takeTrap gid r (i.ignoreWrites g (g.enabled s.stamp h)))
        | .gone s' => .next s'
  | _ => .fault .noCurrent

/-- The frame of every lane instruction: it acts on the current group; a failing check is ILLEGAL (03 R75). -/
def lane (i : Instr) (h : Head) (s : State) (body : Nat → Group → State → Ans) : Res := laneIf i.check i h s body

/-- A lane instruction that only writes registers: the writes in each enabled lane (04 R82). -/
def laneOp (i : Instr) (h : Head) (s : State) (f : Group → Nat → Nat → Writes) : Res :=
  lane i h s (fun _ g s => .ok s ((g.enabled s.stamp h).flatMap (fun j => f g s.stamp j)))

/-- ILLEGAL found while an instruction executes, nothing done. -/
def illegal (i : Instr) (g : Group) (cause : Nat) : Ans := .trap (illegalRec cause (encode i) g.pc)

end Sys2Proof.Machine
end

