-- ==== Sys2Proof/Machine/Alu.lean ====
section
/-! DEFINITION. Alu.lean: `nop`, integer arithmetic (04 R84, R85), shifts, logic and bit fields (R86, R87), moves and
comparison (R88, R89), and `lea` (R90). -/
namespace Sys2Proof.Machine

/-- An R-format integer form: sources with modifiers, the exact result through the clamp (04 R84). -/
def intR (i : Instr) (f : RFmt) (s : State) (op : Int → Int → Int → Int) : Res :=
  laneOp i f.hd s (fun g st j =>
    let sg := f.sub == 0#4
    wV f.d j (intRes sg f.cl.toNat
      (op (intSrc sg f.ma (g.rv st f.a j)) (intSrc sg f.mb (g.rB st f j)) (intSrc sg f.mc (g.rv st f.c j)))))

/-- An I-format integer form (04 R85). -/
def intI (i : Instr) (f : IFmt) (s : State) (op : Int → Int → Int) : Res :=
  laneOp i f.hd s (fun g st j =>
    let sg := f.sub == 0#4
    wV f.d j (intRes sg f.cl.toNat
      (op (intSrc sg (f.mods.getLsbD 1, f.mods.getLsbD 0) (g.rv st f.a j)) (intVal 32 sg f.simm.toNat))))

/-- An R-format form on bit patterns with B under UB (04 R86). -/
def bitR (i : Instr) (f : RFmt) (s : State) (op : Word → Word → Word → Word) : Res :=
  laneOp i f.hd s (fun g st j => wV f.d j (op (g.rv st f.a j) (g.rB st f j) (g.rv st f.c j)))

/-- An I-format form on bit patterns. -/
def bitI (i : Instr) (f : IFmt) (s : State) (op : Word → Word) : Res :=
  laneOp i f.hd s (fun g st j => wV f.d j (op (g.rv st f.a j)))

/-- NOP: no effect (03 R74). -/
def execNop (f : RFmt) (s : State) : Res := laneOp (.nop f) f.hd s (fun _ _ _ => [])

/-- IADD. -/
def execIadd (f : RFmt) (s : State) : Res := intR (.iadd f) f s (fun a b _ => a + b)
/-- ISUB. -/
def execIsub (f : RFmt) (s : State) : Res := intR (.isub f) f s (fun a b _ => a - b)
/-- IMUL. -/
def execImul (f : RFmt) (s : State) : Res := intR (.imul f) f s (fun a b _ => a * b)
/-- IMAD. -/
def execImad (f : RFmt) (s : State) : Res := intR (.imad f) f s (fun a b c => a * b + c)
/-- IMULH: floor(A × B / 2^32). DESIGN CHOICE (log entry 101): `satf` limits a negative exact result, which a negated n32
source can give, to 0 as 04 R84's table has it, although R85 calls the result always in range. -/
def execImulh (f : RFmt) (s : State) : Res := intR (.imulh f) f s (fun a b _ => a * b / 2 ^ 32)
/-- IMADW: the 64-bit product and addend, in a lane pair (04 R84, R85). -/
def execImadw (f : RFmt) (s : State) : Res :=
  laneOp (.imadw f) f.hd s (fun g st j =>
    let sg := f.sub == 0#4
    let c := intMods 64 sg f.mc.1 f.mc.2 (intVal 64 sg (g.rvPair st f.c j).toNat)
    let x := intSrc sg f.ma (g.rv st f.a j) * intSrc sg f.mb (g.rB st f j) + c
    wVPair f.d j (BitVec.ofNat 64 (deliverInt 64 sg f.cl.toNat x)))
/-- IMIN. -/
def execImin (f : RFmt) (s : State) : Res := intR (.imin f) f s (fun a b _ => if a < b then a else b)
/-- IMAX. -/
def execImax (f : RFmt) (s : State) : Res := intR (.imax f) f s (fun a b _ => if a < b then b else a)
/-- IABS: the exact absolute value of an s32 through the clamp. -/
def execIabs (f : RFmt) (s : State) : Res := intR (.iabs f) f s (fun a _ _ => if a < 0 then -a else a)
/-- IADD with an immediate. -/
def execIaddImm (f : IFmt) (s : State) : Res := intI (.iaddImm f) f s (fun a b => a + b)
/-- IMUL with an immediate. -/
def execImulImm (f : IFmt) (s : State) : Res := intI (.imulImm f) f s (fun a b => a * b)
/-- IMIN with an immediate. -/
def execIminImm (f : IFmt) (s : State) : Res := intI (.iminImm f) f s (fun a b => if a < b then a else b)
/-- IMAX with an immediate. -/
def execImaxImm (f : IFmt) (s : State) : Res := intI (.imaxImm f) f s (fun a b => if a < b then b else a)

/-- A shift left by `n`; zero from 32 on. -/
def shlW (a : Word) (n : Nat) : Word := if n < 32 then a <<< n else 0#32
/-- A logical shift right by `n`; zero from 32 on. -/
def shrW (a : Word) (n : Nat) : Word := if n < 32 then a >>> n else 0#32
/-- An arithmetic shift right by `n`; copies of the sign from 32 on. -/
def sarW (a : Word) (n : Nat) : Word := a.sshiftRight (min n 32)

/-- SHL. -/
def execShl (f : RFmt) (s : State) : Res := bitR (.shl f) f s (fun a b _ => shlW a b.toNat)
/-- SHR. -/
def execShr (f : RFmt) (s : State) : Res := bitR (.shr f) f s (fun a b _ => shrW a b.toNat)
/-- SAR. -/
def execSar (f : RFmt) (s : State) : Res := bitR (.sar f) f s (fun a b _ => sarW a b.toNat)
/-- SHL by an immediate. -/
def execShlImm (f : IFmt) (s : State) : Res := bitI (.shlImm f) f s (fun a => shlW a f.imm.toNat)
/-- SHR by an immediate. -/
def execShrImm (f : IFmt) (s : State) : Res := bitI (.shrImm f) f s (fun a => shrW a f.imm.toNat)
/-- SAR by an immediate. -/
def execSarImm (f : IFmt) (s : State) : Res := bitI (.sarImm f) f s (fun a => sarW a f.imm.toNat)
/-- AND. -/
def execAnd (f : RFmt) (s : State) : Res := bitR (.and f) f s (fun a b _ => a &&& b)
/-- OR. -/
def execOr (f : RFmt) (s : State) : Res := bitR (.or f) f s (fun a b _ => a ||| b)
/-- XOR. -/
def execXor (f : RFmt) (s : State) : Res := bitR (.xor f) f s (fun a b _ => a ^^^ b)
/-- ANDN. -/
def execAndn (f : RFmt) (s : State) : Res := bitR (.andn f) f s (fun a b _ => a &&& ~~~b)
/-- AND with an immediate, zero-extended. -/
def execAndImm (f : IFmt) (s : State) : Res := bitI (.andImm f) f s (fun a => a &&& f.zimm)
/-- OR with an immediate, zero-extended. -/
def execOrImm (f : IFmt) (s : State) : Res := bitI (.orImm f) f s (fun a => a ||| f.zimm)
/-- XOR with an immediate, zero-extended. -/
def execXorImm (f : IFmt) (s : State) : Res := bitI (.xorImm f) f s (fun a => a ^^^ f.zimm)
/-- ANDN with an immediate, zero-extended. -/
def execAndnImm (f : IFmt) (s : State) : Res := bitI (.andnImm f) f s (fun a => a &&& ~~~f.zimm)

/-- The word whose bit `k` is `b k`. -/
def wordOf (b : Nat → Bool) : Word :=
  (List.range 32).foldl (fun a k => if b k then a ||| (1#32 <<< k) else a) 0#32

/-- The truth table of `lop3`, word bits 55:48 (04 R86). -/
def ttOf (f : RFmt) : BitVec 8 := f.cl ++ f.mods

/-- LOP3: bit b is TT[7 - (4A[b] + 2B[b] + C[b])]. -/
def execLop3 (f : RFmt) (s : State) : Res :=
  bitR (.lop3 f) f s (fun a b c =>
    wordOf (fun k => (ttOf f).getLsbD (7 - (4 * b2n (a.getLsbD k) + 2 * b2n (b.getLsbD k) + b2n (c.getLsbD k)))))
/-- POPC. -/
def execPopc (f : RFmt) (s : State) : Res :=
  bitR (.popc f) f s (fun a _ _ => BitVec.ofNat 32 ((List.range 32).countP (fun k => a.getLsbD k)))
/-- CLZ. -/
def execClz (f : RFmt) (s : State) : Res :=
  bitR (.clz f) f s (fun a _ _ => BitVec.ofNat 32 (32 - bitLen a.toNat))
/-- BREV. -/
def execBrev (f : RFmt) (s : State) : Res := bitR (.brev f) f s (fun a _ _ => wordOf (fun k => a.getLsbD (31 - k)))

/-- The field length that `bfx` and `bfi` use, and its position (04 R87). -/
def bfField (b : Word) : Nat × Nat :=
  let pos := (b.extractLsb' 0 8).toNat
  (pos, min (b.extractLsb' 8 8).toNat (32 - pos))

/-- BFX. -/
def execBfx (f : RFmt) (s : State) : Res :=
  bitR (.bfx f) f s (fun a b _ =>
    let (pos, len) := bfField b
    if len == 0 || 31 < pos then 0#32
    else
      let x := a.toNat / 2 ^ pos % 2 ^ len
      BitVec.ofNat 32 (if f.sub == 1#4 && x / 2 ^ (len - 1) == 1 then x + (2 ^ 32 - 2 ^ len) else x))
/-- BFI. -/
def execBfi (f : RFmt) (s : State) : Res :=
  bitR (.bfi f) f s (fun a b c =>
    let (pos, len) := bfField b
    if len == 0 || 31 < pos then c
    else
      let m : Word := BitVec.ofNat 32 ((2 ^ len - 1) * 2 ^ pos)
      (c &&& ~~~m) ||| ((a <<< pos) &&& m))
/-- PRM. -/
def execPrm (f : RFmt) (s : State) : Res :=
  bitR (.prm f) f s (fun a b c =>
    let x : DWord := pairWord c a
    BitVec.ofNat 32 (packElems 8 ((List.range 4).map (fun j =>
      let sel := elem b.toNat 4 j
      let y := elem x.toNat 8 (sel % 8)
      if 8 ≤ sel then (if 128 ≤ y then 255 else 0) else y))))
/-- SEL. -/
def execSel (f : RFmt) (s : State) : Res :=
  laneOp (.sel f) f.hd s (fun g st j =>
    wV f.d j (if g.rk st f.c.toNat j then g.rv st f.a j else g.rB st f j))

/-- MOV (04 R88): to a group-uniform register, whatever lanes are enabled. -/
def execMov (f : RFmt) (s : State) : Res :=
  lane (.mov f) f.hd s (fun _ g s =>
    let st := s.stamp
    let en := g.enabled st f.hd
    .ok s (match f.sub.toNat with
      | 0 => en.flatMap (fun j => wV f.d j (g.rv st f.a j))
      | 1 => en.flatMap (fun j => wV f.d j (g.rg st f.a))
      | 2 => wG f.d (match en with | [] => 0#32 | j :: _ => g.rv st f.a j)
      | _ => wG f.d (g.rg st f.a)))

/-- The relation of `iset` and `ccmp`: bits 2:0, unsigned with bit 3 (04 R89). -/
def isetRel (sub : Nat) (a b : Word) : Bool :=
  let lt := if 8 ≤ sub then a.ult b else a.slt b
  let gt := if 8 ≤ sub then b.ult a else b.slt a
  match sub % 8 with
  | 0 => a == b
  | 1 => a != b
  | 2 => lt
  | 3 => !gt
  | 4 => gt
  | _ => !lt

/-- ISET. -/
def execIset (f : RFmt) (s : State) : Res :=
  laneOp (.iset f) f.hd s (fun g st j => wK f.d j (isetRel f.sub.toNat (g.rv st f.a j) (g.rB st f j)))
/-- ISET with an immediate. -/
def execIsetImm (f : IFmt) (s : State) : Res :=
  laneOp (.isetImm f) f.hd s (fun g st j => wK f.d j (isetRel f.sub.toNat (g.rv st f.a j) f.simm))
/-- MOVI. -/
def execMovi (f : IFmt) (s : State) : Res :=
  laneOp (.movi f) f.hd s (fun _ _ j => wV f.d j (if f.sub == 0#4 then f.simm else f.imm ++ 0#16))
/-- MOVL. -/
def execMovl (f : LFmt) (s : State) : Res :=
  lane (.movl f) f.hd s (fun _ g s =>
    .ok s (if f.sub == 0#4 then (g.enabled s.stamp f.hd).flatMap (fun j => wV f.d j f.imm) else wG f.d f.imm))
/-- LEA. -/
def execLea (f : RFmt) (s : State) : Res :=
  laneOp (.lea f) f.hd s (fun g st j =>
    let a : DWord := if f.sub.getLsbD 2 then (g.rv st f.a j).signExtend 64 else (g.rv st f.a j).setWidth 64
    wVPair f.d j (g.rgPair st f.b + (a <<< (f.sub.toNat % 4))))

end Sys2Proof.Machine
end

