-- ==== Sys2Proof/Machine/Control.lean ====
section
/-! DEFINITION. Control.lean: control flow (05 R112 to R117). -/
namespace Sys2Proof.Machine

/-- The target of a relative branch (03 R66). -/
def BTarget (g : Group) (f : BFmt) : DWord := g.pc + 8#64 * f.off.signExtend 64

/-- A branch taken when the tested predicate and the mask satisfy `p` (05 R112). -/
def branch (i : Instr) (f : BFmt) (s : State) (p : DWord → DWord → Bool) : Res :=
  lane i f.hd s (fun _ g s =>
    if p (g.rkAll s.stamp f.x.toNat) g.em then .jump s (BTarget g f) [] else .ok s [])

/-- BRA. -/
def execBra (f : BFmt) (s : State) : Res :=
  lane (.bra f) f.hd s (fun _ g s => .jump s (BTarget g f) [])
/-- BANY. -/
def execBany (f : BFmt) (s : State) : Res := branch (.bany f) f s (fun k e => k &&& e != 0#64)
/-- BALL. -/
def execBall (f : BFmt) (s : State) : Res := branch (.ball f) f s (fun k e => k &&& e == e)
/-- BNONE. -/
def execBnone (f : BFmt) (s : State) : Res := branch (.bnone f) f s (fun k e => k &&& e == 0#64)
/-- CALL: the return address goes to a group-uniform pair, covered by the marker. -/
def execCall (f : BFmt) (s : State) : Res :=
  lane (.call f) f.hd s (fun _ g s => .jump s (BTarget g f) (wGPair f.x (g.pc + 8#64)))

/-- A jump to the address in a group-uniform pair; a target not aligned to 8 is MISALIGNED at the branch (03 R61,
05 R113). -/
def jumpReg (i : Instr) (f : RFmt) (s : State) : Res :=
  lane i f.hd s (fun _ g s =>
    let t := g.rgPair s.stamp f.a
    if t.extractLsb' 0 3 == 0#3 then .jump s t [] else .trap (trapRec 4 1 t 8#64 0#64 g.pc))

/-- BRX. -/
def execBrx (f : RFmt) (s : State) : Res := jumpReg (.brx f) f s
/-- RET. -/
def execRet (f : RFmt) (s : State) : Res := jumpReg (.ret f) f s

/-- EXIT: the enabled lanes end; with none left the group has exited (05 R114, 01 R18, R20). -/
def execExit (f : RFmt) (s : State) : Res :=
  lane (.exit f) f.hd s (fun gid g s =>
    let m := laneMask (g.enabled s.stamp f.hd)
    let live := g.live &&& ~~~m
    if live == 0#64 then .gone (withTraps (s.exitGroup gid))
    else .ok (s.updG gid (fun g => { g with live := live, em := g.em &&& ~~~m })) [])

/-- The age that stands at the young end of every age order. -/
def State.young (s : State) : Nat := s.nextId

/-- YIELD: to the young end of the age order; `watch` is zero and the streak ends (05 R116, 09 R220). -/
def execYield (f : RFmt) (s : State) : Res :=
  lane (.yield f) f.hd s (fun gid g s =>
    let upd (x : Group) : Group := { (x.finish f.hd.s (g.pc + 8#64) []).clearWatch with age := s.young }
    .gone ({ s with nextId := s.nextId + 1, last := KMap.del s.last (s.quarterOf g) }.updG gid upd))

/-- A new execution mask, ANDed with `live` (01 R18). -/
def Group.setEm (g : Group) (x : DWord) : Group := { g with em := x &&& g.live }

/-- MSPLIT (05 R115). -/
def execMsplit (f : RFmt) (s : State) : Res :=
  lane (.msplit f) f.hd s (fun gid g s =>
    .ok (s.updG gid (fun x => x.setEm (g.em &&& g.rkAll s.stamp f.a.toNat))) (wGPair f.d g.em))
/-- MJOIN (05 R115). -/
def execMjoin (f : RFmt) (s : State) : Res :=
  lane (.mjoin f) f.hd s (fun gid g s => .ok (s.updG gid (fun x => x.setEm (g.rgPair s.stamp f.a))) [])

/-- BKPT: with a debugger attached to the context the group stops at BREAKPOINT; without one it has no effect
(05 R117). -/
def execBkpt (f : IFmt) (s : State) : Res :=
  lane (.bkpt f) f.hd s (fun gid g s =>
    if s.attached.contains (s.ctxOf g) then
      .gone ({ s with last := KMap.del s.last (s.quarterOf g) }.updG gid (fun x =>
        { (x.landTrap s.chipTime).tick with stopped := true, fault := some (trapRec 7 0 (f.imm.setWidth 64) 0#64 0#64 g.pc) }))
    else .ok s [])

end Sys2Proof.Machine
end

