-- ==== Sys2Proof/Machine/RegSpace.lean ====
section
/-! DEFINITION. RegSpace.lean: the register space (25 R426): what a read of a word returns, and the posting of a write by
a group, which is performed as a step of its own before anything else moves. -/
namespace Sys2Proof.Machine

/-- The STATUS word of a stream (22 R381). -/
def Stream.status (x : Stream) : DWord :=
  BitVec.ofNat 64 (x.state % 4 + b2n x.lost * 8 + b2n x.killed * 16 + x.code % 256 * 2 ^ 8 + x.field % 65536 * 2 ^ 16)

/-- Word `i` of a port register (25 R427). -/
def Port.word (p : Port) (i : Nat) : DWord :=
  match i with
  | 0 => BitVec.ofNat 64 (p.mode + b2n p.pfc * 4 + p.off * 2 ^ 8 + p.etype * 2 ^ 16 + p.shift * 2 ^ 32)
  | 1 => p.mask.setWidth 64
  | 2 => pairWord p.badfcs p.unmatched
  | _ => 0#64

/-- Word `i` of a Loch queue block (25 R432). -/
def Loch.word (q : Loch) (i : Nat) : DWord :=
  match i with
  | 0 => q.base
  | 1 => BitVec.ofNat 64 (q.nslot % 2 ^ 24 + q.slotlog % 16 * 2 ^ 48 + q.ctx % 4096 * 2 ^ 52)
  | 2 => q.head
  | 3 => q.tail
  | 4 => q.bindWord
  | 5 => pairWord q.overflow 0#32
  | 6 => pairWord q.faults q.trunc
  | _ => 0#64

/-- Word `i` of a fault-queue block (26 R441). -/
def FaultQ.word (f : FaultQ) (i : Nat) : DWord :=
  match i with
  | 0 => f.base
  | 1 => BitVec.ofNat 64 (f.logn % 32 + f.vector % 65536 * 2 ^ 16)
  | 2 => f.head
  | 3 => f.tail
  | 5 => f.fill.setWidth 64
  | 6 => pairWord f.absorbed f.badresp
  | _ => 0#64

/-- The stream table entries `e` and `e + 1` of a port as a word (25 R430). -/
def Port.tableWord (p : Port) (e : Nat) : DWord := pairWord (p.table.get (e + 1)) (p.table.get e)

/-- The 64-bit word at register-space offset `off`, a multiple of 8; an offset without a field reads zero (25 R426). -/
def State.regRead (s : State) (off : Nat) : DWord :=
  if off < 0x1000 then
    match KMap.look s.streams (off / 0x20) with
    | some x => (match off % 0x20 with | 0x08 => x.status | 0x10 => x.errpc | _ => 0#64)
    | none => 0#64
  else if 0x10000 ≤ off && off < 0x10100 then s.regs.get (off / 8)
  else if 0x10100 ≤ off && off < 0x10180 then (KMap.look s.shootDone ((off - 0x10100) / 8)).getD 0#64
  else if 0x20000 ≤ off && off < 0x20010 then s.regs.get (off / 8)
  else if 0x30000 ≤ off && off < 0x30200 then
    -- word 0 reads as the completion word once no command of the block runs (24 R415, log entry 55); word 7 is reserved
    let p := (off - 0x30000) / 0x40
    match off % 0x40 with
    | 0 => if s.cmdHeld.any (fun e => e.2.part == p) then s.regs.get (off / 8)
      else (KMap.look s.cmdDone p).getD (s.regs.get (off / 8))
    | 0x38 => 0#64
    | _ => s.regs.get (off / 8)
  else if 0x40000 ≤ off && off < 0x50000 then
    if off % 16 == 8 then (KMap.look s.requantStatus ((off - 0x40000) / 16)).getD 0#64 else 0#64
  else if 0x60000 ≤ off && off < 0x60100 then
    ((KMap.look s.ports ((off - 0x60000) / 0x20)).getD Port.reset).word (off % 0x20 / 8)
  else if 0x70000 ≤ off && off < 0x72000 then
    ((KMap.look s.loch ((off - 0x70000) / 0x40)).getD Loch.reset).word (off % 0x40 / 8)
  else if 0x80000 ≤ off && off < 0xA0000 then
    ((KMap.look s.ports ((off - 0x80000) / 0x4000)).getD Port.reset).tableWord (off % 0x4000 / 4)
  else if 0x100000 ≤ off && off < 0x140000 then
    match KMap.look s.ctxs ((off - 0x100000) / 0x40) with
    | some c => c.fq.word (off % 0x40 / 8)
    | none => 0#64
  else if 0x200000 ≤ off && off < 0x201000 then s.regs.get (off / 8)
  else if off == 0x201000 then s.ibmir.mbox
  else if 0x300000 ≤ off && off < 0x300080 then BitVec.ofNat 64 (nthD s.ibmir.telemetry ((off - 0x300000) / 8) 0)
  else 0#64

/-- `n` bytes of the register space from `off`, inside one aligned word or a pair of them. -/
def State.regBytes (s : State) (off n : Nat) : List Byte :=
  let w (k : Nat) := leBytes 8 (s.regRead (off / 8 * 8 + 8 * k)).toNat
  ((w 0 ++ w 1).drop (off % 8)).take n

/-- The word at register-space offset `off`, a multiple of 8, once the posted writes have been made. -/
def State.regNext (s : State) (off : Nat) : DWord :=
  ((s.posted.reverse.find? (fun p => p.2.1 == off)).map (fun p => p.2.2)).getD (s.regRead off)

/-- A write of `bytes` at register-space offset `off` by group `gid`: it is posted, one step for each aligned word it
touches, its other bytes as the writes posted before it leave them (25 R426). An engine, which writes byte after byte, joins
the bytes of one word (`join`). -/
def State.regPost (s : State) (gid : Nat) (off : Nat) (bytes : List Byte) (join : Bool := false) : State :=
  let word (k : Nat) : DWord :=
    let base := off / 8 * 8 + 8 * k
    let old := leBytes 8 (s.regNext base).toNat
    BitVec.ofNat 64 (leNat ((List.range 8).map (fun j =>
      if off ≤ base + j && base + j < off + bytes.length then nthD bytes (base + j - off) 0#8 else nthD old j 0#8)))
  let n := (off % 8 + bytes.length + 7) / 8
  let same := join && s.posted.getLast?.any (fun p => p.1 == gid && p.2.1 == off / 8 * 8)
  { s with posted := (if same then s.posted.dropLast else s.posted) ++
      (List.range n).map (fun k => (gid, off / 8 * 8 + 8 * k, word k)) }

end Sys2Proof.Machine
end

