-- ==== Sys2Proof/Machine/Mem.lean ====
section
/-! DEFINITION. Mem.lean: the shared operations of lane memory instructions: addresses (05 R118, R119), the lanes that
perform one after another (R121 to R123, 17 R335), local and global accesses, remote accesses (17 R344, R345), races of
alias classes (11 R274), fences (05 R131), and instructions that are held (05 R121, R125, R127). -/
namespace Sys2Proof.Machine

/-- What a lane memory instruction does in a lane. -/
inductive MemKind where
  /-- a load: whether it reads the home only (05 R126) -/
  | load (home : Bool)
  /-- `ldb` with bound k, and whether it is `.st` (05 R125) -/
  | bounded (k : Nat) (st : Bool)
  | store
  /-- a read-modify-write; whether it returns the old value (05 R128) -/
  | atomic (ret : Bool)
  | cas
  | ckout
  | ckin
  deriving DecidableEq, Repr

/-- A memory instruction taken apart: its fields, kind, access size and the registers of its data. -/
structure MemOp where
  f : MFmt
  kind : MemKind
  size : Nat
  regs : Nat
  deriving DecidableEq, Repr

/-- The bytes of a load or store width (05 R124). -/
def widthBytes (sub : Nat) : Nat :=
  match sub % 8 with | 0 => 1 | 1 => 1 | 2 => 2 | 3 => 2 | 4 => 4 | 5 => 8 | _ => 16
/-- The registers of a load or store width. -/
def widthRegs (sub : Nat) : Nat := match sub % 8 with | 5 => 2 | 6 => 4 | _ => 1

/-- The parts of a memory instruction. -/
def memOp (i : Instr) : Option MemOp :=
  match i with
  | .ld f => some ⟨f, .load false, widthBytes f.sub.toNat, widthRegs f.sub.toNat⟩
  | .ldacq f => some ⟨f, .load true, widthBytes f.sub.toNat, widthRegs f.sub.toNat⟩
  | .ldb f => some ⟨f, .bounded f.hint.toNat (f.sub.getLsbD 3), widthBytes f.sub.toNat, widthRegs f.sub.toNat⟩
  | .st f | .strel f => some ⟨f, .store, widthBytes f.sub.toNat, widthRegs f.sub.toNat⟩
  | .atom f => some ⟨f, .atomic true, 4, 1⟩
  | .red f => some ⟨f, .atomic false, 4, 1⟩
  | .atomc f => some ⟨f, .cas, if f.sub == 0#4 then 4 else 8, if f.sub == 0#4 then 2 else 4⟩
  | .ckout f => some ⟨f, .ckout, 4096, 1⟩
  | .ckin f => some ⟨f, .ckin, 4096, 1⟩
  | _ => none

/-- The access kind of 17 R336. -/
def MemKind.acc : MemKind → Acc
  | .load _ => .read
  | .bounded _ _ => .read
  | .store => .write
  | .atomic _ => .atomic
  | .cas => .atomic
  | .ckout => .block
  | .ckin => .block

/-- Whether the bytes reach a register. -/
def MemKind.reads : MemKind → Bool
  | .load _ => true
  | .bounded _ _ => true
  | .atomic _ => true
  | .cas => true
  | _ => false

/-- Whether an instruction brings a data operand to memory: a store, an atomic, a
compare-and-swap (05 R126 to R129, 12 R296). -/
def MemKind.operands : MemKind → Bool
  | .store => true
  | .atomic _ => true
  | .cas => true
  | _ => false

/-- Whether an access may be left to perform after stores of other alias classes that follow it: a load or a bounded load
(11 R274). -/
def MemKind.mayWait : MemKind → Bool
  | .load home => !home
  | .bounded _ _ => true
  | _ => false

/-- The address of lane `j` (05 R118). -/
def Group.laneVa (g : Group) (st : Nat) (f : MFmt) (j : Nat) : DWord :=
  g.read st (kb f.bx.toNat) + (g.rv st f.a j).signExtend 64 + f.off.signExtend 64

/-- The data registers of lane `j`, the first one lowest. -/
def Group.laneData (g : Group) (st : Nat) (op : MemOp) (j : Nat) : BitVec 128 :=
  BitVec.ofNat 128 (packElems 32 ((List.range op.regs).map (fun k =>
    (g.rv st (if op.f.d == 255#8 then op.f.d else op.f.d + BitVec.ofNat 8 k) j).toNat)))

/-- What a load of width `sub` writes for the bytes `x` (05 R124). -/
def loadWrites (sub : Nat) (d : BitVec 8) (j : Nat) (x : Nat) : Writes :=
  match sub % 8 with
  | 1 => wV d j ((BitVec.ofNat 8 x).signExtend 32)
  | 3 => wV d j ((BitVec.ofNat 16 x).signExtend 32)
  | 5 => wVPair d j (BitVec.ofNat 64 x)
  | 6 => (List.range 4).flatMap (fun k => wV (d + BitVec.ofNat 8 k) j (BitVec.ofNat 32 (x / 2 ^ (32 * k))))
  | _ => wV d j (BitVec.ofNat 32 x)

/-- The new value of a read-modify-write (05 R128); `.add.f32` rounds to nearest-even without `fm`. -/
def atomNew (sub : Nat) (old d : Word) : Word :=
  match sub with
  | 0 => old + d
  | 1 => if d.slt old then d else old
  | 2 => if d.ult old then d else old
  | 3 => if old.slt d then d else old
  | 4 => if old.ult d then d else old
  | 5 => old &&& d
  | 6 => old ||| d
  | 7 => old ^^^ d
  | 10 =>
    BitVec.ofNat 32 (fAdd (envOf 0#32) fp32 (decodeF fp32 false old.toNat) (decodeF fp32 false d.toNat)).1
  | _ => d

/-! ### Alias classes (11 R274) -/

/-- A note of a group's racing accesses: class, byte key, the byte a store left, or 256 where a load has stopped, and the byte
before it. -/
abbrev RaceNote := Nat × Nat × Nat × Byte

/-- The byte before the stores of other classes that a load of class `ac` races, newest first, as far back as it is free to
go: not past a store of its own class, nor past a byte that another agent has written since, nor past where an earlier load of
its class has stopped; with the notes after it, which say where it stopped itself (11 R265, R274). -/
def raceBack (st ac key : Nat) : List RaceNote → Byte → Byte × List RaceNote
  | [], b => (b, [])
  | e :: t, b =>
    if e.2.1 != key || (e.2.2.1 == 256 && e.1 != ac) then
      let r := raceBack st ac key t b
      (r.1, e :: r.2)
    else if e.1 != ac && b.toNat == e.2.2.1 && Config.raceOld st (key + 2 ^ 64 * t.length) then
      let r := raceBack st ac key t e.2.2.2
      (r.1, e :: r.2)
    else (b, (ac, key, 256, b) :: e :: t)

/-- The bytes from `key` on that a load of class `ac` returns where it races earlier stores of other classes, and the notes
after it. -/
def Group.raceLoad (g : Group) (st ac key : Nat) (raw : List Byte) : List Byte × List RaceNote :=
  if ac == 0 then (raw, g.recent)
  else (List.range raw.length).foldl (fun a k =>
    let r := raceBack st ac (key + k) a.2 (nthD raw k 0#8)
    (a.1 ++ [r.1], r.2)) ([], g.recent)

/-- The byte that a store of class `ac` leaves where it races an earlier store of another class: `old` or `b`. -/
def Group.raceStore (g : Group) (st ac key : Nat) (old b : Byte) : Byte :=
  if ac != 0 && g.recent.any (fun e => e.1 != ac && e.2.1 == key && e.2.2.1 == old.toNat) && Config.raceOld st key then old
  else b

/-- A store of class `ac` noted for later races, with the bytes it leaves and those before it; an access of class 0 is
ordered against every other one. -/
def Group.noteStore (g : Group) (ac key : Nat) (news olds : List Byte) : Group :=
  if ac == 0 then g
  else { g with recent :=
    (List.range olds.length).map (fun k => (ac, key + k, (nthD news k 0#8).toNat, nthD olds k 0#8)) ++ g.recent }


/-- The key of a local byte in `recent`. -/
def localKey (p : LPlace) : Nat := 2 ^ 60 * (p.hid + 1) + 2 ^ 40 * b2n p.tob + p.off

/-! ### One lane -/

/-- What one lane's access comes to. -/
inductive LaneOut where
  | done (w : Writes)
  /-- the lane stays unfinished: fault code, CAUSE, LEVEL, REMOTE, word 2 -/
  | fail (code cause level : Nat) (remote : Bool) (w2 : DWord)
  /-- a strongly ordered lane above a failing one (17 R335) -/
  | skip
  /-- a remote access is under way -/
  | sent
  /-- the lane waits for the answer to an earlier lane's access, which tells whether the peer's page is strongly ordered
  (17 R335, R344) -/
  | behind
  /-- the lane waits at a place where accesses perform in the order of their arrival (11 R260): a line that waits for the
  host's answer to a back-invalidation (25 R425), a counter with an increment in progress (20 R369), and, from 2^70 on, the
  send queues of a core with a fence in them (11 R276) -/
  | stall (place : Nat)
  /-- a `.st` load waits for a copy, after it has looked its line up at known round `kr` (05 R125) -/
  | late (kr : Word)
  | poison
  deriving DecidableEq, Repr

/-- The status writes of `ckout` and `ckin`. -/
def wStatus (f : MFmt) (j x : Nat) : LaneOut := .done (wV f.d j (BitVec.ofNat 32 x))

/-- A local access of one lane of held instruction `hold` (05 R119, 10 R237). -/
def State.laneLocal (s : State) (gid : Nat) (g : Group) (op : MemOp) (hold j x : Nat) (data : BitVec 128) :
    LaneOut × State :=
  let f := op.f
  let ac := f.ac.toNat
  let s := match s.localPlace g.hid x op.size with
    | some p => s.settle p op.size (some gid)
    | none => s
  match op.kind with
  | .ckout => (wStatus f j 2, s)
  | .ckin => (wStatus f j 2, s)
  | k =>
    match s.localPlace g.hid x op.size with
    | none => (.fail 0x10 causeLocal 7 false 0#64, s)
    | some p =>
      let raw := s.locBytes p op.size
      if k.reads && s.locPoisoned p op.size then (.poison, s)
      else
        let key := localKey p
        match k with
        | .store =>
          let new := leBytes op.size data.toNat
          let b := (List.range op.size).map (fun t => g.raceStore s.stamp ac (key + t) (nthD raw t 0#8) (nthD new t 0#8))
          (.done [], (s.locWrite p b hold).updG gid (fun g => g.noteStore ac key b raw))
        | .atomic ret =>
          let old : Word := BitVec.ofNat 32 (leNat raw)
          (.done (if ret then wV f.d j old else []),
            s.locWrite p (leBytes 4 (atomNew f.sub.toNat old (data.setWidth 32)).toNat))
        | .cas =>
          let old := leNat raw
          let bits := 8 * op.size
          let cmp := data.toNat % 2 ^ bits
          let new := data.toNat / 2 ^ bits % 2 ^ bits
          (.done (if op.size == 4 then wV f.d j (BitVec.ofNat 32 old) else wVPair f.d j (BitVec.ofNat 64 old)),
            if old == cmp then s.locWrite p (leBytes op.size new) else s)
        | _ =>
          let b := g.raceLoad s.stamp ac key raw
          (.done (loadWrites f.sub.toNat f.d j (leNat b.1)), s.updG gid (fun x => { x with recent := b.2 }))


/-- The page of a peer that the remote translation cache holds for an access through window `window` (17 R345). -/
def State.remPage (s : State) (cn window peer far : Nat) : Option PageInfo :=
  (s.remTlb.find? (fun t => t.ctx == cn && t.window == window && t.peer == peer && t.info.page == far / 65536 &&
    t.gen == (s.peerOf peer).gen.toNat)).map (fun t => t.info)

/-- Whether the peer's leaf grants an access. -/
def remGrants (i : PageInfo) (k : RemoteKind) : Bool :=
  match k with
  | .read _ => i.r
  | .write _ => i.w
  | .checkout => i.r && i.w
  | .checkin _ _ => i.r && i.w
  | .atomic _ _ => i.a
  | .cas _ _ _ => i.a
  | _ => true

/-- A remote access sent through window `l.frame` (17 R343 to R345): the failure, or the machine with the access under way. It
waits where too many are unacknowledged (R346), and a page that the remote translation cache holds grants or refuses it here. -/
def State.remoteSend (s : State) (cn : Nat) (gid : Option Nat) (hold lane : Nat) (l : Leaf) (va : Nat)
    (kind : RemoteKind) : Except LaneOut State :=
  match s.windowTo cn l va with
  | none => .error (.fail 0x10 6 l.level true 0#64)
  | some (peer, pctx, far) =>
    let pr := s.peerOf peer
    if !pr.up then
      .error (.fail 0x13 pr.cause 7 true (BitVec.ofNat 64 (peer + (pr.gen - 1#32).toNat * 2 ^ 32)))
    else
      let via := s.remPage cn l.frame peer far
      match via.filter (fun i => !remGrants i kind) with
      | some i => .error (.fail 0x10 1 i.level true 0#64)
      | none =>
        if remoteWrites kind && s.linkFull peer then .error (.stall (linkPlace peer))
        else .ok (s.access peer cn pctx (BitVec.ofNat 64 far) va kind gid hold lane via)

/-- The poisoned lines of a context's working copy of a block, counted from its first (26 R438). -/
def State.workMarks (s : State) (cn blk : Nat) : List Nat :=
  (List.range 32).filter (fun k => s.poison.contains (workLine cn (blk * 32 + k)))

/-- A context's working copy of a block dropped. -/
def State.dropWork (s : State) (cn blk : Nat) : State :=
  { s.updC cn (fun c => { c with agents := KMap.del c.agents blk }) with
    works := KMap.put s.works cn (KMap.del ((KMap.look s.works cn).getD []) blk) }


/-- Whether a check-out of a block is on its way (20 R374). -/
def State.goingOut (s : State) (cn blk : Nat) : Bool := s.remote.any (fun a => a.ctx == cn && a.block == some blk)

/-- Whether this device holds as many working copies as it can, with those that are asked for (20 R374). -/
def State.worksFull (s : State) : Bool :=
  8192 ≤ (s.works.map (fun e => e.2.length)).foldl (· + ·) 0 + s.remote.countP (fun a => a.block.isSome)

/-- A remote access of one lane; a block checked out through a window has its working copy under va + 2^52
(11 R284). -/
def State.laneRemote (s : State) (gid cn : Nat) (op : MemOp) (hold j : Nat) (l : Leaf) (va : Nat)
    (data : BitVec 128) : LaneOut × State :=
  let n := op.size
  let kind : RemoteKind :=
    match op.kind with
    | .store => .write (leBytes n data.toNat)
    | .atomic _ => .atomic op.f.sub.toNat (data.setWidth 32)
    | .cas => .cas n (BitVec.ofNat 64 (data.toNat % 2 ^ (8 * n))) (BitVec.ofNat 64 (data.toNat / 2 ^ (8 * n)))
    | .ckout => .checkout
    | .ckin => .checkin (((s.workOf cn (2 ^ 52 + va)).getD []).slice 0 4096) (s.workMarks cn ((2 ^ 52 + va) / 4096))
    | _ => .read n
  match op.kind, s.workOf cn (2 ^ 52 + va) with
  | .ckin, none => (wStatus op.f j 2, s)
  | .ckout, some _ => (wStatus op.f j 8, s)
  | _, _ =>
    if op.kind == .ckout && s.goingOut cn ((2 ^ 52 + va) / 4096) then (wStatus op.f j 8, s)
    else if op.kind == .ckout && s.worksFull then (wStatus op.f j 4, s)
    else
    -- a fence in the core's fabric send queues is passed by no later remote access (11 R276)
    let core := ((KMap.look s.groups gid).map s.coreOf).getD 0
    if !((KMap.look s.queues (core * 32 + 10)).getD []).isEmpty then (.stall (2 ^ 70 + core), s)
    else
    match s.remoteSend cn (some gid) hold j l va kind with
    | .error e => (e, s)
    | .ok s' =>
      (.sent,
        match op.kind with | .ckin => s'.dropWork cn ((2 ^ 52 + va) / 4096) | _ => s')

/-- A check-out or check-in of host memory at `pa` sent to the context's merge agent on another device (20 R373). -/
def State.mergeSend (s : State) (cn gid hold lane pa va : Nat) (kind : RemoteKind) : Except LaneOut State :=
  let ag := (s.agentOf cn (pa / 4096)).map (fun x => (x.1, x.2.1))
  let peer := (ag.map (fun x => x.1)).getD (((KMap.look s.ctxs cn).map (fun c => c.mergedev)).getD 0)
  let pr := s.peerOf peer
  if !pr.up then .error (.fail 0x13 pr.cause 7 true (BitVec.ofNat 64 (peer + (pr.gen - 1#32).toNat * 2 ^ 32)))
  else if remoteWrites kind && s.linkFull peer then .error (.stall (linkPlace peer))
  else .ok (s.access peer cn (ag.map (fun x => x.2) |>.getD cn) (BitVec.ofNat 64 pa) va kind (some gid) hold lane none)

/-- Whether another device is the merge agent of the block of `pa`: that of host memory under the context's MERGEDEV, and of a
block that came along with a migration (20 R373, R375). -/
def State.mergesAway (s : State) (cn pa : Nat) : Bool :=
  (s.agentOf cn (pa / 4096)).isSome

/-- A block checked out: it loses its leased copies here, since leases apply to no line that is checked out (11 R261,
20 R376). -/
def State.unlease (s : State) (blk : Nat) : State :=
  { s with l1 := s.l1.filter (fun c => !(c.line / 32 == blk && (match c.tag with | .lease _ => true | .round _ _ _ => false))) }

/-- The poison marks of the 32 lines numbered from `src` on, copied to those from `dst` on (26 R438). -/
def State.copyMarks (s : State) (src dst : Nat) : State :=
  let bad := (List.range 32).filter (fun k => s.poison.contains (src + k))
  let clean := { s with poison := s.poison.filter (fun l => l < dst || dst + 32 ≤ l) }
  clean.mark (bad.map (fun k => dst + k))

/-- The block has a twin: the home's bytes and marks, where it had none (11 R284, 26 R438). -/
def State.twinOf (s : State) (blk : Nat) : State :=
  if (KMap.look s.twins blk).isSome then s
  else ({ s with twins := KMap.put s.twins blk ⟨Regs.setSlice [] 0 (s.memBytes (blk * 4096) 4096), 0⟩ }).copyMarks
    (blk * 32) (twinLine (blk * 32))

/-- `ckout` of the block of `pa` (11 R284, 20 R374, R376): the status. -/
def State.ckout (s : State) (cn pa : Nat) : Nat × State :=
  let blk := pa / 4096
  if (s.workOf cn pa).isSome then (8, s)
  else if s.worksFull || ((KMap.look s.twins blk).isNone && 8192 ≤ s.twins.length) then (4, s)
  else
    let s := s.twinOf blk
    let t := (KMap.look s.twins blk).getD ⟨[], 0⟩
    let mine := KMap.put ((KMap.look s.works cn).getD []) blk t.bytes
    let s := { s with
      twins := KMap.put s.twins blk { t with outs := t.outs + 1 }
      works := KMap.put s.works cn mine
      l1 := s.l1.filter (fun c => c.line / 32 != blk) }
    (0, s.copyMarks (twinLine (blk * 32)) (workLine cn (blk * 32)))

/-- The bytes of a block that a check-in stores: those of the working copy that differ from the twin's; a poisoned line of the
twin has no value that equals any (11 R285, 26 R438). -/
def State.changed (s : State) (blk : Nat) (copy twin : Regs 8) : List Nat :=
  (List.range 4096).filter (fun k => copy.get k != twin.get k || s.poison.contains (twinLine (blk * 32 + k / 128)))

/-- Bytes of a working copy merged at the home, `bad` its poisoned lines (11 R285, 26 R437, R438): the status, and the
machine. -/
def State.merge (s : State) (blk : Nat) (copy : Regs 8) (bad : List Nat) : Nat × State :=
  match KMap.look s.twins blk with
  | none => (0, s)
  | some t =>
    let ch := (s.changed blk copy t.bytes).filter (fun k => !bad.contains (k / 128))
    let late := ch.any (fun k => s.mem.get (blk * 4096 + k) != t.bytes.get k)
    let mem := ch.foldl (fun m k => m.set (blk * 4096 + k) (copy.get k)) s.mem
    let lines := (ch.map (fun k => blk * 32 + k / 128)).eraseDups
    let whole := lines.filter (fun l => ch.countP (fun k => blk * 32 + k / 128 == l) == 128)
    let last := t.outs ≤ 1
    let tw := if last then KMap.del s.twins blk else KMap.put s.twins blk { t with outs := t.outs - 1 }
    let gone (l : Nat) : Bool := whole.contains l || (last && twinLine 0 ≤ l && (l - twinLine 0) / 32 == blk)
    let s := { s with
      mem := mem, twins := tw, hostLines := s.hostLines.filter (fun l => !lines.contains l)
      poison := s.poison.filter (fun l => !gone l) }
    (b2n late, s.mark (bad.map (fun k => blk * 32 + k)))

/-- Whether the bytes that a check-in stores wait at their homes (11 R260; 20 R369; 25 R425). -/
def State.mergeWaits (s : State) (blk : Nat) (copy : Regs 8) : Bool :=
  match KMap.look s.twins blk with
  | none => false
  | some t => (s.changed blk copy t.bytes).any (fun k =>
      let pa := blk * 4096 + k
      s.hostHas pa 1 || s.homeBusy pa || s.incAt pa 1)

/-- The global write completion time of the block's lines, which a check-in returns (11 R263, R272). -/
def State.gwctBlock (s : State) (blk : Nat) : Nat :=
  (List.range 32).foldl (fun t k => max t (s.gwct (blk * 4096 + k * 128))) s.chipTime

/-- A completion time on its way back to a group (11 R263). -/
def State.returning (s : State) (gid t : Nat) : State :=
  s.updG gid (fun g => { g with gwPend := g.gwPend ++ [BitVec.ofNat 64 t] })

/-- `ckin` of the block of `pa` (11 R285): the status; `none` where its writes wait for the host (25 R425). -/
def State.ckin (s : State) (gid cn pa : Nat) : Option Nat × State :=
  let blk := pa / 4096
  match s.workOf cn pa with
  | none => (some 2, s)
  | some m =>
    if s.mergeWaits blk m then (none, s.snoop (blk * 4096) 4096)
    else
      let r := s.merge blk m (s.workMarks cn blk)
      (some r.1, (r.2.dropWork cn blk).returning gid (s.gwctBlock blk))

/-- Whether a store to `pa` is one to host memory, which the host completes (25 R424). -/
def State.toHost (s : State) (cn scope pa : Nat) : Bool := !isDevice pa && !isRegSpace pa && (s.workAt cn scope pa).isNone

/-- A group's global write performed at the home, its GWCT on the way back; the host completes one to its memory later
(11 R263; 25 R424). -/
def State.groupStore (s : State) (gid core cn scope pa : Nat) (bytes : List Byte) (who : Nat) : State :=
  ((s.storeBytes core cn scope pa bytes who).returning gid (s.gwct pa)).updG gid (fun g =>
    if s.toHost cn scope pa then { g with hostW := g.hostW + 1 } else g)

/-- An atomic's old bytes and its write: in the L1 at core scope or narrower where the part chooses so, under its policy, else
at the home, which returns a completion time also where nothing is written (03 R65; 05 R128; 11 R263, R273, R279). -/
def State.atomicAt (s : State) (gid core cn scope hint : Nat) (l : Leaf) (pa n : Nat) (f : Nat → Option Nat) :
    Nat × State :=
  let inL1 := scope ≤ 3 && !l.rounds && !l.so && Config.atomInL1 s.stamp (pa / 128)
  let r := s.loadLine core cn scope hint (!inL1) l pa n
  let old := leNat (r.1.getD [])
  match f old with
  | none => (old, if inL1 then r.2 else r.2.returning gid (r.2.gwct pa))
  | some new => (old, r.2.groupStore gid core cn scope pa (leBytes n new) 0)

/-- How a bounded load stands: it looks its line up, in `kr` at the known round with which it did so before; past its
region's stall timeout no copy and no slice answers it any more, and `fromHome` says that the slice answers, or the service of
a fault fetches the line from its home (05 R125; 11 R282; 20 R371). -/
structure Look where
  kr : Option Word
  expired : Bool
  fromHome : Bool
  deriving DecidableEq, Repr

/-- A bounded load of a line not looked up before. -/
def Look.first : Look := ⟨none, false, false⟩

/-- What a bounded load comes to: bytes, a wait at the line's home, or a `.st` load's wait for a copy. -/
inductive Bounded where
  | bytes (b : List Byte)
  | atHome
  | late (kr : Word)
  deriving DecidableEq, Repr

/-- A bounded load on a round-managed page: the bytes of a copy within the bound, in the L1 or in a slice away from the home,
or a wait (05 R125, 20 R371). One at host scope or wider performs at the home (11 R268). Once a copy away from the home has
served a core, its own L1 copy serves it no more (11 R265). -/
def State.loadBounded (s : State) (core cn scope hint : Nat) (l : Leaf) (pa n k : Nat) (st : Bool) (look : Look) :
    Bounded × State :=
  let line := pa / 128
  let ofHome (r : Option (List Byte) × State) : Bounded × State :=
    (match r.1 with | some b => .bytes b | none => .atHome, r.2)
  match s.workAt cn scope pa with
  | some m => (.bytes (m.slice (pa % 4096) n), s)
  | none =>
    if 7 ≤ scope then ofHome (s.readHome core pa n)
    else if look.fromHome then ofHome (s.fetchLine core cn hint l pa n)
    else
      let kr := look.kr.getD (s.kr.get (krKey core cn l.region))
      let hit := s.l1.find? (fun c => (c.core == core || (c.core == Config.llcCore && !c.barred.contains core)) &&
        c.line == line && (match c.tag with
        | .round t x y => x == cn && y == l.region && geSigned t (kr - BitVec.ofNat 32 k)
        | .lease _ => false) && Config.l1Keeps s.stamp (line + 2 ^ 48 * c.core))
      if look.expired then (.late kr, s)
      else match hit with
      | some c => (.bytes (c.bytes.slice (pa % 128) n),
          if c.core == core then s else { s with l1 := s.l1.filter (fun x => !(x.core == core && x.line == line)) })
      | none => if st then (.late kr, s) else ofHome (s.fetchLine core cn hint l pa n)

/-- An `ldacq` of a region's counter raises the core's known round (05 R126). -/
def State.acquireRound (s : State) (core cn va : Nat) (x : Word) : State :=
  match KMap.look s.ctxs cn with
  | none => s
  | some c => c.regions.foldl (fun s e => if e.2.v && e.2.cntva.toNat == va then s.raiseKr core cn e.1 x else s) s

/-- `ckout` and `ckin` of one lane at a page of this device's or the host's memory: status 2 with nothing done, at the
merge agent here, or sent to the one on another device (05 R134; 11 R284, R285; 20 R373). -/
def State.laneBlock (s : State) (gid cn : Nat) (op : MemOp) (hold j va pa : Nat) (l : Leaf) : LaneOut × State :=
  let sent (kind : RemoteKind) (after : State → State) : LaneOut × State :=
    match s.mergeSend cn gid hold j pa va kind with
    | .error e => (e, s)
    | .ok s' => (.sent, after s')
  let blk := pa / 4096
  if l.so || (op.kind == .ckout && !l.mrg) then (wStatus op.f j 2, s)
  else if op.kind == .ckout && (linesOf (blk * 4096) 4096).any (fun x => s.backInv.contains x) then (.stall (pa / 128), s)
  else if op.kind == .ckout then
    if s.mergesAway cn pa && (s.workOf cn pa).isNone then
      if s.goingOut cn blk then (wStatus op.f j 8, s)
      else if s.worksFull then (wStatus op.f j 4, s)
      else sent .hostOut (fun s => s)
    else let r := s.ckout cn pa; (wStatus op.f j r.1, r.2)
  else
    match s.mergesAway cn pa, s.workOf cn pa with
    | true, some m => sent (.hostIn (m.slice 0 4096) (s.workMarks cn blk)) (fun s => s.dropWork cn blk)
    | _, _ =>
      let r := s.ckin gid cn pa
      match r.1 with
      | some x => (wStatus op.f j x, r.2)
      | none => (.stall ((r.2.backInv.find? (fun l => l / 32 == blk)).getD (blk * 32)), r.2)

/-- A global access of one lane whose translation is `l`. DESIGN CHOICE (log entry 109): a `.b128` access performs its two
8-byte halves together. -/
def State.laneHome (s : State) (gid : Nat) (g : Group) (core cn : Nat) (op : MemOp) (hold j va : Nat) (data : BitVec 128)
    (l : Leaf) (look : Look) : LaneOut × State :=
  let f := op.f
  let ac := f.ac.toNat
  let scope := f.scope.toNat
  let hint := if (match op.kind with | .bounded _ _ => true | _ => false) then 0 else f.hint.toNat % 4
  let pa := l.pa va
  let n := op.size
  if isRegSpace pa then
    if !l.so then (.fail 0x10 6 l.level false 0#64, s)
    else
      let off := pa - Config.regBase
      let old := leNat (s.regBytes off n)
      match op.kind with
      | .store => (.done [], s.regPost gid off (leBytes n data.toNat))
      | .atomic ret =>
        (.done (if ret then wV f.d j (BitVec.ofNat 32 old) else []),
          s.regPost gid off (leBytes 4 (atomNew f.sub.toNat (BitVec.ofNat 32 old) (data.setWidth 32)).toNat))
      | .cas =>
        (.done (if n == 4 then wV f.d j (BitVec.ofNat 32 old) else wVPair f.d j (BitVec.ofNat 64 old)),
          if old == data.toNat % 2 ^ (8 * n) then s.regPost gid off (leBytes n (data.toNat / 2 ^ (8 * n))) else s)
      | .ckout => (wStatus f j 2, s)
      | .ckin => (wStatus f j 2, s)
      | _ => (.done (loadWrites f.sub.toNat f.d j old), s)
  else if op.kind.reads && s.poisonAt cn scope pa n then (.poison, s)
  else
    match op.kind with
    | .ckout => s.laneBlock gid cn op hold j va pa l
    | .ckin => s.laneBlock gid cn op hold j va pa l
    | .store =>
      if s.writeWaits cn scope pa n then (.stall (pa / 128), s.snoop pa n)
      else
        let raw := s.standing cn scope pa n
        let new := leBytes n data.toNat
        let b := (List.range n).map (fun t => g.raceStore s.stamp ac (pa + t) (nthD raw t 0#8) (nthD new t 0#8))
        (.done [], (s.groupStore gid core cn scope pa b hold).updG gid (fun g => g.noteStore ac pa b raw))
    | .atomic ret =>
      if s.writeWaits cn scope pa n then (.stall (pa / 128), s.snoop pa n)
      else
        let r := s.atomicAt gid core cn scope hint l pa 4 (fun old =>
          some (atomNew f.sub.toNat (BitVec.ofNat 32 old) (data.setWidth 32)).toNat)
        (.done (if ret then wV f.d j (BitVec.ofNat 32 r.1) else []), r.2)
    | .cas =>
      let new (old : Nat) : Option Nat :=
        if old == data.toNat % 2 ^ (8 * n) then some (data.toNat / 2 ^ (8 * n) % 2 ^ (8 * n)) else none
      let writes := (new (leNat (s.standing cn scope pa n))).isSome
      if s.writeWaits cn scope pa n && (writes || s.homeBusy pa) then
        (.stall (pa / 128), if writes then s.snoop pa n else s)
      else
        let r := s.atomicAt gid core cn scope hint l pa n new
        (.done (if n == 4 then wV f.d j (BitVec.ofNat 32 r.1) else wVPair f.d j (BitVec.ofNat 64 r.1)), r.2)
    | k =>
      let line (home : Bool) : Bounded × State :=
        let r := s.loadLine core cn scope hint home l pa n
        (match r.1 with | some b => .bytes b | none => .atHome, r.2)
      let r : Bounded × State :=
        match k with
        | .bounded b st => if l.rounds then s.loadBounded core cn scope hint l pa n b st look else line false
        | .load true => line true
        | _ => if l.rounds then s.loadBounded core cn scope hint l pa n 0 false look else line false
      match r.1 with
      | .atHome => (.stall (pa / 128), s)
      | .late kr => (.late kr, s)
      | .bytes raw =>
        let b := g.raceLoad s.stamp ac pa raw
        let s' := if k == .load true then r.2.acquireRound core cn va (BitVec.ofNat 32 (leNat b.1)) else r.2
        (.done (loadWrites f.sub.toNat f.d j (leNat b.1)), s'.updG gid (fun x => { x with recent := b.2 }))

/-- The access of one lane: local, remote, or at its home; `failed` says that an earlier lane failed. -/
def State.laneAccess (s : State) (gid : Nat) (g : Group) (core cn : Nat) (op : MemOp) (hold j va : Nat)
    (data : BitVec 128) (failed : Bool) (look : Look) : LaneOut × State :=
  if isLocal va then s.laneLocal gid g op hold j (va - Config.localBase) data
  else
    let b := (KMap.look g.bx op.f.bx.toNat).getD Bx.invalid
    let r := s.translateBx core cn b va op.size op.kind.acc
    match r.1 with
    | .error e => (.fail 0x10 e.1 e.2 false 0#64, r.2)
    | .ok l =>
      let block := match op.kind with | .ckout => true | .ckin => true | _ => false
      let w := if block then l else r.2.workLeaf cn op.f.scope.toNat va l
      if failed && l.so then (.skip, r.2)
      else if w.rem then
        -- the peer's leaf gives SO; until it is known, and where it is set, one access at a time is under way
        let so := match (r.2.windowTo cn l va).map (fun x => r.2.remPage cn l.frame x.1 x.2.2) with
          | some (some i) => some i.so
          | _ => none
        let busy := r.2.remote.any (fun a => a.gid == some gid && a.hold == hold)
        if so == some true && failed then (.skip, r.2)
        else if so != some false && busy then (.behind, r.2)
        else r.2.laneRemote gid cn op hold j l va data
      else r.2.laneHome gid g core cn op hold j va data w look

/-! ### An instruction -/

/-- The counter a lane's result is counted on (05 R120). -/
def State.lanePath (s : State) (g : Group) (k : MemKind) (va : Nat) : Option Nat :=
  if isLocal va then
    match k with
    | .store => match s.localPlace g.hid (va - Config.localBase) 1 with
      | some p => if p.hid == g.hid then none else some 2
      | none => none
    | .atomic false => match s.localPlace g.hid (va - Config.localBase) 1 with
      | some p => if p.hid == g.hid then none else some 2
      | none => none
    | .ckout => some 0
    | .ckin => some 0
    | _ => some 1
  else
    match k with
    | .store => none
    | .atomic false => none
    | _ => some 0

/-- What the lanes of a held instruction have come to: lanes left, those of them that have failed or stand behind one that has,
the first failure with its lane, poison. -/
structure Prog where
  s : State
  left : DWord
  lost : DWord
  fail : Option (Nat × LaneOut)
  poison : Bool
  deriving DecidableEq, Repr

/-- The round region that lane `j` of a held load reads, with its number (20 R367). -/
def State.laneRegion (s : State) (g : Group) (h : HeldI) (j : Nat) : Option (Nat × Region) :=
  match (s.leafOf (s.coreOf g) (s.ctxOf g) (h.va.get j).toNat).1 with
  | .error _ => none
  | .ok l =>
    if l.rem then none
    else ((KMap.look s.ctxs (s.ctxOf g)).bind (fun c => KMap.look c.regions l.region)).map (fun r => (l.region, r))

/-- Whether lane `j` of a `.st` load has waited for its region's stall timeout (05 R125, 20 R371). -/
def State.expired (s : State) (g : Group) (h : HeldI) (j : Nat) : Bool :=
  (KMap.look h.kr j).isSome && (s.laneRegion g h j).any (fun x => h.time + 2 ^ (12 + x.2.tmo) ≤ s.chipTime)

/-- How lane `j` of a held load looks its line up; `force` are the lanes that a slice answers, or whose lines the service of a
fault has fetched (05 R125). -/
def State.lookOf (s : State) (g : Group) (h : HeldI) (force : DWord) (j : Nat) : Look :=
  ⟨KMap.look h.kr j, s.expired g h j, force.getLsbD j⟩

/-- A group's memory instruction stands in the order of arrival at a place where it waits (11 R260). -/
def State.waitAt (s : State) (place gid id : Nat) : State :=
  if s.waits.contains (place, gid, id) then s else { s with waits := s.waits ++ [(place, gid, id)] }

/-- The known round with which lane `j` of held instruction `id` has looked its line up (11 R282). -/
def Group.keepKr (g : Group) (id j : Nat) (kr : Word) : Group :=
  { g with held := g.held.map (fun h => if h.id == id then { h with kr := KMap.put h.kr j kr } else h) }

/-- Lane `j` of held instruction `h` performs; a strongly ordered lane does not behind one that has not (05 R123). -/
def Prog.lane (gid core cn : Nat) (h : HeldI) (op : MemOp) (force : DWord) (p : Prog) (j : Nat) : Prog :=
  if !h.lanes.getLsbD j || p.poison then p
  else if h.lost.getLsbD j then { p with left := p.left ||| (1#64 <<< j) }
  else match KMap.look p.s.groups gid with
    | none => p
    | some g =>
      let va := (h.va.get j).toNat
      let r := p.s.laneAccess gid g core cn op h.id j va (h.data.get j) (p.lost != 0#64) (p.s.lookOf g h force j)
      match r.1 with
      | .done w => { p with s := r.2.updG gid (fun x => x.arrived h.id w) }
      | .fail _ _ _ _ _ =>
        { p with
          s := r.2, left := p.left ||| (1#64 <<< j), lost := p.lost ||| (1#64 <<< j)
          fail := if p.fail.isSome then p.fail else some (j, r.1) }
      | .skip => { p with s := r.2, left := p.left ||| (1#64 <<< j), lost := p.lost ||| (1#64 <<< j) }
      | .behind => { p with s := r.2, left := p.left ||| (1#64 <<< j) }
      | .stall place => { p with s := r.2.waitAt place gid h.id, left := p.left ||| (1#64 <<< j) }
      | .late kr => { p with s := r.2.updG gid (fun x => x.keepKr h.id j kr), left := p.left ||| (1#64 <<< j) }
      | .sent => { p with s := r.2 }
      | .poison => { p with s := r.2, poison := true }

/-- Whether an answer from a peer is still awaited for operation `id` of a group. -/
def State.awaits (s : State) (gid id : Nat) : Bool :=
  s.remote.any (fun a => a.gid == some gid && a.hold == id)

/-- Held instruction `id` of a group, with its parts. -/
def State.heldOp (s : State) (gid id : Nat) : Option (Group × HeldI × MemOp) :=
  (KMap.look s.groups gid).bind (fun g => (g.held.find? (fun h => h.id == id)).bind (fun h =>
    (memOp h.instr).map (fun op => (g, h, op))))


/-- Held instruction `h` of a group has performed in every lane: it is held no more, and one that acquires does so (05 R126,
11 R271). -/
def State.heldDone (s : State) (gid : Nat) (h : HeldI) : State :=
  let core := ((KMap.look s.groups gid).map s.coreOf).getD 0
  let s := { s.updG gid (fun x => x.dropHeld h.id) with
    waits := s.waits.filter (fun w => !(w.2.1 == gid && w.2.2 == h.id)) }
  match h.instr with
  | .ldacq f => s.acquireAt core f.scope.toNat
  | _ => s

/-- The failure of the lowest lane of two. -/
def lowerBad (a b : Option (Nat × FaultRec)) : Option (Nat × FaultRec) :=
  match a, b with
  | some x, some y => if y.1 < x.1 then some y else some x
  | none, b => b
  | a, none => a

/-- Held instruction `id` parks its group once every lane that can perform has done so, and the peers have answered; one that
has performed in every lane is over (05 R121; 17 R335). -/
def State.heldOver (s : State) (gid id : Nat) : State :=
  match s.heldOp gid id with
  | none => s
  | some (g, h, _) =>
    if s.awaits gid id then s
    else if h.lanes == 0#64 then s.heldDone gid h
    else match h.bad with
      | none => s
      | some (_, r) =>
        if h.lanes &&& ~~~h.lost != 0#64 then s
        else
          let upd (x : HeldI) : HeldI := if x.id == id then { x with bad := none, lost := 0#64 } else x
          let s := s.updG gid (fun x => { x with held := x.held.map upd })
          if g.stuck then s else s.parkFault gid { r with mask := h.lanes }

/-- Held instruction `id` of a group performs in its unfinished lanes, but for those that have failed since it was last
replayed (05 R121, 17 R335). -/
def State.performHeld (s : State) (gid id : Nat) (force : DWord) : State :=
  match s.heldOp gid id with
  | none => s
  | some (g, h, op) =>
    let plain := op.f.ac != 0#4 && (match op.kind with | .atomic _ => false | .cas => false | _ => true)
    let s := s.updG gid (fun x => { x with recent := if plain then x.recent else [] })
    let p := (List.range 64).foldl (Prog.lane gid (s.coreOf g) (s.ctxOf g) h op force) ⟨s, 0#64, h.lost, none, false⟩
    if p.poison then p.s.groupFatal gid 0x30 h.pc
    else
      let bad := match p.fail with
        | some (j, .fail code cause level rem w2) =>
          some (j, { transRec code cause level op.kind.acc rem (h.va.get j).toNat h.pc p.left with w2 := w2 })
        | _ => none
      let upd (x : HeldI) : HeldI :=
        if x.id == id then { x with lanes := p.left, lost := p.lost, bad := lowerBad h.bad bad } else x
      (p.s.updG gid (fun x => { x with held := x.held.map upd })).heldOver gid id

/-- Held instruction `id`, which waits for its fence or performs late, has its addresses translated in their turn: a failure
parks the group (05 R121, R151; 17 R344). -/
def State.probeHeld (s : State) (gid id : Nat) : State :=
  match s.heldOp gid id with
  | none => s
  | some (g, h, op) =>
    let bx := (KMap.look g.bx op.f.bx.toNat).getD Bx.invalid
    let lane (p : State × Option (Nat × Nat × Nat × Bool)) (j : Nat) : State × Option (Nat × Nat × Nat × Bool) :=
      let va := (h.va.get j).toNat
      if p.2.isSome || !h.lanes.getLsbD j then p
      else if isLocal va then
        (p.1, if (p.1.localPlace g.hid (va - Config.localBase) op.size).isNone then some (j, causeLocal, 7, false) else none)
      else
        let cn := s.ctxOf g
        let r := p.1.translateBx (s.coreOf g) cn bx va op.size op.kind.acc
        (r.2, match r.1 with
          | .error e => some (j, e.1, e.2, false)
          | .ok l =>
            if l.rem then (if (p.1.windowTo cn l va).isNone then some (j, 6, l.level, true) else none)
            else if isRegSpace (l.pa va) && !l.so then some (j, 6, l.level, false)
            else none)
    let p := (List.range 64).foldl lane (s, none)
    match p.2 with
    | some (j, cause, level, rem) =>
      p.1.parkFault gid (transRec 0x10 cause level op.kind.acc rem (h.va.get j).toNat h.pc h.lanes)
    | none => p.1

/-- Whether an operation waits for the end of a fence (05 R127). -/
def Group.fenced (g : Group) (id : Nat) : Bool := g.fences.any (fun f => f.act == .perform id)

/-- The held instructions of a group perform in their order until one fails; one behind a fence is only translated. `force`
names a `.st` load whose stall has been served, and the lanes whose line comes from the home (05 R121, R125; 17 R337). -/
def State.replayHeld (s : State) (gid : Nat) (force : Option (Nat × DWord)) : State :=
  match KMap.look s.groups gid with
  | none => s
  | some g =>
    (g.held.map (fun h => h.id)).foldl (fun s id => match KMap.look s.groups gid with
      | none => s
      | some g =>
        if g.stuck then s
        else if g.fenced id then s.probeHeld gid id
        else s.performHeld gid id ((force.filter (fun f => f.1 == id)).map (fun f => f.2) |>.getD 0#64)) s

/-- Whether a load of a nonzero class is left to perform later in step `stamp`, so that stores of other classes may pass it
(11 R274). -/
def HeldI.deferred (h : HeldI) (stamp : Nat) : Bool :=
  match memOp h.instr with
  | some op => op.f.ac != 0#4 && op.kind.mayWait && Config.loadWaits stamp h.id
  | none => false

/-- A held instruction whose lanes wait tries again, unless it is behind a fault or a fence. -/
def State.retryOne (s : State) (gid id : Nat) : State :=
  match KMap.look s.groups gid with
  | none => s
  | some g =>
    match g.held.find? (fun h => h.id == id) with
    | none => s
    | some h =>
      if h.lanes == 0#64 || h.deferred s.stamp || g.behindFault id || g.fenced id then s
      else s.performHeld gid id 0#64

/-- The held instructions whose lanes wait try again in their order: what they waited for may be there. -/
def State.retryHeld (s : State) (gid : Nat) : State :=
  match KMap.look s.groups gid with
  | none => s
  | some g => (g.held.map (fun h => h.id)).foldl (fun s id => s.retryOne gid id) s

/-! ### Fences (05 R131) -/

/-- Whether a held instruction only waits for a peer to acknowledge what it stores. A `red` has to perform for a fence at
team scope or wider (05 R131, 11 R286). -/
def HeldI.acking (h : HeldI) (sc : Nat) : Bool :=
  h.accepted || (sc < 2 && h.lanes == 0#64 && h.bad.isNone && (match h.instr with | .red _ => true | _ => false))

/-- Whether every earlier access of a group has reached scope `sc`; `own` is the waiting `strel` itself, which waits for no
later instruction (05 R127, R131). -/
def State.fenceDone (s : State) (gid : Nat) (g : Group) (sc : Nat) (own : Option Nat) : Bool :=
  let before (id : Nat) : Bool := match own with | some o => id < o | none => true
  let path (c : Nat) := !g.landings.any (fun l => l.path == some c && before l.id)
  g.held.all (fun h => !before h.id || h.acking sc) &&
  (sc < 2 || (path 0 && path 1)) && (sc < 4 || path 2) &&
  (sc < 5 || (g.gwPend.isEmpty && g.gw.toNat ≤ s.chipTime && !s.incs.any (fun e => e.2.any (fun x => x.gid == some gid)))) &&
  (sc < 7 || g.hostW == 0) &&
  (sc < 8 || !s.remote.any (fun a => a.gid == some gid && before a.hold &&
    (match a.kind with | .read _ => false | .checkout => false | _ => true)))

/-- What a fence does when it ends. -/
def State.fenceAct (s : State) (gid : Nat) (a : FenceAct) : State :=
  match a with
  | .nothing => s
  | .perform id =>
    if ((KMap.look s.groups gid).map (fun g => g.behindFault id)).getD false then s else s.performHeld gid id 0#64
  | .round region =>
    match KMap.look s.groups gid with
    | none => s
    | some g =>
      let k := s.ctxOf g * 256 + region
      { s with incs := KMap.put s.incs k ((KMap.look s.incs k).getD [] ++ [⟨some gid, s.chipTime, false⟩]) }
  | .trigger =>
    match KMap.look s.groups gid with
    | none => s
    | some g => (s.updG gid (fun g => { g with triggered := true })).trigCheck g.hid

/-- The operation a fence holds. -/
def FenceAct.own : FenceAct → Option Nat
  | .perform id => some id
  | _ => none

/-- The waits of a fence at scope `sc` are over: it orders the accesses of its group, also toward the pair's other core, and
does what it is for (05 R131, 11 R266). -/
def State.fenceEnd (s : State) (gid sc : Nat) (a : FenceAct) : State :=
  let core := ((KMap.look s.groups gid).map s.coreOf).getD 0
  (((s.updG gid (fun x => { x with recent := [] })).releaseAt core sc).acquireAt core sc).fenceAct gid a

/-- The fences of a group end in their order, as far as their waits are over; those at die scope or wider only when `wide`
says that chip time is looked at (05 R131, R133). -/
def State.endFences (s : State) (gid : Nat) (wide : Bool) : State :=
  match KMap.look s.groups gid with
  | none => s
  | some g =>
    g.fences.foldl (fun s f => match KMap.look s.groups gid with
      | none => s
      | some g =>
        if g.fences.head? == some f && (wide || f.scope < 5) && s.fenceDone gid g f.scope f.act.own then
          (s.updG gid (fun x => { x with fences := x.fences.drop 1 })).fenceEnd gid f.scope f.act
        else s) s

/-- A fence issued at scope `sc`: it ends at once, or waits, also for the fences before it (05 R131, R133). -/
def State.issueFence (s : State) (gid sc : Nat) (a : FenceAct) : State :=
  match KMap.look s.groups gid with
  | none => s
  | some g =>
    if g.fences.isEmpty && s.fenceDone gid g sc a.own then s.fenceEnd gid sc a
    else
      let s := s.updG gid (fun x => { x with fences := x.fences ++ [⟨sc, a, s.nextId⟩], recent := [] })
      match a with
      | .perform id => s.probeHeld gid id
      | _ => s

/-! ### Issue -/

/-- Where the byte at `va` lies for a group, whatever its address: its local place, or its physical address with whether the
page is strongly ordered; `none` where no leaf is found (05 R119, R122, R123). -/
def State.spot (s : State) (g : Group) (va : Nat) : Option (Nat × Bool) :=
  if isLocal va then (s.localPlace g.hid (va - Config.localBase) 1).map (fun p => (localKey p, false))
  else match (s.leafOf (s.coreOf g) (s.ctxOf g) va).1 with
    | .ok l => some ((if l.rem then 2 ^ 56 * (l.frame + 1) + va else l.pa va), l.so)
    | .error _ => none

/-- Whether an access of `n` bytes at `v` must follow one of `m` bytes at `w`: they touch a common byte under whichever
addresses and `classes` says that their alias classes order them, or both are strongly ordered (05 R122, R123). -/
def State.ordered (s : State) (g : Group) (classes : Bool) (v n w m : Nat) : Bool :=
  let meet (a b : Nat) : Bool := a < b + m && b < a + n
  (classes && meet v w) || (match s.spot g v, s.spot g w with
    | some a, some b => (classes && meet a.1 b.1) || (a.2 && b.2)
    | _, _ => false)

/-- Whether a memory instruction must wait at issue: behind a fence (05 R131), an `ldacq` whose data has not returned
(R126), a held access of common bytes or of strongly ordered pages (R122, R123), or an access with a lane that has failed
(R121). -/
def State.memStalls (s : State) (g : Group) (ac size : Nat) (vas : List Nat) : Bool :=
  let held (h : HeldI) : Bool := h.lanes != 0#64 && (match memOp h.instr with
    | none => false
    | some o =>
      let classes := ac == 0 || o.f.ac.toNat == 0 || o.f.ac.toNat == ac
      (List.range 64).any (fun j => h.lanes.getLsbD j && vas.any (fun v => s.ordered g classes v size (h.va.get j).toNat o.size)))
  g.fences.any (fun f => match f.act with | .perform _ => false | _ => true) ||
  g.held.any (fun h => h.bad.isSome || (match h.instr with | .ldacq _ => true | _ => false)) ||
  g.held.any held

/-- A memory instruction's issue (05 R118 to R122): alignment, counters, then its lanes perform, behind its fence where
it is a `strel`. -/
def memIssue (i : Instr) (s : State) : Res :=
  match memOp i with
  | none => .fault .noCurrent
  | some op =>
    lane i op.f.hd s (fun gid g s =>
      let st := s.stamp
      let en := g.enabled st op.f.hd
      let vaOf (j : Nat) : Nat := (g.laneVa st op.f j).toNat
      let bad := en.filter (fun j => vaOf j % op.size != 0)
      let go (s : State) (en : List Nat) : State :=
        let paths := ((List.range 3).filter (fun c => en.any (fun j => s.lanePath g op.kind (vaOf j) == some c)))
        let h : HeldI := ⟨s.nextId, g.pc, i, laneMask en, en.foldl (fun m j => m.set j (g.laneVa st op.f j)) [],
          if op.kind.operands then en.foldl (fun m j => m.set j (g.laneData st op j)) [] else [], s.chipTime, none, false, [], 0#64⟩
        let s := { s with nextId := s.nextId + 1 }.updG gid (fun x =>
          let keys (c : Nat) : List Nat :=
            (i.ignoreWrites g (en.filter (fun j => s.lanePath g op.kind (vaOf j) == some c))).map Prod.fst
          let x : Group := paths.foldl (fun (y : Group) c => y.issueWait c h.id (keys c)) x
          { x with held := x.held ++ [h] })
        match i with
        | .strel _ => s.issueFence gid op.f.scope.toNat (.perform h.id)
        | _ => if h.deferred st then s.probeHeld gid h.id else s.performHeld gid h.id 0#64
      let full := (List.range 3).any (fun c => g.wc.get c == 255#8 &&
        en.any (fun j => s.lanePath g op.kind (vaOf j) == some c))
      if s.memStalls g op.f.ac.toNat op.size (en.map vaOf) || full then .gone (s.blockG gid op.f.hd .issue)
      else
        match bad with
        | j :: _ =>
          let r := trapRec 4 0 (BitVec.ofNat 64 (vaOf j)) (BitVec.ofNat 64 op.size) 0#64 g.pc
          let s' := s.takeTrap gid r (i.ignoreWrites g bad)
          .gone (if s.ignores gid then go s' (en.filter (fun j => !bad.contains j)) else s')
        | [] =>
          .gone (go (s.updG gid (fun x => x.finish op.f.hd.s (g.pc + 8#64) [])) en))

end Sys2Proof.Machine
end

