-- ==== Sys2Proof/Machine/Queue.lean ====
section
/-! DEFINITION. Queue.lean: the engine queues of a core (11 R275): Clove channels 0 to 3 under core × 32 + channel, the
matrix queue of a quarter under 4 + quarter, Cumin 8, Anise 9, the fabric send queues 10; the Loch queues stand in their
blocks. -/
namespace Sys2Proof.Machine

/-- The key of queue `code` of a core. -/
def qkey (core code : Nat) : Nat := core * 32 + code

/-- The entries of a queue. -/
def State.queue (s : State) (k : Nat) : List QEnt := (KMap.look s.queues k).getD []

/-- A queue with its entries. -/
def State.setQueue (s : State) (k : Nat) (l : List QEnt) : State := { s with queues := KMap.put s.queues k l }

/-- An entry at the tail of a queue. -/
def State.pushQ (s : State) (k : Nat) (e : QEnt) : State := s.setQueue k (s.queue k ++ [e])

/-- Commands of a core's Clove, in its channels and its time-sorted buffer (10 R250). -/
def State.cloveCount (s : State) (core : Nat) : Nat :=
  ((List.range 4).map (fun c => (s.queue (qkey core c)).length)).foldl (· + ·) 0 +
    ((KMap.look s.timed core).getD []).length

/-- The queues a mask names, of a core, its quarter `q`, and Loch queue `lq` as 100000 + its number (05 R132). -/
def maskQueues (core q mask lq : Nat) : List Nat :=
  ((List.range 9).filter (fun b => bitOf mask b)).map (fun b =>
    match b with
    | 4 => qkey core (4 + q)
    | 5 => qkey core 8
    | 6 => qkey core 9
    | 7 => qkey core 10
    | 8 => 100000 + lq
    | c => qkey core c)

/-- An entry at the tail of a queue, of Loch queues too. -/
def State.enter (s : State) (k : Nat) (e : QEnt) : State :=
  if k < 100000 then s.pushQ k e
  else
    let q := (KMap.look s.loch (k - 100000)).getD Loch.reset
    { s with loch := KMap.put s.loch (k - 100000) { q with entries := q.entries ++ [e] } }

/-- A fence entered into every named queue at once (11 R276); `at_` is the place of the operation that issues it (12 R298). -/
def State.enterFence (s : State) (ks : List Nat) (cn launch : Nat) (who : Issuer) (scope at_ : Nat) : State :=
  let e : QEnt :=
    ⟨s.nextId, cn, launch, who, 0#32, .qfence s.nextId scope, none, s.time64, 0, none, at_, 0, false, 0, [], 0, 0, 0#32, 0⟩
  ks.foldl (fun s k => s.enter k e) { s with nextId := s.nextId + 1 }

/-- Whether a Clove channel named in the list is full. -/
def State.cloveFull (s : State) (core : Nat) (ks : List Nat) : Bool :=
  ks.any (fun k => k < qkey core 4 && qkey core 0 ≤ k) && 512 ≤ s.cloveCount core

end Sys2Proof.Machine
end

