-- ==== Sys2Proof/Machine/Engine.lean ====
section
/-! DEFINITION. Engine.lean: what the engines' commands do element by element: the bytes of a side (10 R237 to R239,
12 R289, 17 R334, 25 R429), the copies of 10 R251 to R254 with their conversions (02 R50 to R56), and the fault words of
10 R256. -/
namespace Sys2Proof.Machine

/-! ### Runs -/

/-- Why an element of a command cannot go on: a fault with its cause, address, side, handle and destination bit, a violation
of the row format at a byte offset (07 R208), or a wait for a peer, the host or a stream. -/
inductive Stop where
  | fault (cause va : Nat) (dst : Bool) (handle dest : Nat)
  | vg (off : Nat)
  | wait
  deriving DecidableEq, Repr

/-- A command under way: the machine, its entry, why it stopped, and how many of its steps it may take now: all, or fewer where
it performs in part (11 R275). -/
structure Run where
  s : State
  e : QEnt
  stop : Option Stop
  lim : Option Nat
  deriving DecidableEq, Repr

/-- Elements `k`, `k + 1`, … performed one after another while none stops the run. -/
def runFrom (f : Nat → Run → Run) : Nat → Nat → Run → Run
  | 0, _, r => r
  | n + 1, k, r =>
    let r' := f k r
    match r'.stop with
    | some _ => r'
    | none => runFrom f n (k + 1) { r' with e := { r'.e with done := k + 1 } }

/-- Steps `a` to `a + n - 1` of a run, of which it takes at most as many as it may. -/
def Run.go (f : Nat → Run → Run) (n a : Nat) (r : Run) : Run :=
  let m := (r.lim.map (min n)).getD n
  let r' := runFrom f m a r
  if m < n && r'.stop.isNone then { r' with stop := some .wait } else r'

/-! ### Units -/

/-- What an entry keeps beside its elements in `buf`: how many its barrier has been credited for, that containment has it
replayed (09 R232), the unit whose writes a peer has still to acknowledge, and the unit whose destination a peer checks. -/
def creditKey : Nat := 2 ^ 52
/-- The mark of a replay under containment. -/
def retryKey : Nat := 2 ^ 50
/-- The key of the unit that is sent. -/
def sentKey : Nat := 2 ^ 53
/-- The key of the unit whose bytes a peer translates. -/
def probeKey : Nat := 2 ^ 54
/-- The key of the byte offset of row `k` of a `vgmv`. -/
def rowOffKey (k : Nat) : Nat := 2 ^ 51 + k
/-- The key of the place in its stream of unit `b` of an `sfill`. -/
def fillKey (b : Nat) : Nat := 2 ^ 55 + b
/-- The key of the value that byte `x` had before a later store of the sequencer (07 R196). -/
def shadowKey (x : Nat) : Nat := 2 ^ 100 + x

/-- A number under a key of an entry. -/
def QEnt.note (e : QEnt) (k : Nat) : Option Nat := (KMap.look e.buf k).map BitVec.toNat

/-- A number noted under a key. -/
def QEnt.setNote (e : QEnt) (k v : Nat) : QEnt := { e with buf := KMap.put e.buf k (BitVec.ofNat 64 v) }

/-- The entry without what peers have answered and what is under way: it will read again. -/
def QEnt.forget (e : QEnt) : QEnt :=
  { e with buf := e.buf.filter (fun b => b.1 == creditKey || b.1 == retryKey || (2 ^ 51 ≤ b.1 && b.1 < 2 ^ 52) ||
      (2 ^ 55 ≤ b.1 && b.1 < 2 ^ 56) || 2 ^ 100 ≤ b.1) }

/-- Whether a command still waits for peers to acknowledge its writes (25 R429). -/
def State.unacked (s : State) (id : Nat) : Bool := s.remote.any (fun a => a.gid.isNone && a.hold == id)

/-- The unit at element `k`: a peer acknowledges what it wrote through a window before it counts as written, so that none at
or after an element that the peer refuses is written (10 R246, R251). -/
def Run.unit (k : Nat) (f : Run → Run) (r : Run) : Run :=
  if r.e.note sentKey == some (k + 1) then
    if r.s.unacked r.e.id then { r with stop := some .wait } else { r with e := r.e.forget }
  else
    let r' := f r
    match r'.stop with
    | some _ => r'
    | none => { r' with e := r'.e.forget }

/-- Units of a block of `blk` elements, of `u` elements each. -/
def unitsIn (blk u : Nat) : Nat := (blk + u - 1) / u

/-- The first element of unit `b` and how many it has; none crosses a block (10 R253). -/
def unitAt (blk u b : Nat) : Nat × Nat :=
  (b / unitsIn blk u * blk + b % unitsIn blk u * u, min u (blk - b % unitsIn blk u * u))

/-- The unit that element `k` is in. -/
def unitOf (blk u k : Nat) : Nat := k / blk * unitsIn blk u + k % blk / u

/-- Elements of an outermost block of a record (10 R253). -/
def Layout.block (l : Layout) : Nat := (l.size.take (l.ndim - 1)).foldl (· * ·) 1
/-- The outermost size of a record. -/
def Layout.outer (l : Layout) : Nat := nthD l.size (l.ndim - 1) 1

/-- The elements a copy writes. -/
def copyCount (dsts : List (Nat × Side)) (idx : Option (List Nat)) : Nat :=
  match dsts with
  | [] => 0
  | d :: _ => match idx with
    | none => d.2.lay.count
    | some l => l.length * d.2.lay.block

/-- Elements that share destination bytes: two nibbles, or one element. -/
def Layout.share (l : Layout) : Nat := if l.nib then 2 else 1

/-- Copies advance by blocks of 32 in mode 2, else by the elements that share a byte. -/
def copyUnits (mode : Nat) (dst : Layout) : Nat := if mode == 2 then 32 else dst.share

/-- The elements of a copy that blocks of 32 do not cross: a block of a `cpyx`, else all of it (10 R253; log entry 80). -/
def copyBlock (dsts : List (Nat × Side)) (idx : Option (List Nat)) : Nat :=
  match dsts with
  | [] => 1
  | d :: _ => match idx with
    | none => d.2.lay.count
    | some _ => d.2.lay.block

/-- The elements of a command's progress, of one of its blocks, and of a unit. -/
def Cmd.shape (c : Cmd) : Nat × Nat × Nat :=
  match c with
  | .copy mode _ src dsts idx =>
    (copyCount dsts idx, copyBlock dsts idx, copyUnits mode (((dsts.head?).map (fun d => d.2.lay)).getD src.lay))
  | .fill src _ => (src.lay.count, src.lay.count, src.lay.share)
  | .ast _ dst _ => (8192, 8192, dst.lay.share)
  | .ald _ _ => (8192, 8192, 1)
  | .trn dst _ _ => (dst.lay.count, dst.lay.count, dst.lay.share)
  | .vgmv _ _ _ rows => (rows, rows, 1)
  | _ => (1, 1, 1)

/-- The units of a command. -/
def Cmd.unitCount (c : Cmd) : Nat := c.shape.1 / c.shape.2.1 * unitsIn c.shape.2.1 c.shape.2.2

/-- The first element of unit `b` of a command, all of them after the last. -/
def Cmd.elemOf (c : Cmd) (b : Nat) : Nat :=
  if c.unitCount ≤ b then c.shape.1 else (unitAt c.shape.2.1 c.shape.2.2 b).1

/-- A command performed by units from its first element not done: `body` gets the unit's number, its first element and how
many it has. -/
def Run.units (body : Nat → Nat → Nat → Run → Run) (r : Run) : Run :=
  let c := r.e.cmd
  let start := unitOf c.shape.2.1 c.shape.2.2 r.e.done
  let at_ (b : Nat) : Nat × Nat := unitAt c.shape.2.1 c.shape.2.2 b
  let step (b : Nat) (r : Run) : Run := r.unit (at_ b).1 (body b (at_ b).1 (at_ b).2)
  let r' := { r with e := { r.e with done := start } }.go step (c.unitCount - start) start
  { r' with e := { r'.e with done := c.elemOf r'.e.done } }

/-- An entry whose unit under way has been acknowledged by every peer: that unit is done (10 R246, 16 R324). -/
def QEnt.acked (e : QEnt) : QEnt :=
  if e.note sentKey == some (e.done + 1) then
    { e.forget with done := e.cmd.elemOf (unitOf e.cmd.shape.2.1 e.cmd.shape.2.2 e.done + 1) }
  else e

/-- The half whose local window and registers a command uses. -/
def State.homeHid (s : State) (e : QEnt) : Nat := (s.issuerHid e).getD 0

/-- The core of a command's issuer. -/
def State.homeCore (s : State) (e : QEnt) : Nat := ((KMap.look s.halves (s.homeHid e)).map (fun h => h.core)).getD 0

/-! ### Bytes of a side -/

/-- The group, lane register and lane of byte `o` of a gate map entry's space (12 R289). -/
def State.regPlace (s : State) (lo hi : Nat) (ranks : List Nat) (o : Nat) : Option (Nat × Nat × Nat) :=
  let width := ((ranks.head?.bind (fun x => KMap.look s.groups x)).map (fun g => g.width)).getD 16
  let w := o / 4
  (ranks[w / (width * (hi - lo + 1))]?).map (fun gid => (gid, lo + w / width % (hi - lo + 1), w % width))

/-- A byte of the lane registers; a byte of an absent lane reads zero. -/
def State.regByte (s : State) (lo hi : Nat) (ranks : List Nat) (o : Nat) : Byte :=
  match s.regPlace lo hi ranks o with
  | none => 0#8
  | some (gid, r, i) =>
    match KMap.look s.groups gid with
    | none => 0#8
    | some g => if g.live.getLsbD i then BitVec.ofNat 8 (elem (g.v.get (kv r i)).toNat 8 (o % 4)) else 0#8

/-- A byte of the lane registers written; a write to an absent lane is discarded. -/
def State.setRegByte (s : State) (lo hi : Nat) (ranks : List Nat) (o : Nat) (b : Byte) : State :=
  match s.regPlace lo hi ranks o with
  | none => s
  | some (gid, r, i) =>
    s.updG gid (fun g =>
      if g.live.getLsbD i then
        { g with v := g.v.set (kv r i) (BitVec.ofNat 32 (setElem (g.v.get (kv r i)).toNat 8 (o % 4) b.toNat)) }
      else g)

/-- One local byte read: the byte, or CAUSE. -/
def State.localByte (s : State) (hid x : Nat) : Except Nat Byte :=
  match s.localPlace hid x 1 with
  | none => .error causeLocal
  | some p => if s.locPoisoned p 1 then .error 5 else .ok (nthD (s.locBytes p 1) 0 0#8)

/-- Whether a local byte belongs to the frame of an open gate, which only the sequencer's hardware writes (10 R238). -/
def State.inFrame (s : State) (p : LPlace) : Bool :=
  match KMap.look s.halves p.hid with
  | none => false
  | some h => h.gate.isSome && !p.tob && h.frameOff ≤ p.off

/-- Byte `x` of a space as a number that no other place has; none for the registers of lanes. -/
def State.spaceKey (s : State) (e : QEnt) (sp : Space) (x : Int) : Option Nat :=
  match sp with
  | .loc hid => (s.localPlace hid x.toNat 1).map localKey
  | .regs _ _ _ _ => none
  | .virt cn core =>
    if isLocal x.toNat then (s.localPlace (s.homeHid e) (x.toNat - Config.localBase) 1).map localKey
    else (s.leafOf core cn x.toNat).1.toOption.map (fun l => if l.rem then 2 ^ 80 * (l.frame + 1) + x.toNat else l.pa x.toNat)

/-- Whether entry `e` keeps bytes that a later sequencer store has replaced. -/
def QEnt.shadows (e : QEnt) : Bool := e.buf.any (fun b => shadowKey 0 ≤ b.1)

/-- Entry `e` without the byte kept under `key`. -/
def QEnt.unshadow (e : QEnt) (key : Nat) : QEnt := { e with buf := e.buf.filter (fun b => b.1 != shadowKey key) }

/-- A command's write of the byte under `key` is younger than the sequencer stores that replaced it before (07 R196). -/
def State.unshadow (s : State) (key : Nat) : State :=
  if s.entries.any QEnt.shadows then
    { s with
      queues := KMap.mapv (fun _ q => q.map (fun e => e.unshadow key)) s.queues
      timed := KMap.mapv (fun _ q => q.map (fun e => (e.1, e.2.unshadow key))) s.timed }
  else s

/-- What byte `x` held before a store that the issuing sequencer made after the command (07 R196, 16 R328). -/
def State.shadow (s : State) (e : QEnt) (sp : Space) (x : Int) : Option Byte :=
  if !e.shadows then none
  else (s.spaceKey e sp x).bind (fun k => (e.note (shadowKey k)).map (BitVec.ofNat 8))

/-- The outcome of a read at an address: CAUSE where it fails, `none` where it waits at its home. -/
abbrev Got (α : Type) := Except (Option Nat) α

/-- A failure of a local access. -/
def Got.of {α : Type} : Except Nat α → Got α
  | .ok a => .ok a
  | .error c => .error (some c)

/-- `n` bytes read from `x` as a number, each in the place of a later store of the issuing sequencer as it was before
(07 R196). -/
def State.own (s : State) (e : QEnt) (sp : Space) (x : Int) (n v : Nat) : Nat :=
  (List.range n).foldl (fun (v : Nat) (i : Nat) => match s.shadow e sp (x + i) with
    | some b => setElem v 8 i b.toNat
    | none => v) v

/-- One byte of a space at address `x`, read for entry `e`. -/
def State.spaceByte (s : State) (e : QEnt) (sp : Space) (x : Int) : Got Byte × State :=
  match s.shadow e sp x with
  | some b => (.ok b, s)
  | none =>
  match sp with
  | .loc hid => if x < 0 then (.error (some causeLocal), s) else (Got.of (s.localByte hid x.toNat), s)
  | .regs _ lo hi ranks => (.ok (s.regByte lo hi ranks x.toNat), s)
  | .virt cn core =>
    if x < 0 then (.error (some 2), s)
    else if isLocal x.toNat then (Got.of (s.localByte (s.homeHid e) (x.toNat - Config.localBase)), s)
    else
      let r := s.translate core cn x.toNat .read
      match r.1 with
      | .error c => (.error (some c.1), r.2)
      | .ok l =>
        let l := r.2.workLeaf cn 6 x.toNat l
        let pa := l.pa x.toNat
        if l.rem then (.error (some 6), r.2)
        else if isRegSpace pa then
          if l.so then (.ok (nthD (r.2.regBytes (pa - Config.regBase) 1) 0 0#8), r.2) else (.error (some 6), r.2)
        else if r.2.poisonAt cn 6 pa 1 then (.error (some 5), r.2)
        else
          let b := r.2.loadLine core cn 6 0 false l pa 1
          (match b.1 with | some v => .ok (nthD v 0 0#8) | none => .error none, b.2)

/-- `n` bytes of a space from `x`, lowest first. -/
def State.spaceBytes (s : State) (e : QEnt) (sp : Space) (x : Int) : Nat → Got (List Byte) × State
  | 0 => (.ok [], s)
  | n + 1 =>
    match s.spaceBytes e sp x n with
    | (.error c, s) => (.error c, s)
    | (.ok l, s) =>
      match s.spaceByte e sp (x + n) with
      | (.error c, s) => (.error c, s)
      | (.ok b, s) => (.ok (l ++ [b]), s)

/-- The leaf of a fabric window that the address of an element lies in; a block that is checked out through it has its working
copy here (20 R376). -/
def State.windowLeaf (s : State) (sp : Space) (x : Int) (a : Acc) : Option Leaf :=
  match sp with
  | .virt cn core =>
    if x < 0 || isLocal x.toNat then none
    else match (s.translate core cn x.toNat a).1 with
      | .ok l => if (s.workLeaf cn 6 x.toNat l).rem then some l else none
      | .error _ => none
  | _ => none

/-- A remote read for entry `e` under key `tag`: the answer, or a wait after the request has gone out (25 R429). -/
def Run.remoteRead (r : Run) (l : Leaf) (va n tag : Nat) (sd : Side) (dst : Bool) : Option Nat × Run :=
  match KMap.look r.e.buf tag with
  | some v => (some v.toNat, r)
  | none =>
    if r.s.remote.any (fun a => a.gid.isNone && a.hold == r.e.id && a.lane == tag) ||
        !(r.s.queue (qkey (r.s.homeCore r.e) 10)).isEmpty then
      (none, { r with stop := some .wait })
    else
      match r.s.remoteSend r.e.ctx none r.e.id tag l va (.read n) with
      | .error (.fail _ c _ _ _) => (none, { r with stop := some (.fault c va dst sd.handle 0) })
      | .error _ => (none, { r with stop := some .wait })
      | .ok s => (none, { r with s := s, stop := some .wait })

/-- The address that a fault word names: the window address of a local byte, the va of a global one (10 R256). -/
def sideVa (sp : Space) (x : Int) : Nat :=
  match sp with
  | .loc _ => (Config.localBase + x).toNat
  | _ => x.toNat

/-- Element `k` of a side read as its bits; `tag` keys a remote answer. -/
def Run.readElem (r : Run) (sd : Side) (k tag : Nat) (dst : Bool) : Option Nat × Run :=
  let o := sd.lay.offset k
  let x : Int := sd.base + o.1
  let n := (sd.lay.bits + 7) / 8
  let pick (v : Nat) : Nat := if sd.lay.nib then elem v 4 o.2 else v
  match r.s.windowLeaf sd.space x .read with
  | some l =>
    let a := r.remoteRead l x.toNat n tag sd dst
    (a.1.map (fun v => pick (r.s.own r.e sd.space x n v)), a.2)
  | none =>
    match r.s.spaceBytes r.e sd.space x n with
    | (.error (some c), s) => (none, { r with s := s, stop := some (.fault c (sideVa sd.space x) dst sd.handle 0) })
    | (.error none, s) => (none, { r with s := s, stop := some .wait })
    | (.ok b, s) => (some (pick (leNat b)), { r with s := s })

/-! ### Writing -/

/-- One byte of a space written for entry `e`: CAUSE, or a wait at its home, for the host's answer or for an increment of the
counter that it writes (20 R369, 25 R425). -/
def Run.writeByte (r : Run) (sd : Side) (dest : Nat) (x : Int) (b : Byte) : Run :=
  let bad (c : Nat) : Run := { r with stop := some (.fault c (sideVa sd.space x) true sd.handle dest) }
  let loc (hid y : Nat) : Run :=
    match r.s.localPlace hid y 1 with
    | none => bad causeLocal
    | some p =>
      if r.s.inFrame p then bad causeLocal
      else { r with s := (r.s.unshadow (localKey p)).locWrite p [b] r.e.id, e := r.e.unshadow (localKey p) }
  match sd.space with
  | .loc hid => if x < 0 then bad causeLocal else loc hid x.toNat
  | .regs _ lo hi ranks => { r with s := r.s.setRegByte lo hi ranks x.toNat b }
  | .virt cn core =>
    if x < 0 then bad 2
    else if isLocal x.toNat then loc (r.s.homeHid r.e) (x.toNat - Config.localBase)
    else
      let t := r.s.translate core cn x.toNat .write
      match t.1 with
      | .error c => { bad c.1 with s := t.2 }
      | .ok l =>
        let l := t.2.workLeaf cn 6 x.toNat l
        let pa := l.pa x.toNat
        if l.rem then bad 6
        else if isRegSpace pa then
          if l.so then { r with s := t.2.regPost 0 (pa - Config.regBase) [b] true } else bad 6
        else if t.2.writeWaits cn 6 pa 1 then { r with s := t.2.snoop pa 1, stop := some .wait }
        else
          { r with
            s := (t.2.unshadow pa).storeBytes core cn 6 pa [b] r.e.id
            e := { r.e.unshadow pa with gw := max r.e.gw (t.2.gwct pa) } }

/-- Bytes written in order while none stops the run. -/
def Run.writeBytes (r : Run) (sd : Side) (dest : Nat) (x : Int) : List Byte → Run
  | [] => r
  | b :: t =>
    let r := r.writeByte sd dest x b
    match r.stop with
    | some _ => r
    | none => r.writeBytes sd dest (x + 1) t

/-- Element `k` of a side written: `dest` is the multicast bit a fault names (10 R254). A nibble leaves the other half of
its byte; through a window the byte goes out with its second nibble. DEDUCED (log entry 121): an element of a `cpym` at or
above 0x1000_0000 is outside its destination's scratchpad, CAUSE 3. -/
def Run.writeElem (r : Run) (sd : Side) (k v dest : Nat) : Run :=
  let o := sd.lay.offset k
  let x : Int := sd.base + o.1
  let n := (sd.lay.bits + 7) / 8
  if r.e.cast && (0x10000000 : Int) ≤ x then
    { r with stop := some (.fault causeLocal (sideVa sd.space x) true sd.handle dest) }
  else match r.s.windowLeaf sd.space x .write with
  | some l =>
    let key := 2 ^ 60 + x.toNat
    let low := (r.e.note key).getD 0
    if !(r.s.queue (qkey (r.s.homeCore r.e) 10)).isEmpty then { r with stop := some .wait }
    else if sd.lay.nib && o.2 == 0 then { r with e := r.e.setNote key v }
    else
      let bytes := if sd.lay.nib then [BitVec.ofNat 8 (low + 16 * v)] else leBytes n v
      match r.s.remoteSend r.e.ctx none r.e.id (2 ^ 61 + k) l x.toNat (.write bytes) with
      | .error (.fail _ c _ _ _) => { r with stop := some (.fault c x.toNat true sd.handle dest) }
      | .error _ => { r with stop := some .wait }
      | .ok s => { r with s := s }
  | none =>
    if sd.lay.nib then
      let old := match (r.s.spaceByte r.e sd.space x).1 with
        | .ok b => b.toNat
        | .error _ => 0
      r.writeBytes sd dest x [BitVec.ofNat 8 (setElem old 4 o.2 v)]
    else r.writeBytes sd dest x (leBytes n v)

/-- The bytes of an element behind a window checked at the peer, by a write of none. -/
def Run.probeElem (r : Run) (sd : Side) (k dest : Nat) : Run :=
  let x : Int := sd.base + (sd.lay.offset k).1
  match r.s.windowLeaf sd.space x .write with
  | none => r
  | some l =>
    if !(r.s.queue (qkey (r.s.homeCore r.e) 10)).isEmpty then { r with stop := some .wait }
    else match r.s.remoteSend r.e.ctx none r.e.id (2 ^ 61 + k) l x.toNat (.write []) with
      | .error (.fail _ c _ _ _) => { r with stop := some (.fault c x.toNat true sd.handle dest) }
      | .error _ => { r with stop := some .wait }
      | .ok s => { r with s := s }

/-- Every destination byte of the block at element `k` is translated before any is written, at a peer too (10 R252). -/
def Run.probe (dsts : List (Nat × Side)) (k n : Nat) (r : Run) : Run :=
  if r.e.note probeKey == some (k + 1) then (if r.s.unacked r.e.id then { r with stop := some .wait } else r)
  else
    let one (d : Nat × Side) (r : Run) (i : Nat) : Run := match r.stop with
      | some _ => r
      | none => r.probeElem d.2 (k + i) d.1
    let r' := dsts.foldl (fun r d => (List.range n).foldl (one d) r) r
    match r'.stop with
    | some st => { r with stop := some st }
    | none => if r'.s.unacked r.e.id then { r' with e := r'.e.setNote probeKey (k + 1), stop := some .wait } else r'

/-- The writes of the unit at element `k` are made together or not at all (10 R251, R252): after a failure the run is as it
was before them, but for the requests that a wait has sent. Those that went to a peer are then awaited. -/
def Run.together (r : Run) (k : Nat) (f : Run → Run) : Run :=
  let r' := f r
  match r'.stop with
  | none => if r'.s.unacked r.e.id then { r' with e := r'.e.setNote sentKey (k + 1), stop := some .wait } else r'
  | some .wait => { r with s := { r.s with backInv := r'.s.backInv }, stop := some .wait }
  | some st => { r with stop := some st }

/-! ### Conversions of a copy (10 R252) -/

/-- The settings of a command: the captured format mode, no clamp. -/
def cmdEnv (fm : Word) : FEnv := envOf fm

/-- An element of format `src` multiplied by `2^k`, rounded once and saturated into `dst`; DAZ does not act
(10 R252, 02 R56). -/
def convScaled (fm : Word) (dst src : Nat) (k : Int) (x : Nat) : Nat :=
  let v : FEnv := { cmdEnv fm with daz := false, sat := true }
  match (decodeF (fmtOf src) false x).scale k with
  | .num s m e => if dst < 6 then (deliver v (fmtOf dst) (if m = 0 then .zero s else .num s m e)).1
                  else (floatToInt v dst (.num s m e)).1
  | .inf s => if dst < 6 then (deliver v (fmtOf dst) (.inf s)).1 else (floatToInt v dst (.inf s)).1
  | a => if dst < 6 then (deliver v (fmtOf dst) (.nan [a] false)).1 else (floatToInt v dst a).1

/-- `emax` of a narrowing destination (02 R56). -/
def emaxOf (dst : Nat) : Int := match dst with | 3 => 8 | 4 => 15 | 5 => 2 | 10 => 6 | 11 => 7 | 12 => 2 | _ => 3

/-- floor(log2) of a nonzero magnitude. -/
def FV.exp2 : FV → Int
  | .num _ m e => (bitLen m : Int) - 1 + e
  | _ => 0

/-- The scale byte of a block (02 R56). -/
def blockScale (dst src : Nat) (l : List Nat) : Nat :=
  let vs := l.map (decodeF (fmtOf src) false)
  if vs.any (fun v => v.isNan || v.isInf) then 255
  else
    let nz := vs.filter (fun v => !v.isZero)
    match nz with
    | [] => 127
    | v :: t => (clampInt 0 254 (t.foldl (fun a w => if a < w.exp2 then w.exp2 else a) v.exp2 - emaxOf dst + 127)).toNat

/-- A source element converted under a copy's mode; `e` is the scale byte of modes 1 and 2. -/
def convMode (fm : Word) (mode dst src e x : Nat) : Nat :=
  if mode == 0 then (convert (cmdEnv fm) dst src false false x).1
  else if e == 255 then 0
  else convScaled fm dst src (127 - (e : Int)) x

/-! ### Copies -/

/-- The source element of destination element `k`, or the index that fails its check (10 R253). -/
def srcIndex (src : Side) (idx : Option (List Nat)) (k : Nat) : Except Nat Nat :=
  match idx with
  | none => .ok k
  | some l =>
    let b := src.lay.block
    let x := nthD l (k / b) 0
    if src.lay.outer ≤ x then .error x else .ok (x * b + k % b)

/-- Source element `k` of a copy: its value now, or, where the command itself has overwritten it, the value at the
command's start `s0` (10 R251). -/
def Run.readSrc (s0 : State) (src : Side) (idx : Option (List Nat)) (r : Run) (k : Nat) : Option Nat × Run :=
  match srcIndex src idx k with
  | .error x => (none, { r with stop := some (.fault 4 x false src.handle 0) })
  | .ok j =>
    let a := r.readElem src j k false
    match a.1, (({ r with s := s0 } : Run).readElem src j k false).1 with
    | some v, some v0 => (some (if v == v0 then v else if Config.raceOld s0.stamp k then v0 else v), a.2)
    | _, _ => a

/-- Source elements `k` to `k + n - 1`. -/
def Run.readSrcs (s0 : State) (src : Side) (idx : Option (List Nat)) (r : Run) (k : Nat) : Nat → List Nat × Run
  | 0 => ([], r)
  | n + 1 =>
    let p := r.readSrcs s0 src idx k n
    match p.2.stop with
    | some _ => p
    | none =>
      let a := p.2.readSrc s0 src idx (k + n)
      (p.1 ++ (match a.1 with | some v => [v] | none => []), a.2)

/-- Values written from element `k` on into every destination. -/
def Run.writeAll (dsts : List (Nat × Side)) (r : Run) (k : Nat) : List Nat → Run
  | [] => r
  | v :: t =>
    let r := dsts.foldl (fun (r : Run) d => match r.stop with
      | some _ => r
      | none => r.writeElem d.2 k v d.1) r
    match r.stop with
    | some _ => r
    | none => r.writeAll dsts (k + 1) t

/-- The scale byte of block `b` written to the side stream (10 R252). DESIGN CHOICE (log entry 122): the stream has no layout
record, and a fault there has SIDE 1 and HANDLE 0. -/
def Run.writeScale (off : Nat) (r : Run) (b e : Nat) : Run :=
  let hid := r.s.homeHid r.e
  r.writeBytes ⟨.loc hid, 0, ⟨11, 1, 0, [1], [1]⟩, 0⟩ 0 (off + b) [BitVec.ofNat 8 e]

/-- Unit `b` of a copy, elements `k` to `k + n - 1`: a block of mode 2, or one element, or the two that share a byte. -/
def Run.copyUnit (s0 : State) (mode scale : Nat) (src : Side) (dsts : List (Nat × Side)) (idx : Option (List Nat))
    (b k n : Nat) (r : Run) : Run :=
  let p := r.readSrcs s0 src idx k n
  match p.2.stop with
  | some _ => p.2
  | none =>
    let df := ((dsts.head?).map (fun d => d.2.lay.fmt)).getD 0
    let e := if mode == 2 then blockScale df src.lay.fmt p.1 else scale
    let vals := p.1.map (convMode r.e.fm mode df src.lay.fmt e)
    let q := if mode == 2 then p.2.probe dsts k n else p.2
    match q.stop with
    | some _ => q
    | none => q.together k (fun r =>
      let r := if mode == 2 then r.writeScale scale b e else r
      match r.stop with
      | some _ => r
      | none => r.writeAll dsts k vals)

/-- A copy performed from its first element not done. -/
def Run.copy (mode scale : Nat) (src : Side) (dsts : List (Nat × Side)) (idx : Option (List Nat)) (r : Run) : Run :=
  r.units (fun b k n x => x.copyUnit r.s mode scale src dsts idx b k n)

/-! ### Bytes for barriers -/

/-- How many numbers of a list stand in none of `seen` and are no repeats. -/
def countNew (seen : List Int) : List Int → Nat
  | [] => 0
  | x :: t => if seen.contains x then countNew seen t else 1 + countNew (x :: seen) t

/-- The bytes of elements `a` to `b - 1` of a record, as offsets from its base; one of a swizzled record may lie below the
lowest that R249 counts. -/
def Layout.bytesOf (l : Layout) (a b : Nat) : List Int :=
  (List.range (b - a)).flatMap (fun i =>
    (List.range ((l.bits + 7) / 8)).map (fun (j : Nat) => (l.offset (a + i)).1 + (j : Int)))

/-- Destination bytes first written by elements `a` to `b - 1` (10 R246: each byte is credited once). -/
def Layout.newBytes (l : Layout) (a b : Nat) : Nat := countNew (l.bytesOf 0 a) (l.bytesOf a b)

/-! ### Fault words (10 R256) -/

/-- Coordinates packed 24 bits each. -/
def packCoords (c : List Nat) : Nat := packElems 24 c

/-- The code of QUEUE for a queue key (10 R256). -/
def queueCode (k : Nat) : Nat :=
  if 100000 ≤ k then 8
  else match k % 32 with
    | 0 => 0 | 1 => 1 | 2 => 2 | 3 => 3 | 8 => 5 | 9 => 6 | 10 => 7 | _ => 4

/-- The fault word of a queued command. -/
def engineRec (code queue cause va : Nat) (dst : Bool) (handle dest : Nat) (coord : List Nat) (at_ : Nat) : FaultRec :=
  let c := packCoords coord
  ⟨BitVec.ofNat 64 (code + queue * 2 ^ 8 + cause * 2 ^ 12 + handle * 2 ^ 16 + b2n dst * 2 ^ 28 + dest * 2 ^ 29),
    BitVec.ofNat 64 va, BitVec.ofNat 64 c, BitVec.ofNat 64 (c / 2 ^ 64), BitVec.ofNat 64 at_, 0#64⟩

/-- COPY_FAULT (26 R435). -/
def codeCopyFault : Nat := 0x11
/-- VG_FORMAT. -/
def codeVgFormat : Nat := 0x0A

end Sys2Proof.Machine
end

