-- ==== Sys2Proof/Machine/Serve.lean ====
section
/-! DEFINITION. Serve.lean: the accesses of peers at their home on this device: checked against its own tables or through a page
that the peer's remote translation cache holds, performed in the order of their arrival, and answered (17 R344, R345; 25 R428,
R429). -/
namespace Sys2Proof.Machine

/-- The access kind of a remote access (17 R336). -/
def remoteAcc (k : RemoteKind) : Acc :=
  match k with
  | .read _ => .read
  | .write _ => .write
  | .atomic _ _ => .atomic
  | .cas _ _ _ => .atomic
  | .checkout => .block
  | .checkin _ _ => .block
  | .discard => .block
  | .hostOut => .block
  | .hostIn _ _ => .block
  | .hostDiscard => .block
  | .roundInc _ => .write

/-- The answer to an access: CAUSE and LEVEL or the bytes, the chip time at which it may go out (11 R286), and the page that the
access went to. -/
structure Served where
  fault : Option (Nat × Nat)
  bytes : List Byte
  due : Nat
  page : Option PageInfo
  s : State
  deriving DecidableEq, Repr

/-- An access done at once, with an answer. -/
def Served.ok (s : State) (b : List Byte) : Served := ⟨none, b, s.chipTime, none, s⟩

/-- An access that fails with CAUSE `c` at level `l`. -/
def Served.fail (s : State) (c l : Nat) : Served := ⟨some (c, l), [], s.chipTime, none, s⟩

/-! ### The page of an access -/

/-- The page of 64 KiB of `va` under leaf `l`, as a remote translation cache holds it (17 R345). -/
def Leaf.info (l : Leaf) (va : Nat) : PageInfo :=
  ⟨va / 65536, l.pa (va / 65536 * 65536), l.level, l.region, l.rnd, l.mrg, l.so, l.a, l.w, l.r⟩

/-- The leaf that a page of a remote translation cache stands for. -/
def leafFrom (i : PageInfo) : Leaf :=
  { va := i.page * 65536, size := 65536, frame := i.base, lease := 0, region := i.region, rnd := i.rnd, mrg := i.mrg, so := i.so,
    x := false, a := i.a, w := i.w, r := i.r, rem := false }

/-- The leaf of a peer's access at `va` in context `cn`, and its LEVEL: the page that the peer names, or a walk of this device's
own tables; CAUSE and LEVEL where the access fails (17 R344, R345). -/
def State.peerLeaf (s : State) (cn va : Nat) (kind : RemoteKind) (via : Option PageInfo) : Except (Nat × Nat) (Leaf × Nat) :=
  match KMap.look s.ctxs cn with
  | none => .error (0, 7)
  | some c =>
    let found : Except (Nat × Nat) (Leaf × Nat) := match via.filter (fun i => i.page == va / 65536) with
      | some i => .ok (leafFrom i, i.level)
      | none => match s.walkCtx c va with
        | .error e => .error e
        | .ok l => .ok (l, l.level)
    match found with
    | .error e => .error e
    | .ok (l, v) =>
      let valid := (KMap.look c.regions l.region).any (fun g => g.v)
      if !l.grants (remoteAcc kind) then .error (1, v)
      else if l.rem || (l.rounds && !valid) || (isRegSpace (l.pa va) && !l.so) then .error (6, v)
      else .ok (l, v)

/-! ### At the home -/

/-- The chip time at which a write of `n` bytes from `pa`, made now, is visible (11 R263). -/
def State.gwctOf (s : State) (pa n : Nat) : Nat := (linesOf pa n).foldl (fun t x => max t (s.gwct (x * 128))) s.chipTime

/-- Bytes written at their home for a peer: the answer waits for their completion time. -/
def State.peerWrite (s : State) (pa : Nat) (b ans : List Byte) : Served :=
  ⟨none, ans, s.gwctOf pa b.length, none, s.homeWrite none pa b⟩

/-- A twin made or joined for a peer (11 R284, 20 R374): the status, then the twin's bytes and the numbers of its poisoned
lines. -/
def State.peerCkout (s : State) (pa : Nat) : Served :=
  let blk := pa / 4096
  if (KMap.look s.twins blk).isNone && 8192 ≤ s.twins.length then .ok s [4#8]
  else
    let s := s.twinOf blk
    let t : Twin := (KMap.look s.twins blk).getD ⟨[], 0⟩
    let bad := (List.range 32).filter (fun k => s.poison.contains (twinLine (blk * 32 + k)))
    .ok ({ s with twins := KMap.put s.twins blk { t with outs := t.outs + 1 } }.unlease blk)
      (0#8 :: t.bytes.slice 0 4096 ++ bad.map (BitVec.ofNat 8))

/-- A working copy merged for a peer: the answer waits until the merge is visible (11 R285, R286). -/
def State.peerCkin (s : State) (pa : Nat) (b : List Byte) (bad : List Nat) : Served :=
  let r := s.merge (pa / 4096) (Regs.setSlice [] 0 b) bad
  ⟨none, [BitVec.ofNat 8 r.1], s.gwctBlock (pa / 4096), none, r.2⟩

/-- A peer's access in context `cn` through leaf `l` (17 R344, 25 R429); an atomic is acknowledged at its completion time, also
where nothing is written (11 R286). -/
def State.serveAt (s : State) (cn va : Nat) (l : Leaf) (kind : RemoteKind) : Served :=
  let pa := l.pa va
  let reg := isRegSpace pa
  let off := pa - Config.regBase
  let old (n : Nat) : List Byte := if reg then s.regBytes off n else s.memBytes pa n
  let bad (n : Nat) : Bool := !reg && s.poisoned pa n
  let put (b ans : List Byte) : Served := if reg then .ok (s.regPost 0 off b) ans else s.peerWrite pa b ans
  let poison : Served := .fail s 5 7
  match kind with
  | .read n => if bad n then poison else .ok s (old n)
  | .write b => put b []
  | .atomic sub x =>
    if bad 4 then poison
    else put (leBytes 4 (atomNew sub (BitVec.ofNat 32 (leNat (old 4))) x).toNat) (old 4)
  | .cas n cmp new =>
    if bad n then poison
    else if leNat (old n) == cmp.toNat % 2 ^ (8 * n) then put (leBytes n new.toNat) (old n)
    else { Served.ok s (old n) with due := if reg then s.chipTime else s.gwctOf pa n }
  | .checkout => if !l.mrg || l.so then .ok s [2#8] else s.peerCkout pa
  | .checkin b bad => if l.so then .ok s [2#8] else s.peerCkin pa b bad
  | .discard => .ok (s.lessTwin (pa / 4096)) []
  | .hostOut => s.peerCkout pa
  | .hostIn b bad => s.peerCkin pa b bad
  | .hostDiscard => .ok (s.lessTwin (pa / 4096)) []
  | .roundInc region =>
    let k := cn * 256 + region
    .ok { s with incs := KMap.put s.incs k ((KMap.look s.incs k).getD [] ++ [⟨none, 0, false⟩]) } []

/-- Whether this device may be the merge agent of the block of `pa`: it is host memory, or has a twin, made for a context that
has left (20 R373, R375). -/
def State.agentHere (s : State) (pa : Nat) : Bool :=
  (!isDevice pa && !isRegSpace pa) || (KMap.look s.twins (pa / 4096)).isSome

/-- Whether an access names its block by its physical address. -/
def namesBlock (kind : RemoteKind) : Bool :=
  match kind with
  | .hostOut => true
  | .hostIn _ _ => true
  | .hostDiscard => true
  | _ => false

/-- A leaf of an access that names a physical address. -/
def leafPhys (pa : Nat) : Leaf := leafFrom ⟨pa / 65536, pa / 65536 * 65536, 7, 0, false, true, false, true, true, true⟩

/-- Where a peer's access goes, and its LEVEL (17 R344, 20 R373). -/
def State.peerPlace (s : State) (cn va : Nat) (kind : RemoteKind) (via : Option PageInfo) : Except (Nat × Nat) (Leaf × Nat) :=
  if namesBlock kind then (if s.agentHere va then .ok (leafPhys va, 7) else .error (6, 7)) else s.peerLeaf cn va kind via

/-- A peer's access checked and performed; the answer names the page (17 R344, R345). -/
def State.serve (s : State) (cn va : Nat) (kind : RemoteKind) (via : Option PageInfo) : Served :=
  match s.peerPlace cn va kind via with
  | .error e => .fail s e.1 e.2
  | .ok (l, v) => { s.serveAt cn va l kind with
      page := if namesBlock kind then none else some { l.info va with level := v } }

/-- The line at which a peer's access waits: the host has been asked for it, or may hold it and is asked now, or an increment of
the counter that it writes is in progress (11 R260; 20 R369; 25 R425). -/
def State.peerStop (s : State) (cn va : Nat) (kind : RemoteKind) (via : Option PageInfo) : Option Nat :=
  match s.peerPlace cn va kind via with
  | .error _ => none
  | .ok (l, _) =>
    let pa := l.pa va
    let blk := pa / 4096
    let lines := (List.range 32).map (fun k => blk * 32 + k)
    let stop (n : Nat) : Option Nat := if s.hostHas pa n || s.homeBusy pa || s.incAt pa n then some (pa / 128) else none
    let out : Option Nat := lines.find? (fun x => s.backInv.contains x)
    let into (b : List Byte) : Option Nat :=
      if s.mergeWaits blk (Regs.setSlice [] 0 b) then
        some ((lines.find? (fun x => s.hostHas (x * 128) 128 || s.homeBusy (x * 128) || s.incAt (x * 128) 128)).getD (pa / 128))
      else none
    if isRegSpace pa then none
    else match kind with
      | .read _ => if s.homeBusy pa then some (pa / 128) else none
      | .write b => if b.isEmpty then none else stop b.length
      | .atomic _ _ => stop 4
      | .cas n _ _ => stop n
      | .checkout => out
      | .hostOut => out
      | .checkin b _ => into b
      | .hostIn b _ => into b
      | .discard => none
      | .hostDiscard => none
      | .roundInc _ => none

/-- What this device remembers of a peer's writes for the reconnection handshake: the last one performed, the results of the
last 512 atomics, and the last 512 writes (17 R346). -/
def State.remember (s : State) (peer seq cn va : Nat) (kind : RemoteKind) (ans : List Byte) : State :=
  let p := s.peerOf peer
  let res := match kind with
    | .atomic _ _ => (p.performed ++ [(seq, (BitVec.ofNat 64 (leNat ans) : DWord))])
    | .cas _ _ _ => (p.performed ++ [(seq, (BitVec.ofNat 64 (leNat ans) : DWord))])
    | _ => p.performed
  let wrote := p.wrote ++ [(cn, va)]
  if remoteWrites kind then
    { s with peers := KMap.put s.peers peer { p with
        lastSeq := max p.lastSeq seq, performed := res.drop (res.length - 512), wrote := wrote.drop (wrote.length - 512) } }
  else s

/-- A peer's access performs, and is answered, a write once it is visible (11 R286). -/
def State.performAsked (s : State) (port peer seq gen cn va : Nat) (kind : RemoteKind) (via : Option PageInfo) : State :=
  let r := s.serve cn va kind via
  let s := if r.fault.isNone then r.s.remember peer seq cn va kind r.bytes else r.s
  s.send r.due (.frame port (.answer peer seq gen r.fault r.bytes r.page))

/-- Under this number and above, an entry of `waits` is a peer's access: the peer, and the number of the access. -/
def askedBase : Nat := 2 ^ 64

/-- A request of a peer at its home: one of an older generation is discarded; one that must wait there does so in the order of
arrival, and the host is asked for the line (11 R260; 17 R346; 25 R425). -/
def State.request (s : State) (port peer seq gen cn va : Nat) (kind : RemoteKind) (via : Option PageInfo) : State :=
  let x : Nat × FabricMsg := (port, .request peer seq gen cn (BitVec.ofNat 64 va) kind via)
  if gen < (s.peerOf peer).gen.toNat then s
  else match s.peerStop cn va kind via with
    | some line =>
      let s := if remoteWrites kind then s.snoop (line * 128) 128 else s
      let s := if s.asked.contains x then s else { s with asked := s.asked ++ [x] }
      s.waitAt line (askedBase + peer) seq
    | none =>
      { s with
        asked := s.asked.filter (fun y => y != x)
        waits := s.waits.filter (fun w => !(w.2.1 == askedBase + peer && w.2.2 == seq)) }.performAsked port peer seq gen cn va kind via

/-- The access `seq` of a peer, which waits, tries again. -/
def State.retryAsked (s : State) (peer seq : Nat) : State :=
  let it (x : Nat × FabricMsg) : Bool := match x.2 with
    | .request p n _ _ _ _ _ => p == peer && n == seq
    | _ => false
  match s.asked.find? it with
  | some (port, .request p n gen cn va kind via) => s.request port p n gen cn va.toNat kind via
  | _ => s

end Sys2Proof.Machine
end

