-- ==== Sys2Proof/Machine/Sync.lean ====
section
/-! DEFINITION. Sync.lean: barriers and waits (05 R136 to R143; 10 R244, R245). -/
namespace Sys2Proof.Machine

/-- A form that releases the group's earlier accesses at team scope: it stalls while one of them has not performed, also at
a peer (05 R131, 11 R272). -/
def releaseOp (i : Instr) (f : YFmt) (s : State) (body : Nat → Group → Half → State → Ans) : Res :=
  lane i f.hd s (fun gid g s =>
    match KMap.look s.halves g.hid with
    | none => .gone s
    | some h => if !g.released then .gone (s.blockG gid f.hd .issue) else body gid g h s)

/-- The fence that a form contains has ended: a later access of the group races none of the stores before it (11 R266,
R274). -/
def State.endRaces (s : State) (gid : Nat) : State := s.updG gid (fun g => { g with recent := [] })

/-- BAR (05 R139). -/
def execBar (f : YFmt) (s : State) : Res :=
  releaseOp (.bar f) f s (fun gid g _ s =>
    .gone ((((s.endRaces gid).blockG gid f.hd .bar).updH g.hid (fun h => { h with bar := h.bar ++ [gid] })).barCheck g.hid))

/-- BARM (05 R140): the first arrival records the mask, a differing one is MASK_MISMATCH in every group of the
episode. -/
def execBarm (f : YFmt) (s : State) : Res :=
  releaseOp (.barm f) f s (fun gid g h s =>
    let m := (g.rg s.stamp f.a).toNat
    let ep := f.imm.toNat % 4
    let count := ((s.lrOf h).map (fun r => r.groups)).getD 0
    if 65536 ≤ m || !bitOf m g.idx || m / 2 ^ count != 0 then illegal (.barm f) g 6
    else
      let b := (s.endRaces gid).blockG gid f.hd (.barm ep m)
      match KMap.look h.barm ep with
      | none =>
        .gone ((b.updH g.hid (fun h => { h with barm := KMap.put h.barm ep (m, [gid]) })).barmCheck g.hid)
      | some (m0, l) =>
        if m0 == m then
          .gone ((b.updH g.hid (fun h => { h with barm := KMap.put h.barm ep (m, l ++ [gid]) })).barmCheck g.hid)
        else
          let w1 : DWord := BitVec.ofNat 64 (m0 + m * 2 ^ 16 + ep * 2 ^ 32)
          let todo (x : Nat) : Option Todo := (KMap.look b.groups x).map (fun y => ⟨x, trapRec 3 0 w1 0#64 0#64 y.pc, []⟩)
          .gone (withTraps (b.updH g.hid (fun h => { h with barm := KMap.del h.barm ep }),
            (l ++ [gid]).filterMap todo)))

/-- The place of a barrier object: aligned to 8, in the team's scratchpad or the pair space (05 R136). -/
def State.objPlace (s : State) (hid : Nat) (x : Word) : Option LPlace :=
  if x.toNat % 8 != 0 then none
  else match s.localPlace hid x.toNat 8 with
    | some p => if p.tob then none else some p
    | none => none

/-- BARINIT (05 R137). -/
def execBarinit (f : YFmt) (s : State) : Res :=
  lane (.barinit f) f.hd s (fun _ g s =>
    let e := (g.rg s.stamp f.a).toNat
    match s.objPlace g.hid (g.rg s.stamp f.d) with
    | none => illegal (.barinit f) g 6
    | some p =>
      if e == 0 || 4095 < e then illegal (.barinit f) g 6
      else if !((s.settle p 8 none).waiters p).isEmpty then illegal (.barinit f) g 7
      else .ok ((s.settle p 8 none).setBar p ⟨e, 0, false, g.rg s.stamp f.b, 0⟩) [])

/-- ARRIVE (05 R137): checked against the object after the arrivals issued before it, the phase to gB at once; its arrivals
and bytes are on their way to the barrier unit, which may apply copy credits before them (15 R315, R319; log entry 94). For an
object in the partner core the release is at pair scope: the pair's stores are acknowledged first (05 R131). -/
def execArrive (f : YFmt) (s : State) : Res :=
  releaseOp (.arrive f) f s (fun gid g _ s =>
    match s.objPlace g.hid (g.rg s.stamp f.d) with
    | none => illegal (.arrive f) g 6
    | some p =>
      let s0 := s
      let s := s.settle p 8 none
      let o := s.barObj p
      if o.expected == 0 || o.reserved != 0 then illegal (.arrive f) g 7
      else if o.expected < o.current + f.imm.toNat then illegal (.arrive f) g 6
      else if p.hid != g.hid && g.wc.get 2 != 0#8 then .gone (s0.blockG gid f.hd .issue)
      else
        let s := if p.hid == g.hid then s else s.releaseAt (s.coreOf g) 4
        let add := if f.sub == 1#4 then g.rg s.stamp f.a else 0#32
        let s := s.updG gid (fun x =>
          { (x.finish f.hd.s (g.pc + 8#64) []).wrNow (wG f.b (BitVec.ofNat 32 (b2n o.phase))) with recent := [] })
        .gone { s with arrivals := s.arrivals ++ [⟨p.hid, p.off, f.imm.toNat, add, gid⟩] })

/-- WAITB (05 R138). -/
def execWaitb (f : YFmt) (s : State) : Res :=
  lane (.waitb f) f.hd s (fun gid g s =>
    match s.objPlace g.hid (g.rg s.stamp f.d) with
    | none => illegal (.waitb f) g 6
    | some p =>
      let par := (g.rg s.stamp f.a).getLsbD 0
      if (s.barObj p).phase != par then .ok (s.acquirePhase gid) []
      else .gone (s.blockG gid f.hd (.waitb p.hid p.off par)))

/-- TRYW: the phase checked for at most 1024 ticks (05 R138). -/
def execTryw (f : YFmt) (s : State) : Res :=
  lane (.tryw f) f.hd s (fun gid g s =>
    match s.objPlace g.hid (g.rg s.stamp f.d) with
    | none => illegal (.tryw f) g 6
    | some p =>
      let par := (g.rg s.stamp f.a).getLsbD 0
      if (s.barObj p).phase != par then
        .gone ((s.acquirePhase gid).updG gid (fun x => (x.finish f.hd.s (g.pc + 8#64) []).setPred f.b.toNat true))
      else .gone (s.blockG gid f.hd (.tryw p.hid p.off par f.b.toNat (s.chipTime + 1024))))

/-- TRYW_TIMEOUT: the window ends and the result is false (05 R138). -/
def execTrywTimeout (gid : Nat) (s : State) : Res :=
  match KMap.look s.groups gid with
  | none => .fault (.noAgent "group")
  | some g =>
    match g.sched with
    | .blocked (.tryw _ _ _ kd t) =>
      if t ≤ s.chipTime then .next (s.updG gid (fun x => (x.setPred kd false).complete))
      else .fault (.notEnabled "tryw window")
    | _ => .fault (.notEnabled "tryw")

/-- WAITC (05 R141). -/
def execWaitc (f : YFmt) (s : State) : Res :=
  lane (.waitc f) f.hd s (fun gid g s =>
    let c := f.imm.toNat
    let thr := (g.rg s.stamp f.a).toNat
    if (g.wc.get c).toNat ≤ thr then .ok s []
    else .gone (s.updG gid (fun x =>
      { (x.finish f.hd.s (g.pc + 8#64) []) with sched := .counter c thr, mark := f.hd.s })))

/-- The copies of a channel that have not left it, in its queue or in the time-sorted buffer; a fence entry is none
(05 R142). -/
def State.channelIds (s : State) (core ch : Nat) : List Nat :=
  let copy (e : QEnt) : Bool := match e.cmd with | .qfence _ _ => false | _ => true
  ((s.queue (qkey core ch)).filter copy).map (fun e => e.id) ++
    (((KMap.look s.timed core).getD []).filter (fun e => e.1 == ch)).map (fun e => e.2.id)

/-- Whether commands have completed and are visible at a scope (05 R142). -/
def State.drained (s : State) (scope : Nat) (ids : List Nat) : Bool :=
  ids.all (fun i => !s.entries.any (fun e => e.id == i) &&
    (scope < 4 || s.visible.all (fun v => v.id != i || v.gwct.toNat ≤ s.chipTime)))

/-- DRAIN (05 R142). -/
def execDrain (f : YFmt) (s : State) : Res :=
  lane (.drain f) f.hd s (fun gid g s =>
    let core := s.coreOf g
    let ch := f.imm.toNat / 16 % 4
    let sc := f.imm.toNat % 16
    let ids := s.channelIds core ch ++ (s.visible.filter (fun v => v.core == core && v.channel == ch)).map (fun v => v.id)
    if s.drained sc ids then .ok (s.acquireAt core sc) [] else .gone (s.blockG gid f.hd (.drain sc ids)))

/-- The drains whose commands are visible complete. -/
def State.drainCheck (s : State) : State :=
  s.groups.foldl (fun s e => match e.2.sched with
    | .blocked (.drain sc ids) =>
      if s.drained sc ids then (s.acquireAt (s.coreOf e.2) sc).updG e.1 Group.completeWait else s
    | _ => s) s

/-- TRIGGER: a fence at device scope, then the group has triggered (05 R143). -/
def execTrigger (f : YFmt) (s : State) : Res :=
  lane (.trigger f) f.hd s (fun gid _ s => .ok (s.issueFence gid 6 .trigger) [])

/-- Whether every predecessor of a launch has completed. -/
def State.predsDone (s : State) (lid : Nat) : Bool :=
  match KMap.look s.launches lid with
  | none => true
  | some l => !l.early || l.preds.all (fun p => match KMap.look s.launches p with
    | some x => x.complete
    | none => true)

/-- WAITPRED (05 R143). -/
def execWaitpred (f : YFmt) (s : State) : Res :=
  lane (.waitpred f) f.hd s (fun gid g s =>
    let lid := ((KMap.look s.halves g.hid).map (fun h => h.launch)).getD 0
    if s.predsDone lid then .ok (s.acquireAt (s.coreOf g) 6) [] else .gone (s.blockG gid f.hd .waitpred))

/-- The groups that wait for predecessors which are all complete go on. -/
def State.predCheck (s : State) : State :=
  s.groups.foldl (fun s e => match e.2.sched with
    | .blocked .waitpred =>
      if s.predsDone (((KMap.look s.halves e.2.hid).map (fun h => h.launch)).getD 0) then
        (s.acquireAt (s.coreOf e.2) 6).updG e.1 Group.completeWait
      else s
    | _ => s) s

/-! ### Landing and time -/

/-- What landed results let a group do: a counter wait or a marker ends (03 R72, 05 R141). -/
def Group.unpark (g : Group) : Group :=
  match g.sched with
  | .counter c thr => if (g.wc.get c).toNat ≤ thr then g.wake else g
  | .marker => if g.covered then g else { g with sched := .ready, mark := false }
  | _ => g

/-- Whether result `idx` of a group may land now: it has performed, and no earlier one of its counter, or none that wrote
a common register, is outstanding (01 R23, 03 R73). -/
def Group.canLand (g : Group) (now idx : Nat) : Bool :=
  match g.landings[idx]? with
  | none => false
  | some l =>
    l.wait.isNone && l.due ≤ now && (g.landings.take idx).all (fun e =>
      !(l.path.isSome && e.path == l.path) && !(l.olds.any (fun p => e.wrote p.1 || e.keys.contains p.1)))

/-- Result `idx` lands: its counter falls by one (01 R23). -/
def Group.land (g : Group) (idx : Nat) : Group :=
  match g.landings[idx]? with
  | none => g
  | some l =>
    let g := { g with landings := g.landings.eraseIdx idx }
    (match l.path with
      | some c => { g with wc := g.wc.set c (g.wc.get c - 1#8) }
      | none => g).unpark

/-- After results have landed: fences below die scope, a gate that waits, a release of the team's resources. -/
def State.afterLand (s : State) (gid : Nat) : State :=
  match KMap.look s.groups gid with
  | none => s
  | some g => withTraps (((s.endFences gid false).gateCheck g.hid).1.tryRelease g.hid,
      ((s.endFences gid false).gateCheck g.hid).2)

/-- The accesses that wait at a place perform now, in the order of their arrival there, as far as they can (11 R260, R276). -/
def State.retryAt (s : State) (place : Nat) : State :=
  (s.waits.filter (fun w => w.1 == place)).foldl (fun s w =>
    if askedBase ≤ w.2.1 then s.retryAsked (w.2.1 - askedBase) w.2.2
    else (s.retryOne w.2.1 w.2.2).afterLand w.2.1) s

/-- The oldest arrival on its way to the object at `off` of half `hid` reaches it (05 R137). -/
def State.arrivalTurn (s : State) (hid off : Nat) : Res :=
  match s.arrivals.find? (fun a => a.hid == hid && a.off == off) with
  | none => .fault (.notEnabled "arrival")
  | some a => .next ((s.applyArrival a).lochCredit.afterLand a.gid)

/-- RESULT_LANDS (01 R23, 03 R73). -/
def execResultLands (gid idx : Nat) (s : State) : Res :=
  match KMap.look s.groups gid with
  | none => .fault (.noAgent "group")
  | some g =>
    if !g.canLand s.chipTime idx then .fault (.notEnabled "result")
    else .next ((s.updG gid (fun x => x.land idx)).afterLand gid)

/-- GWCT_RETURN: the oldest store returns its completion time, and `gw` rises to it (01 R24, 11 R263). -/
def execGwctReturn (gid : Nat) (s : State) : Res :=
  match KMap.look s.groups gid with
  | none => .fault (.noAgent "group")
  | some g =>
    match g.gwPend with
    | [] => .fault (.notEnabled "store")
    | t :: rest =>
      .next ((s.updG gid (fun x => { x with gwPend := rest, gw := if x.gw.ult t then t else x.gw })).afterLand gid)

/-- CHIP_TIME_REACHES_GW: a fence at die scope or wider ends, and a `drain` whose copies are now visible (05 R131,
R142). -/
def execChipTimeReachesGw (gid : Nat) (s : State) : Res :=
  match KMap.look s.groups gid with
  | none => .fault (.noAgent "group")
  | some g =>
    let ends := g.fences.head?.any (fun f => s.fenceDone gid g f.scope f.act.own) ||
      (match g.sched with
        | .blocked (.drain sc ids) => s.drained sc ids
        | _ => false)
    if ends then .next ((s.endFences gid true).drainCheck.afterLand gid) else .fault (.notEnabled "fence")

/-- WATCHDOG (09 R224): `watch` has reached the limit, and the group traps before its next instruction. -/
def execWatchdog (gid : Nat) (s : State) : Res :=
  match KMap.look s.groups gid with
  | none => .fault (.noAgent "group")
  | some g =>
    let lim := (((KMap.look s.halves g.hid).bind s.lrOf).map (fun r => if r.wdog == 0 then 2 ^ 24 else 2 ^ r.wdog)).getD 0
    if g.sched == .ready && !g.stopped && lim ≤ g.watch.toNat then
      .next (s.trapNow gid (trapRec 5 0 (BitVec.ofNat 64 lim) (g.watch.setWidth 64) 0#64 g.pc) [])
    else .fault (.notEnabled "watchdog")

/-! ### Rounds (05 R125; 20 R369 to R371) -/

/-- The lanes of a group's `.st` loads that wait for a copy of their line, in the order of the loads (05 R125). -/
def Group.lateLanes (g : Group) : List (HeldI × Nat) :=
  if g.fault.isSome then []
  else g.held.flatMap (fun h =>
    ((List.range 64).filter (fun j => h.lanes.getLsbD j && !h.lost.getLsbD j && (KMap.look h.kr j).isSome)).map
      (fun j => (h, j)))

/-- Whether the slice may answer a waiting lane: its region's stall timeout has not elapsed, and no increment of the region is
in progress there (20 R371). -/
def State.mayAnswer (s : State) (g : Group) (h : HeldI) (j : Nat) : Bool :=
  !s.expired g h j && !(s.laneRegion g h j).any (fun x => s.incBegun (s.ctxOf g * 256 + x.1))

/-- ROUND_STALL: the stall timeout of a lane of a waiting `.st` load has elapsed (05 R125, 20 R371). -/
def execRoundStall (gid : Nat) (s : State) : Res :=
  match KMap.look s.groups gid with
  | none => .fault (.noAgent "group")
  | some g =>
    match g.lateLanes.find? (fun x => s.expired g x.1 x.2) with
    | none => .fault (.notEnabled "stall timeout")
    | some (h, j) =>
      let upd (x : HeldI) : HeldI := if x.id == h.id then { x with bad := none, lost := 0#64 } else x
      .next ((s.updG gid (fun g => { g with held := g.held.map upd })).parkFault gid
        (transRec 0x12 0 7 .read false (h.va.get j).toNat h.pc h.lanes))

/-- ROUND_FETCH_ANSWER: a slice answers one waiting lane of a `.st` load (20 R371). -/
def execRoundFetchAnswer (gid : Nat) (s : State) : Res :=
  match KMap.look s.groups gid with
  | none => .fault (.noAgent "group")
  | some g =>
    let l := g.lateLanes.filter (fun x => s.mayAnswer g x.1 x.2)
    match l[Config.pick s.stamp l.length % l.length]? with
    | none => .fault (.notEnabled "ldb")
    | some (h, j) => .next ((s.performHeld gid h.id (1#64 <<< j)).afterLand gid)

/-- ROUND_BROADCAST: a new round reaches a core: its known round rises, and copies tagged 2^30 or more below it go
(20 R370, R372). -/
def execRoundBroadcast (core cn region : Nat) (s : State) : Res :=
  match s.bcasts.find? (fun b => b.core == core && b.ctx == cn && b.region == region) with
  | none => .fault (.notEnabled "broadcast")
  | some b =>
    let v := b.round
    let s1 := { s with
      bcasts := s.bcasts.erase b
      l1 := s.l1.filter (fun c => !(c.core == core && (match c.tag with
        | .round t x y => x == cn && y == region && geSigned v t && 2 ^ 30 ≤ (v - t).toNat
        | .lease _ => false))) }
    .next (s1.raiseKr core cn region v)

end Sys2Proof.Machine
end

