-- ==== Sys2Proof/Machine/Copy.lean ====
section
/-! DEFINITION. Copy.lean: the lane side of Clove: layout records under handles (05 R147, 10 R247 to R249), the checks of a
copy command (05 R145), and its issue into a channel or the time-sorted buffer (05 R144, R146; 10 R250). -/
namespace Sys2Proof.Machine

/-! ### Layout records -/

/-- The signed value of 8 little-endian bytes. -/
def leInt (b : List Byte) : Int := (BitVec.ofNat 64 (leNat b)).toInt

/-- Bytes `k` to `k + n - 1` of an image. -/
def sub (b : List Byte) (k n : Nat) : List Byte := (b.drop k).take n

/-- The record of a 64-byte image (10 R247). -/
def layoutOf (b : List Byte) : Layout :=
  let h := leNat (sub b 0 4)
  ⟨bitsOf h 3 0, bitsOf h 6 4, bitsOf h 8 7, (List.range 5).map (fun j => leNat (sub b (4 + 4 * j) 4)),
    (List.range 5).map (fun j => leInt (sub b (24 + 8 * j) 8))⟩

/-- Bytes of a row of a record, dimension 0 (10 R248). -/
def Layout.rowBytes (l : Layout) : Nat := nthD l.size 0 0 * l.bits / 8

/-- Whether a record and its HDR break a rule of 10 R248 under an allocation of `len` bytes. -/
def Layout.bad (l : Layout) (hdr len : Nat) : Bool :=
  let sz (j : Nat) := nthD l.size j 0
  let st (j : Nat) := nthD l.stride j 0
  let elt : Int := if l.nib then 0 else ((l.bits / 8 : Nat) : Int)
  14 ≤ l.fmt || l.ndim == 0 || 5 < l.ndim || bitsOf hdr 31 9 != 0 || 2 ≤ l.tord ||
  (List.range 5).any (fun j =>
    (if j < l.ndim then sz j == 0 || 2 ^ 24 < sz j else sz j != 0 || st j != 0) || 2 ^ 48 ≤ (st j).natAbs) ||
  (l.nib && (st 0 != 0 || sz 0 % 2 == 1)) ||
  (l.tord == 1 && (l.ndim < 2 || st 0 != elt || l.rowBytes % 128 != 0 || st 1 % 128 != 0)) ||
  (len : Int) < l.extent.2 - l.extent.1

/-- What a read that the device makes for a group comes to: bytes, a fault with CAUSE, LEVEL and whether a peer raised it,
poison, or a wait for a peer. -/
inductive ReadAns where
  | bytes (b : List Byte)
  | fault (code cause level : Nat) (remote : Bool) (w2 : DWord)
  | poison
  | wait
  deriving DecidableEq, Repr

/-- The number by which a peer's answers to a group's image reads are filed. -/
def groupHold (gid : Nat) : Nat := 2 ^ 60 + gid

/-- An image of `n` words behind a window: each word is asked for, and when all the answers are there they are its bytes
(25 R429). -/
def State.remoteImage (s : State) (gid : Nat) (g : Group) (l : Leaf) (va n : Nat) : ReadAns × State :=
  let bytes := (List.range n).flatMap (fun i => leBytes 8 ((KMap.look g.rem (va + 8 * i)).getD 0#64).toNat)
  match KMap.look g.rem (2 ^ 62) with
  | some w => (.fault (w.toNat % 256) (w.toNat / 256 % 256) (w.toNat / 65536 % 256) true
      ((KMap.look g.rem (2 ^ 62 + 1)).getD 0#64), s.updG gid (fun g => { g with rem := [] }))
  | none =>
    if (List.range n).all (fun i => (KMap.look g.rem (va + 8 * i)).isSome) then
      (.bytes bytes, s.updG gid (fun g => { g with rem := [] }))
    else if s.remote.any (fun a => a.gid.isNone && a.hold == groupHold gid) ||
        !(s.queue (qkey (s.coreOf g) 10)).isEmpty then (.wait, s)
    else
      let ask (r : ReadAns × State) (i : Nat) : ReadAns × State := match r.1 with
        | .wait => match r.2.remoteSend (s.ctxOf g) none (groupHold gid) (va + 8 * i) l (va + 8 * i) (.read 8) with
          | .ok s => (.wait, s)
          | .error (.fail code c lv rm w2) => (.fault code c lv rm w2, s)
          | .error _ => (.wait, s)
        | _ => r
      (List.range n).foldl ask (.wait, s)

/-- `8 * n` bytes that the device reads for a group at `va`, in one line (05 R147). -/
def State.readFor (s : State) (gid : Nat) (g : Group) (va n : Nat) : ReadAns × State :=
  let b := 8 * n
  if isLocal va then
    match s.localPlace g.hid (va - Config.localBase) b with
    | none => (.fault 0x10 causeLocal 7 false 0#64, s)
    | some p => if s.locPoisoned p b then (.poison, s) else (.bytes (s.locBytes p b), s)
  else
    let r := s.translate (s.coreOf g) (s.ctxOf g) va .read
    match r.1 with
    | .error e => (.fault 0x10 e.1 e.2 false 0#64, r.2)
    | .ok l =>
      let l := r.2.workLeaf (s.ctxOf g) 6 va l
      let pa := l.pa va
      if l.rem then r.2.remoteImage gid g l va n
      else if isRegSpace pa then
        (if l.so then .bytes (r.2.regBytes (pa - Config.regBase) b) else .fault 0x10 6 l.level false 0#64, r.2)
      else if r.2.poisonAt (s.ctxOf g) 6 pa b then (.poison, r.2)
      else
        let x := r.2.loadLine (s.coreOf g) (s.ctxOf g) 6 0 false l pa b
        (match x.1 with | some v => .bytes v | none => .wait, x.2)

/-- LAYOUT_RANGE (26 R436). -/
def layoutRange (cause : Nat) (w1 w2 at_ : DWord) : FaultRec := trapRec 8 cause w1 w2 0#64 at_

/-- MKLAY (05 R147): the image read and checked, and the lowest free handle taken; gD receives it before the next
instruction (03 R72). The group waits while a peer answers, and behind its own fences and earlier stores to the image that have
not performed (05 R131, R147). DESIGN CHOICE (log entry 93): an image address that is no multiple
of 64 raises ILLEGAL CAUSE 6. -/
def execMklay (f : YFmt) (s : State) : Res :=
  lane (.mklay f) f.hd s (fun gid g s =>
    let give (s : State) (x : Word) : Ans :=
      .gone (s.updG gid (fun y => (y.finish f.hd.s (g.pc + 8#64) []).wrNow (wG f.d x)))
    let va := g.rgPair s.stamp f.a
    let base := g.rgPair s.stamp f.b
    let len := (g.rgPair s.stamp (f.b + 2#8)).toNat
    if va.toNat % 64 != 0 then illegal (.mklay f) g 6
    else if s.memStalls g 0 64 [va.toNat] then .gone (s.blockG gid f.hd .issue)
    else
      let r := s.readFor gid g va.toNat 8
      match r.1 with
      | .poison => .gone (r.2.groupFatal gid 0x30 g.pc)
      | .fault code c lv rm w2 =>
        .gone (r.2.parkFault gid { transRec code c lv .read rm va.toNat g.pc g.em with w2 := w2 })
      | .wait => .gone (r.2.blockG gid f.hd .issue)
      | .bytes b =>
        let l := layoutOf b
        if l.bad (leNat (sub b 0 4)) len then .trap (layoutRange 0 va (BitVec.allOnes 64) g.pc)
        else
          let cn := s.ctxOf g
          let taken := ((KMap.look s.ctxs cn).map (fun c => c.layouts)).getD []
          let k := KMap.freeKey taken 4096 0
          if 4096 ≤ k then give r.2 0xFFFFFFFF#32
          else
            give (r.2.updC cn (fun c => { c with layouts := KMap.put c.layouts k ⟨l, base.toNat, len⟩ })) (BitVec.ofNat 32 k))

/-- The layout record under a handle of a context. -/
def State.layout (s : State) (cn k : Nat) : Option LayHandle :=
  (KMap.look s.ctxs cn).bind (fun c => KMap.look c.layouts k)

/-- RMLAY (05 R147). -/
def execRmlay (f : YFmt) (s : State) : Res :=
  lane (.rmlay f) f.hd s (fun _ g s =>
    let k := (g.rg s.stamp f.a).toNat
    let cn := s.ctxOf g
    match s.layout cn k with
    | none => illegal (.rmlay f) g 7
    | some _ => .ok (s.updC cn (fun c => { c with layouts := KMap.del c.layouts k })) [])

/-! ### Checks of a copy (05 R145) -/

/-- What a failed check of a copy raises: ILLEGAL with its CAUSE, LAYOUT_RANGE with base and handle, COPY_TIME with the
issue time. -/
inductive CopyBad where
  | illegal (cause : Nat)
  | range (base handle : Nat)
  | late (time : DWord)
  deriving DecidableEq, Repr

/-- Whether a conversion narrows (10 R252). -/
def narrows (src dst : Nat) : Bool := src ≤ 2 && ((3 ≤ dst && dst ≤ 5) || (10 ≤ dst && dst ≤ 13))

/-- Whether the element counts of a copy's layouts agree; `blocks` is the number of indices of a `cpyx` (05 R145). -/
def countsOk (src dst : Layout) (blocks : Option Nat) : Bool :=
  match blocks with
  | none => src.count == dst.count
  | some n => src.block == dst.block && n ≤ dst.outer

/-- The checks of a copy after its reserved fields and handles, in the order of 05 R145: the pair of formats, the counts,
the mask (its bits, and whether one names no team), the bases, and the issue time. DESIGN CHOICE (log entry 92): where both
bases fail, the fault word reports the source. -/
def copyBad (now : Nat) (mode : Nat) (src dst : LayHandle) (hs hd sb db : Nat) (blocks : Option Nat)
    (mask : Option (Nat × Bool)) (time : DWord) : Option CopyBad :=
  if mode != 0 && !narrows src.lay.fmt dst.lay.fmt then some (.illegal 6)
  else if !countsOk src.lay dst.lay blocks then some (.illegal 6)
  else if (match mask with | some (m, _) => m == 0 | none => false) then some (.illegal 6)
  else if (match mask with | some (_, absent) => absent | none => false) then some (.illegal 7)
  else if !src.fits sb then some (.range sb hs)
  else if !dst.fits db then some (.range db hd)
  else if now + 2 ^ 32 < time.toNat then some (.late time)
  else none

/-- Whether a team is still in its gang: some group of it has not exited (09 R218). -/
def State.teamLive (s : State) (h : Half) : Bool := !((s.teamHids h).flatMap s.liveGids).isEmpty

/-- The half at mask bit `b` of the gang of half `h` (05 R144, 22 R401, R402). -/
def State.gangHalf (s : State) (h : Half) (b : Nat) : Option Nat :=
  let gang := max 1 (((s.lrOf h).map (fun r => r.gang)).getD 1)
  (s.halves.find? (fun e =>
    e.2.launch == h.launch && e.2.team / gang == h.team / gang && e.2.core == h.core / 2 * 2 + b / 4 &&
      e.2.quarter == b % 4 && !e.2.released && s.teamLive e.2)).map (fun e => e.1)

/-- The destinations that a multicast mask names: their bits and halves, and whether a bit names none. -/
def State.gangDsts (s : State) (h : Half) (mask : Nat) : List (Nat × Nat) × Bool :=
  let bits := (List.range 8).filter (fun b => bitOf mask b)
  (bits.filterMap (fun b => (s.gangHalf h b).map (fun x => (b, x))), bits.any (fun b => (s.gangHalf h b).isNone))

/-! ### Issue -/

/-- Whether a command has to wait for room: 512 commands of the core's Clove, or 64 in its time-sorted buffer
(10 R250). -/
def State.copyFull (s : State) (core : Nat) (time : DWord) : Bool :=
  512 ≤ s.cloveCount core || (s.chipTime < time.toNat && 64 ≤ ((KMap.look s.timed core).getD []).length)

/-- A command entered into its channel, or into the time-sorted buffer until its issue time (10 R250). -/
def State.enterCopy (s : State) (core ch : Nat) (e : QEnt) : State :=
  if s.chipTime < e.time.toNat then
    { s with timed := KMap.put s.timed core (((KMap.look s.timed core).getD []) ++ [(ch, e)]), nextId := s.nextId + 1 }
  else { s.pushQ (qkey core ch) e with nextId := s.nextId + 1 }

/-- A new entry with number `nextId`. -/
def State.newEnt (s : State) (cn launch : Nat) (who : Issuer) (fm : Word) (cmd : Cmd) (bar : Option (Nat × Nat))
    (time : DWord) (opindex : Nat) : QEnt :=
  ⟨s.nextId, cn, launch, who, fm, cmd, bar, time, 0, none, opindex, 0, false, 0, [], 0, 0, 0#32, 0⟩

/-- The trap of a failed check, for a lane instruction. -/
def CopyBad.ans (i : Instr) (g : Group) (now : DWord) : CopyBad → Ans
  | .illegal c => Machine.illegal i g c
  | .range b h => .trap (layoutRange 1 (BitVec.ofNat 64 b) (BitVec.ofNat 64 h) g.pc)
  | .late t => .trap (trapRec 9 0 t now 0#64 g.pc)

/-- The forms of a lane copy. -/
inductive CopyForm where
  | plain | gather | cast
  deriving DecidableEq, Repr

/-- The barrier of a lane copy: its place, or under `cast` the team-relative offset, a place in each of the halves `to_`; `none`
where the offset is no place of an object (05 R136). -/
def State.copyBar (s : State) (hid : Nat) (cast : Bool) (to_ : List Nat) (x : Word) : Option (Nat × Nat) :=
  if cast then (if x.toNat % 8 == 0 && to_.all (fun d => (s.objPlace d x).isSome) then some (0, x.toNat) else none)
  else (s.objPlace hid x).map (fun p => (p.hid, p.off))

/-- A lane copy: read, checked and entered (05 R144 to R146). -/
def laneCopy (i : Instr) (f : YFmt) (form : CopyForm) (s : State) : Res :=
  lane i f.hd s (fun gid g s =>
    match KMap.look s.halves g.hid with
    | none => .gone s
    | some h =>
      let st := s.stamp
      let w0 := (g.rg st f.d).toNat
      let w1 := (g.rg st (f.d + 1#8)).toNat
      let sb := (g.rgPair st (f.d + 2#8)).toNat
      let db := (g.rgPair st (f.d + 4#8)).toNat
      let time := g.rgPair st (f.d + 6#8)
      let mode := f.imm.toNat / 4 % 4
      let hs := bitsOf w0 11 0
      let hd := bitsOf w0 27 16
      let cn := s.ctxOf g
      let idx := if form == .gather then some ((g.enabled st f.hd).map (fun j => (g.rv st f.a j).toNat)) else none
      let mask := (g.rg st f.a).toNat % 256
      let cast := form == .cast
      let dsts := if cast then s.gangDsts h mask else ([(0, g.hid)], false)
      let bar := if f.b == 255#8 then some none
        else (s.copyBar g.hid cast (dsts.1.map Prod.snd) (g.rg st f.b)).map some
      if bitsOf w0 31 28 != 0 || bitsOf w0 15 12 != 0 || (mode == 0 && w1 != 0) || (mode == 1 && 256 ≤ w1) then
        illegal i g 1
      else
        match s.layout cn hs, s.layout cn hd with
        | some a, some b =>
          match bar with
          | none => illegal i g 6
          | some bar =>
            match copyBad s.chipTime mode a b hs hd sb db (idx.map List.length)
                (if cast then some (mask, dsts.2) else none) time with
            | some x => x.ans i g s.time64
            | none =>
              if s.copyFull h.core time then .gone (s.blockG gid f.hd .issue)
              else
                let virt : Space := .virt cn h.core
                let src : Side := ⟨virt, sb, a.lay, hs⟩
                let ds := dsts.1.map (fun d => (d.1, (⟨if cast then .loc d.2 else virt, db, b.lay, hd⟩ : Side)))
                let e := s.newEnt cn h.launch (.group gid) g.fm (.copy mode w1 src ds idx) bar time g.pc.toNat
                .ok (s.enterCopy h.core (f.imm.toNat % 4) { e with cast := cast }) []
        | _, _ => illegal i g 7)

/-- CPY. -/
def execCpy (f : YFmt) (s : State) : Res := laneCopy (.cpy f) f .plain s
/-- CPYX: the enabled lanes give the block indices. -/
def execCpyx (f : YFmt) (s : State) : Res := laneCopy (.cpyx f) f .gather s
/-- CPYM: one destination in each team of the gang that the mask names. -/
def execCpym (f : YFmt) (s : State) : Res := laneCopy (.cpym f) f .cast s

end Sys2Proof.Machine
end

