-- ==== Sys2Proof/Machine/Cross.lean ====
section
/-! DEFINITION. Cross.lean: predicate instructions (04 R105) and cross-lane instructions (R106 to R111) with the reduction
tree of 02 R58. -/
namespace Sys2Proof.Machine

/-- A lane-masked predicate form (04 R105). -/
def plop (i : Instr) (f : RFmt) (s : State) (op : Bool → Bool → Bool) : Res :=
  laneOp i f.hd s (fun g st j => wK f.d j (op (g.rk st f.a.toNat j) (g.rk st f.b.toNat j)))

/-- PLOP_AND. -/
def execPlopAnd (f : RFmt) (s : State) : Res := plop (.plopAnd f) f s (fun a b => a && b)
/-- PLOP_OR. -/
def execPlopOr (f : RFmt) (s : State) : Res := plop (.plopOr f) f s (fun a b => a || b)
/-- PLOP_XOR. -/
def execPlopXor (f : RFmt) (s : State) : Res := plop (.plopXor f) f s (fun a b => a != b)
/-- PLOP_ANDN. -/
def execPlopAndn (f : RFmt) (s : State) : Res := plop (.plopAndn f) f s (fun a b => a && !b)
/-- PMOV. -/
def execPmov (f : RFmt) (s : State) : Res :=
  laneOp (.pmov f) f.hd s (fun g st j => wK f.d j (g.rk st f.a.toNat j))
/-- P2G: all 64 bits, whatever lanes are enabled. -/
def execP2g (f : RFmt) (s : State) : Res :=
  lane (.p2g f) f.hd s (fun _ g s => .ok s (wGPair f.d (g.rkAll s.stamp f.a.toNat)))
/-- G2P: all 64 bits; bits W to 63 are discarded (01 R16). -/
def execG2p (f : RFmt) (s : State) : Res :=
  lane (.g2p f) f.hd s (fun _ g s =>
    let x := g.rgPair s.stamp f.a
    .ok s ((List.range g.width).flatMap (fun j => wK f.d j (x.getLsbD j))))

/-- A cross-lane form: its results are counted in `wc3` (04 R111); a counter at 255 stalls it (01 R23). `f` sees the
enabled lanes. -/
def crossOp (i : Instr) (h : Head) (s : State) (f : Group → Nat → List Nat → Writes) : Res :=
  lane i h s (fun gid g s =>
    if g.wc.get 3 == 255#8 then .gone (s.blockG gid h .issue)
    else .ok (s.updG gid (fun g => g.issue (some 3) (f g s.stamp (g.enabled s.stamp h)))) [])

/-- The source lane of `shfl` for lane `j` (04 R107). -/
def shflLane (sub w j : Nat) (b : Word) : Nat :=
  match sub with
  | 0 => b.toNat % w
  | 1 => (j + w * (b.toNat / w + 1) - b.toNat) % w
  | 2 => (j + b.toNat) % w
  | _ => (j ^^^ b.toNat) % w

/-- SHFL. -/
def execShfl (f : RFmt) (s : State) : Res :=
  crossOp (.shfl f) f.hd s (fun g st en => en.flatMap (fun j =>
    let x := shflLane f.sub.toNat g.width j (g.rB st f j)
    wV f.d j (if g.live.getLsbD x then g.rv st f.a x else 0#32)))

/-- VOTE (04 R108). -/
def execVote (f : RFmt) (s : State) : Res :=
  crossOp (.vote f) f.hd s (fun g st en =>
    let on := en.filter (fun j => g.rk st f.a.toNat j)
    match f.sub.toNat with
    | 0 => en.flatMap (fun j => wK f.d j (!on.isEmpty))
    | 1 => en.flatMap (fun j => wK f.d j (on.length == en.length))
    | _ => wGPair f.d (laneMask on))

/-- MATCH (04 R109). -/
def execMatchL (f : RFmt) (s : State) : Res :=
  crossOp (.matchL f) f.hd s (fun g st en =>
    let cls (j : Nat) := en.filter (fun x => g.rv st f.a x == g.rv st f.a j)
    en.flatMap (fun j =>
      let c := cls j
      match f.sub.toNat with
      | 0 => wV f.d j (BitVec.ofNat 32 (nthD c 0 0)) ++ wV (f.d + 1#8) j (BitVec.ofNat 32 c.length)
      | 1 => wV f.d j (BitVec.ofNat 32 (c.countP (fun x => x < j)))
      | _ => wK f.d j (c.length == en.length)))

/-- One level of the tree of 02 R58: neighbours combined, an absent one passes the other on. -/
def pairUp {α : Type} (op : α → α → α) : List (Option α) → List (Option α)
  | [] => []
  | [x] => [x]
  | a :: b :: t =>
    (match a, b with
      | none, y => y
      | x, none => x
      | some x, some y => some (op x y)) :: pairUp op t

/-- The pairwise tree over at most 4096 positions (02 R58). -/
def treeOf {α : Type} (op : α → α → α) (l : List (Option α)) : Option α :=
  (nthD (iterate 12 (fun _ x => pairUp op x) l) 0 none)

/-- One step of a reduction on values of type `ty` (0 f32, 1 s32, 2 n32) with its flags. -/
def redStep (v : FEnv) (sub ty : Nat) (a b : Nat × Word) : Nat × Word :=
  let fl := a.2 ||| b.2
  if ty == 0 then
    let r := match sub with
      | 0 => fAdd v fp32 (decodeF fp32 v.daz a.1) (decodeF fp32 v.daz b.1)
      | 1 => fMinMax v fp32 false a.1 b.1
      | _ => fMinMax v fp32 true a.1 b.1
    (r.1, r.2 ||| fl)
  else
    let x := intVal 32 (ty == 1) a.1
    let y := intVal 32 (ty == 1) b.1
    (match sub with
      | 0 => (a.1 + b.1) % 2 ^ 32
      | 1 => if x < y then a.1 else b.1
      | 2 => if x < y then b.1 else a.1
      | 3 => a.1 &&& b.1
      | 4 => a.1 ||| b.1
      | _ => a.1 ^^^ b.1, fl)

/-- What an empty reduction gives (02 R58). -/
def redEmpty (sub ty : Nat) : Nat :=
  match sub, ty with
  | 1, 0 => 0x7F800000
  | 2, 0 => 0xFF800000
  | 1, 1 => 0x7FFFFFFF
  | 2, 1 => 0x80000000
  | 1, _ => 0xFFFFFFFF
  | 3, _ => 0xFFFFFFFF
  | _, _ => 0

/-- REDX (04 R110): a group-uniform result, written whatever lanes are enabled. -/
def execRedx (f : RFmt) (s : State) : Res :=
  crossOp (.redx f) f.hd s (fun g st en =>
    let ty := f.c.toNat % 4
    let v := (envOf g.fm).withMods f.fs.toNat 0 0
    let leaf (j : Nat) : Option (Nat × Word) := if en.contains j then some ((g.rv st f.a j).toNat, 0#32) else none
    let r := (treeOf (redStep v f.sub.toNat ty) ((List.range g.width).map leaf)).getD (redEmpty f.sub.toNat ty, 0#32)
    wG f.d (BitVec.ofNat 32 r.1) ++ en.flatMap (fun j => wFx g j r.2))

end Sys2Proof.Machine
end

