-- ==== Sys2Proof/Machine/Home.lean ====
section
/-! DEFINITION. Home.lean: accesses that stream engines and Tarn make at the home of the bytes, never through an L1 copy
(18 R349, 22 R383). An access either answers or says why nothing happened. -/
namespace Sys2Proof.Machine

/-- Why an operation at the home changes nothing (18 R349, R354; 22 R383). -/
inductive HomeErr where
  /-- a translation failed: address, whether for writing, CAUSE and LEVEL -/
  | trans (va : Nat) (write : Bool) (cause level : Nat)
  | poison
  /-- KV_FULL: CAUSE and the sequence number -/
  | full (cause : Nat) (seq : DWord)
  | ill (cause : Nat)
  /-- the access waits at its home, for the host's answer or an increment (11 R260; 20 R369; 25 R425): place and length -/
  | wait (pa n : Nat) (write : Bool)
  deriving DecidableEq, Repr

/-- A unit at work for a context: the machine, and the latest completion time of a write. -/
structure Home where
  s : State
  cn : Nat
  c : Ctx
  due : Nat
  deriving DecidableEq, Repr

/-- The leaf for an address that a unit touches, a fabric window's included. -/
def Home.anyLeaf (k : Home) (va : Nat) (w : Bool) : Except HomeErr Leaf :=
  match k.s.walkCtx k.c va with
  | .error e => .error (.trans va w e.1 e.2)
  | .ok l =>
    let region := match KMap.look k.c.regions l.region with
      | some g => g.v
      | none => false
    if !l.grants (if w then .write else .read) then .error (.trans va w 1 l.level)
    else if (!l.rem && isRegSpace (l.pa va)) || (l.rounds && !region) then .error (.trans va w 6 l.level)
    else .ok l

/-- The leaf for an address of this device or the host that a unit touches; log entry 116 for a fabric window. -/
def Home.leaf (k : Home) (va : Nat) (w : Bool) : Except HomeErr Leaf := do
  let l ← k.anyLeaf va w
  if l.rem then .error (.trans va w 6 l.level) else pure l

/-- A range cut at the boundaries of pages. -/
def pageRuns : Nat → Nat → Nat → List (Nat × Nat)
  | 0, _, _ => []
  | f + 1, va, n =>
    if n == 0 then []
    else (va, min n (65536 - va % 65536)) :: pageRuns f (va + min n (65536 - va % 65536)) (n - min n (65536 - va % 65536))

/-- The runs of `n` bytes at `va`. -/
def runsOf (va n : Nat) : List (Nat × Nat) := pageRuns (n / 65536 + 2) va n

/-- Whether an access to `n` bytes from `pa` waits at its home: behind an access that waits for the host's answer; a write
also for that answer itself, and for an increment in progress (11 R260; 20 R369; 25 R425). -/
def Home.waits (k : Home) (pa n : Nat) (w : Bool) : Bool :=
  (linesOf pa n).any (fun x => k.s.homeBusy (128 * x)) || (w && (k.s.hostHas pa n || k.s.incAt pa n))

/-- Bytes as they stand, with no regard to poison. -/
def Home.raw (k : Home) (va n : Nat) : Except HomeErr (List Byte) :=
  (runsOf va n).foldlM (fun acc r => do
    let l ← k.leaf r.1 false
    if k.waits (l.pa r.1) r.2 false then .error (.wait (l.pa r.1) r.2 false)
    else pure (acc ++ k.s.memBytes (l.pa r.1) r.2)) []

/-- Whether bytes at `va` are poisoned. -/
def Home.bad (k : Home) (va n : Nat) : Bool :=
  (runsOf va n).any (fun r => match k.leaf r.1 false with
    | .ok l => k.s.poisoned (l.pa r.1) r.2
    | .error _ => false)

/-- A structure's number of `n` bytes. -/
def Home.num (k : Home) (va n : Nat) : Except HomeErr Nat := do
  let b ← k.raw va n
  if k.bad va n then .error .poison else pure (leNat b)

/-- Bytes written at their home. -/
def Home.write (k : Home) (va : Nat) (b : List Byte) : Except HomeErr Home :=
  (runsOf va b.length).foldlM (fun (k : Home) r => do
    let l ← k.leaf r.1 true
    let pa := l.pa r.1
    let due := (linesOf pa r.2).foldl (fun a x => max a (k.s.gwct (x * 128))) k.due
    if k.waits pa r.2 true then .error (.wait pa r.2 true)
    else pure { k with s := k.s.homeWrite none pa (sub b (r.1 - va) r.2), due := due }) k

/-- A structure's number written. -/
def Home.put (k : Home) (va n x : Nat) : Except HomeErr Home := k.write va (leBytes n x)

/-- The lines of a range marked as poisoned. -/
def Home.mark (k : Home) (va n : Nat) : Home :=
  (runsOf va n).foldl (fun (k : Home) r => match k.leaf r.1 true with
    | .ok l => { k with s := k.s.mark (linesOf (l.pa r.1) r.2) }
    | .error _ => k) k

/-- Pool bytes copied, aligned words of 4 bytes whole; poison moves with them (18 R349, R356; 26 R438). -/
def Home.copyPool (k : Home) (src dst n : Nat) : Except HomeErr Home := do
  let b ← k.raw src n
  let k' ← k.write dst b
  pure ((List.range ((n + 3) / 4)).foldl (fun (k' : Home) i =>
    if k.bad (src + 4 * i) (min 4 (n - 4 * i)) then k'.mark (dst + 4 * i) (min 4 (n - 4 * i)) else k') k')

end Sys2Proof.Machine
end

