-- ==== Sys2Proof/Machine/Special.lean ====
section
/-! DEFINITION. Special.lean: the special functions of 04 R103 and R104. Each gives the exact value or a value inside an
enclosure narrower than 2^-600 with an odd last digit, so that the one rounding to FP32 and the inexact flag come out as
for the exact value. Fixed-point numbers carry `fxBits` fraction bits. -/
namespace Sys2Proof.Machine

/-- Fraction bits of the fixed-point numbers of this file. -/
def fxBits : Nat := 640
/-- 1.0 in fixed point. -/
def fxOne : Nat := 2 ^ fxBits

/-- The integer square root, one binary digit at a time from digit `n - 1` down. -/
def isqrt : Nat → Nat → Nat → Nat
  | 0, _, r => r
  | n + 1, x, r => isqrt n x (if (r + 2 ^ n) * (r + 2 ^ n) ≤ x then r + 2 ^ n else r)

/-- `atanh(n/d)` in fixed point, by its power series; `n/d` at most 1/3. -/
def fxAtanh (n d : Nat) : Nat :=
  let z := fxOne * n / d
  let z2 := z * z / fxOne
  ((List.range 220).foldl (fun (a : Nat × Nat) k => (a.1 + a.2 / (2 * k + 1), a.2 * z2 / fxOne)) (0, z)).1

/-- `atan(1/d)` in fixed point with 400 further bits, by its power series. -/
def fxAtanInv (d : Nat) : Int :=
  let one : Int := 2 ^ (fxBits + 400)
  ((List.range 240).foldl (fun (a : Int × Int) (k : Nat) =>
    (if k % 2 = 0 then a.1 + a.2 / ((2 * k + 1 : Nat) : Int) else a.1 - a.2 / ((2 * k + 1 : Nat) : Int), a.2 / ((d * d : Nat) : Int))) (0, one / (d : Int))).1

/-- π with `fxBits + 400` fraction bits, by Machin's formula. -/
def fxPiWide : Nat := (16 * fxAtanInv 5 - 4 * fxAtanInv 239).toNat

/-- ln 2 in fixed point. -/
def fxLn2 : Nat := 2 * fxAtanh 1 3

/-- `e^x` in fixed point for a fixed-point `x` from 0 to 1. -/
def fxExp (x : Nat) : Nat :=
  ((List.range 160).foldl (fun (a : Nat × Nat) k => (a.1 + a.2, a.2 * x / fxOne / (k + 1))) (0, fxOne)).1

/-- `sin x` (`odd` = true) or `cos x` in fixed point for a fixed-point `x` from 0 to 1. -/
def fxSinCos (odd : Bool) (x : Nat) : Int :=
  let t0 : Int := if odd then x else fxOne
  let st := if odd then 1 else 0
  ((List.range 90).foldl (fun (a : Int × Int) k =>
    let n := 2 * k + st
    (a.1 + a.2, -(a.2 * x / fxOne * x / fxOne / (((n + 1) * (n + 2) : Nat) : Int)))) (0, t0)).1

/-- A number known only to lie strictly between neighbours: one more digit, set. -/
def inexactNum (s : Bool) (m : Nat) (e : Int) : Exact := .num s (2 * m + 1) (e - 1)

/-- `±m × 2^e` as a fixed-point magnitude, digits below the last dropped. -/
def toFx (m : Nat) (e : Int) : Nat :=
  let k := e + fxBits
  if 0 ≤ k then m * 2 ^ k.toNat else m / 2 ^ (-k).toNat

/-- 1/A. -/
def sfRcp : FV → Exact × Word
  | .nan s q fr => (.nan [.nan s q fr] false, 0#32)
  | .inf s => (.zero s, 0#32)
  | .num s m e =>
    if m = 0 then (.inf s, flDZ)
    else
      let q := 2 ^ 100 / m
      (if 2 ^ 100 % m = 0 then .num s q (-100 - e) else inexactNum s q (-100 - e), 0#32)

/-- √A. -/
def sfSqrt : FV → Exact × Word
  | .nan s q fr => (.nan [.nan s q fr] false, 0#32)
  | .inf s => (if s then .nan [] true else .inf false, 0#32)
  | .num s m e =>
    if m = 0 then (.zero s, 0#32)
    else if s then (.nan [] true, 0#32)
    else
      let odd := e % 2 == 1
      let x := m * 2 ^ (if odd then 101 else 100)
      let e' := (if odd then e - 1 else e) / 2 - 50
      let r := isqrt 80 x 0
      (if r * r = x then .num false r e' else inexactNum false r e', 0#32)

/-- 1/√A. -/
def sfRsq : FV → Exact × Word
  | .nan s q fr => (.nan [.nan s q fr] false, 0#32)
  | .inf s => (if s then .nan [] true else .zero false, 0#32)
  | .num s m e =>
    if m = 0 then (.inf s, 0#32)
    else if s then (.nan [] true, 0#32)
    else
      let odd := e % 2 == 1
      let mm := if odd then 2 * m else m
      let e' := -((if odd then e - 1 else e) / 2) - 100
      let x := 2 ^ 200 / mm
      let r := isqrt 110 x 0
      (if r * r * mm = 2 ^ 200 then .num false r e' else inexactNum false r e', 0#32)

/-- Whether m × 2^e is more than `n`. -/
def exceeds (m : Nat) (e n : Int) : Bool := if e < 0 then n * 2 ^ (-e).toNat < m else n < m * 2 ^ e.toNat

/-- 2^A, to be delivered with scale 2^`sc`. An exponent below −149 underflows to +0 with UF and NX (04 R104), also between −150
and −149; DEDUCED (log entry 107): the exponent is that of the scaled value, A + SC. -/
def sfEx2 (sc : Int) : FV → Exact × Word
  | .nan s q fr => (.nan [.nan s q fr] false, 0#32)
  | .inf s => (if s then .zero false else .inf false, 0#32)
  | .num s m e =>
    if m = 0 then (.num false 1 0, 0#32)
    else if s && exceeds m e (149 + sc) then (.num false 1 (-1024), 0#32)
    else if 11 ≤ (bitLen m : Int) + e then
      -- |A| is 1024 or more: far outside the range of FP32
      (.num false 1 (if s then -1024 else 1024), 0#32)
    else
      let x := toFx m e
      let x : Int := if s then -(x : Int) else x
      let n := x / (fxOne : Int)
      let f := (x - n * fxOne).toNat
      (if f = 0 then .num false 1 n else inexactNum false (fxExp (f * fxLn2 / fxOne)) (n - fxBits), 0#32)

/-- log2 A. -/
def sfLg2 : FV → Exact × Word
  | .nan s q fr => (.nan [.nan s q fr] false, 0#32)
  | .inf s => (if s then .nan [] true else .inf false, 0#32)
  | .num s m e =>
    if m = 0 then (.inf true, flDZ)
    else if s then (.nan [] true, 0#32)
    else
      let k := bitLen m - 1
      let n : Int := e + k
      if m = 2 ^ k then (if n = 0 then .zero false else .num (n < 0) n.natAbs 0, 0#32)
      else
        let l := 2 * fxAtanh (m - 2 ^ k) (m + 2 ^ k)
        let y : Int := n * fxOne + ((l * fxOne / fxLn2 : Nat) : Int)
        (inexactNum (y < 0) y.natAbs (-fxBits), 0#32)

/-- sin A (`cosine` = false) or cos A. -/
def sfSinCos (cosine : Bool) : FV → Exact × Word
  | .nan s q fr => (.nan [.nan s q fr] false, 0#32)
  | .inf _ => (.nan [] true, 0#32)
  | .num s m e =>
    if m = 0 then (if cosine then .num false 1 0 else .zero s, 0#32)
    else
      -- |A| = n·(π/2) + r with r between -π/4 and π/4
      let wide : Int := fxBits + 400 + e
      let xw : Nat := if 0 ≤ wide then m * 2 ^ wide.toNat else m / 2 ^ (-wide).toNat
      let n := (2 * xw + fxPiWide / 2) / fxPiWide
      let rw : Int := (xw : Int) - (n * fxPiWide / 2 : Nat)
      let r := rw.natAbs / 2 ^ 400
      let q := (if cosine then n + 1 else n) % 4
      let y : Int := if q % 2 = 0 then (if rw < 0 then -fxSinCos true r else fxSinCos true r) else fxSinCos false r
      let y := if 2 ≤ q then -y else y
      let y := if s && !cosine then -y else y
      (inexactNum (y < 0) y.natAbs (-fxBits), 0#32)

/-- tanh A. -/
def sfTanh : FV → Exact × Word
  | .nan s q fr => (.nan [.nan s q fr] false, 0#32)
  | .inf s => (.num s 1 0, 0#32)
  | .num s m e =>
    if m = 0 then (.zero s, 0#32)
    else if 6 ≤ (bitLen m : Int) + e then (inexactNum s (2 ^ 80 - 1) (-80), 0#32)
    else
      -- e^(2A) = 2^k · e^g with 0 ≤ g < ln 2
      let x2 := 2 * toFx m e
      let k := x2 / fxLn2
      let ex := fxExp (x2 - k * fxLn2) * 2 ^ k
      (inexactNum s ((ex - fxOne) * fxOne / (ex + fxOne)) (-fxBits), 0#32)

/-- Special function `k` of 04 R103, SUB 0 to 7, delivered with its flags. -/
def specialFn (k : Nat) (v : FEnv) (a : FV) : Nat × Word :=
  let r := match k with
    | 0 => sfRcp a
    | 1 => sfRsq a
    | 2 => sfSqrt a
    | 3 => sfEx2 v.sc a
    | 4 => sfLg2 a
    | 5 => sfSinCos false a
    | 6 => sfSinCos true a
    | _ => sfTanh a
  let d := deliver { v with rm := 0 } fp32 r.1
  (d.1, d.2 ||| r.2)

end Sys2Proof.Machine
end

