-- ==== Sys2Proof/Machine/Matrix.lean ====
section
/-! DEFINITION. Matrix.lean: the commands of the matrix queue, Anise and Cumin: streams (07 R202, R203), `mma` (02 R59),
`ast` and `ald` (07 R205), the Mace mask (13 R300 to R305), `trn` (10 R255) and `vgmv` (02 R60, 16 R321 to R324). -/
namespace Sys2Proof.Machine

/-! ### Streams -/

/-- The ring's first TOB byte and its size (07 R202). -/
def StreamQ.geom (q : StreamQ) : Nat × Nat := (bitsOf q.ring.toNat 15 0 * 512, bitsOf q.ring.toNat 31 16 * 512)

/-- Bytes now held. -/
def StreamQ.level (q : StreamQ) : Nat := q.tail - q.head

/-- Stream `n` of a tile context. -/
def Tile.stream (t : Tile) (n : Nat) : StreamQ := (KMap.look t.q n).getD ⟨0#32, 0, 0⟩

/-- The tile context of a half. -/
def State.tileOf (s : State) (hid : Nat) : Option Tile := (KMap.look s.halves hid).bind (fun h => h.tile)

/-- `n` bytes from place `from_` of a stream, in its ring of the TOB; of each aligned word that a store has raced with, all the
old bytes or all the new ones (10 R241). -/
def State.streamBytes (s : State) (hid : Nat) (q : StreamQ) (from_ n : Nat) : List Byte :=
  match KMap.look s.halves hid with
  | none => []
  | some h => (List.range n).map (fun i =>
    let o := q.geom.1 + (from_ + i) % q.geom.2
    match KMap.look h.ringOld o with
    | some b => if Config.raceOld s.stamp (o / 4) then b else h.tob.get o
    | none => h.tob.get o)

/-- The window address of the first byte of a range in a ring that holds poison (26 R438, 10 R256). -/
def State.streamPoison (s : State) (hid : Nat) (q : StreamQ) (from_ n : Nat) : Option Nat :=
  match KMap.look s.halves hid with
  | none => none
  | some h => ((List.range n).find? (fun i => h.tobPoison.contains ((q.geom.1 + (from_ + i) % q.geom.2) / 16))).map
      (fun i => Config.localBase + 0x20000000 + q.geom.1 + (from_ + i) % q.geom.2)

/-- Bytes put by operation `who` at place `pos` of stream `n`, which no store races with. -/
def State.ringPut (s : State) (hid n pos who : Nat) (bytes : List Byte) : State :=
  match s.tileOf hid with
  | none => s
  | some t =>
    let q := t.stream n
    (List.range bytes.length).foldl (fun s i =>
      let o := q.geom.1 + (pos + i) % q.geom.2
      (s.locWrite ⟨hid, true, o⟩ [nthD bytes i 0#8] who).updH hid (fun h => { h with ringOld := KMap.del h.ringOld o })) s

/-- Bytes appended by operation `who` at the tail of stream `n`. -/
def State.append (s : State) (hid n who : Nat) (bytes : List Byte) : State :=
  match s.tileOf hid with
  | none => s
  | some t =>
    let q := t.stream n
    (s.ringPut hid n q.tail who bytes).updT hid (fun t =>
      { t with q := KMap.put t.q n { q with tail := q.tail + bytes.length } })

/-- `k` bytes removed from the head of stream `n`. -/
def State.dropStream (s : State) (hid n k : Nat) : State :=
  s.updT hid (fun t => { t with q := KMap.put t.q n { t.stream n with head := (t.stream n).head + k } })


/-- The bytes of one unit of an `sfill`. -/
def unitBytes (l : Layout) (vals : List Nat) : List Byte :=
  if l.nib then [BitVec.ofNat 8 (packElems 4 vals)] else leBytes (l.bits / 8) (nthD vals 0 0)

/-- Unit `b` of an `sfill` whose bytes are `bytes`: appended when the ring has room (07 R203), its place noted; one appended
before, under a retry, is written again where it stands, if it still does (10 R257; log entry 31). -/
def Run.fillBytes (q b : Nat) (bytes : List Byte) (r : Run) : Run :=
  let hid := r.s.homeHid r.e
  match r.s.tileOf hid with
  | none => r
  | some t =>
    let st := t.stream q
    match r.e.note (fillKey b) with
    | some pos => if st.head ≤ pos then { r with s := r.s.ringPut hid q pos r.e.id bytes } else r
    | none =>
      if st.geom.2 < st.level + bytes.length then { r with stop := some .wait }
      else { r with s := r.s.append hid q r.e.id bytes, e := r.e.setNote (fillKey b) st.tail }

/-- One unit of an `sfill`, read and appended. -/
def Run.fillStep (src : Side) (q b k n : Nat) (r : Run) : Run :=
  let p := r.readSrcs r.s src none k n
  match p.2.stop with
  | some _ => p.2
  | none => p.2.fillBytes q b (unitBytes src.lay p.1)

/-- An `sfill` performed as far as the ring has room. -/
def Run.fill (src : Side) (q : Nat) (r : Run) : Run :=
  r.units (fun b k n x => x.fillStep src q b k n)

/-! ### Matrix operations -/

/-- Accumulator element (row, column). -/
def accKey (a row col : Nat) : Nat := 8192 * a + 128 * row + col

/-- The value of an operand element of format code `c` (02 R59): floating point under DAZ, integers exactly. -/
def operandVal (v : FEnv) (c x : Nat) : FV :=
  if c < 6 then decodeF (fmtOf c) v.daz x
  else
    let i := intVal (elemBits c) (intSigned c) x
    .num (i < 0) i.natAbs 0

/-- The exact chunk sum of products rounded to FP32, and its addition to the accumulator, rounded (02 R59). DESIGN CHOICE
(log entry 120): a zero sum of integer products is the integer 0, +0 under every rounding mode. -/
def macChunk (v : FEnv) (isInt : Bool) (acc : Nat) (xy : List (FV × FV)) : Nat :=
  let s : Nat :=
    if isInt then
      let t : Int := xy.foldl (fun a p => match p with
        | (.num s m _, .num s' m' _) => if s != s' then a - (m * m' : Nat) else a + (m * m' : Nat)
        | _ => a) 0
      (deliver v fp32 (if t = 0 then .zero false else .num (t < 0) t.natAbs 0)).1
    else (deliver v fp32 (dotFV v.rm xy [] (xy.flatMap (fun p => [p.1, p.2])))).1
  (fAdd v fp32 (decodeF fp32 v.daz acc) (decodeF fp32 false s)).1

/-- One accumulator element of `mma` (02 R59). -/
def macElem (v : FEnv) (isInt : Bool) (acc : Nat) : Nat → List (FV × FV) → Nat
  | 0, _ => acc
  | n + 1, l => macElem v isInt (macChunk v isInt acc (l.take 32)) n (l.drop 32)

/-- `mma` and `mmaz` on operand bytes already taken from the streams (07 R204). -/
def Tile.mma (t : Tile) (fm : Word) (zero : Bool) (a f1 f2 k : Nat) (ab bb : List Byte) : Tile :=
  let v := cmdEnv fm
  let av := leNat ab
  let bv := leNat bb
  let w1 := elemBits f1
  let w2 := elemBits f2
  let elemA (i x : Nat) := operandVal v f1 (elem av w1 (i * k + x))
  let elemB (x j : Nat) := operandVal v f2 (elem bv w2 (x * 128 + j))
  let acc := (List.range 64).foldl (fun (m : Regs 32) i => (List.range 128).foldl (fun (m : Regs 32) j =>
    let old := if zero then 0 else (t.acc.get (accKey a i j)).toNat
    let l := (List.range k).map (fun x => (elemA i x, elemB x j))
    m.set (accKey a i j) (BitVec.ofNat 32 (macElem v (6 ≤ f1) old ((k + 31) / 32) l))) m) t.acc
  { t with acc := acc }

/-- `mma` waits until its operands are in the streams, takes them and computes (07 R204). -/
def Run.mma (zero : Bool) (a qa qb f1 f2 : Nat) (r : Run) : Run :=
  let hid := r.s.homeHid r.e
  match r.s.tileOf hid, mmaShape f1 f2 with
  | some t, some (k, na, nb) =>
    let sa := t.stream qa
    let sb := t.stream qb
    let short := if qa == qb then sa.level < na + nb else sa.level < na || sb.level < nb
    let fromB := if qa == qb then sb.head + na else sb.head
    if short then { r with stop := some .wait }
    else match r.s.streamPoison hid sa sa.head na <|> r.s.streamPoison hid sb fromB nb with
    | some va => { r with stop := some (.fault 5 va false 0 0) }
    | none =>
      let ab := r.s.streamBytes hid sa sa.head na
      let bb := r.s.streamBytes hid sb fromB nb
      let s := (r.s.dropStream hid qa na).dropStream hid qb nb
      { r with s := s.updT hid (fun t => t.mma r.e.fm zero a f1 f2 k ab bb), e := { r.e with done := 1 } }
  | _, _ => r

/-- `sdrop`: it waits until the bytes are present (07 R203). -/
def Run.sdrop (q n : Nat) (r : Run) : Run :=
  let hid := r.s.homeHid r.e
  match r.s.tileOf hid with
  | none => r
  | some t =>
    if (t.stream q).level < n then { r with stop := some .wait }
    else { r with s := r.s.dropStream hid q n, e := { r.e with done := 1 } }

/-- Element `k` of `ast`: the accumulator element converted and stored (07 R205). -/
def Run.ast (a : Nat) (dst : Side) (sat : Bool) (r : Run) : Run :=
  let hid := r.s.homeHid r.e
  let v : FEnv := { cmdEnv r.e.fm with sat := sat }
  let val (r : Run) (k : Nat) : Nat :=
    (convert v dst.lay.fmt 0 false false (((r.s.tileOf hid).map (fun t => (t.acc.get (8192 * a + k)).toNat)).getD 0)).1
  r.units (fun _ k n x =>
    x.together k (fun y => y.writeAll [(0, dst)] k ((List.range n).map (fun i => val x (k + i)))))

/-- Element `k` of an accumulator set. -/
def State.setAcc (s : State) (hid a k : Nat) (x : Word) : State :=
  s.updT hid (fun t => { t with acc := t.acc.set (8192 * a + k) x })

/-- `ald`: elements read, widened and put into the accumulator (07 R205). -/
def Run.ald (a : Nat) (src : Side) (r : Run) : Run :=
  let hid := r.s.homeHid r.e
  let step (k : Nat) (r : Run) : Run :=
    let p := r.readElem src k k false
    match p.1 with
    | none => p.2
    | some x =>
      { p.2 with s := p.2.s.setAcc hid a k (BitVec.ofNat 32 (convert (cmdEnv r.e.fm) 0 src.lay.fmt false false x).1) }
  r.units (fun _ k _ x => step k x)

/-! ### Mace (13 R300 to R305) -/

/-- The words of a mask with the fields of R300. -/
structure Mask where
  causal : Bool
  window : Bool
  prefixed : Bool
  doc : Bool
  retire : Bool
  poslist : Bool
  posoff : Nat
  win : Nat
  pfx : Nat
  docoff : Nat
  docn : Nat
  retva : Nat
  deriving DecidableEq, Repr

/-- The fields of four parameter words. -/
def maskOf (w : List DWord) : Mask :=
  let x (i : Nat) := (nthD w i 0#64).toNat
  ⟨bitOf (x 0) 0, bitOf (x 0) 1, bitOf (x 0) 2, bitOf (x 0) 3, bitOf (x 0) 4, bitOf (x 0) 5, bitsOf (x 0) 63 32,
    bitsOf (x 1) 31 0, bitsOf (x 1) 63 32, bitsOf (x 2) 31 0, bitsOf (x 2) 47 32, bitsOf (x 3) 56 0⟩

/-- Whether parameter words are ILLEGAL (13 R301): the first of its cases in their order gives the CAUSE (26 R436). -/
def maskBad (w : List DWord) : Option Nat :=
  let x (i : Nat) := (nthD w i 0#64).toNat
  let m := maskOf w
  if bitsOf (x 0) 31 6 != 0 || bitsOf (x 2) 63 48 != 0 || bitsOf (x 3) 63 57 != 0 then some 1
  else if (m.prefixed && !m.causal) || (m.window && m.win == 0) || 4096 < m.docn ||
      m.posoff % 4 != 0 || m.docoff % 4 != 0 || m.retva % 8 != 0 then some 6
  else if (!m.poslist && m.posoff != 0) || (!m.window && m.win != 0) || (!m.prefixed && m.pfx != 0) ||
      (!m.doc && (m.docn != 0 || m.docoff != 0)) || (!m.retire && m.retva != 0) then some 1
  else none

/-- An n32 of a list in the team's scratchpad, through the first range or the pair space: every store that the sequencer has
made before the command is seen and none after (07 R196, 13 R304). -/
def State.listWord (s : State) (e : Option QEnt) (hid x : Nat) : Except Nat Nat :=
  match s.localPlace hid x 4 with
  | none => .error causeLocal
  | some p =>
    let v := leNat (s.locBytes p 4)
    if p.tob then .error causeLocal
    else if s.locPoisoned p 4 then .error 5
    else .ok ((e.map (fun e => s.own e (.loc hid) x 4 v)).getD v)

/-- `n` entries of a list, read for command `e` or at an issue; the first failing address. -/
def State.listWords (s : State) (e : Option QEnt) (hid x : Nat) : Nat → Except (Nat × Nat) (List Nat)
  | 0 => .ok []
  | n + 1 =>
    match s.listWords e hid x n with
    | .error e => .error e
    | .ok l =>
      match s.listWord e hid (x + 4 * n) with
      | .error c => .error (c, Config.localBase + x + 4 * n)
      | .ok v => .ok (l ++ [v])

/-- A list of `n` entries that a mask names: its offset lies in the scratchpad, also where it has none (13 R304). -/
def State.maskList (s : State) (e : Option QEnt) (hid x n : Nat) (on : Bool) : Except (Nat × Nat) (List Nat) :=
  if !on then .ok []
  else match s.localPlace hid x 4 with
    | some p => if p.tob then .error (causeLocal, Config.localBase + x) else s.listWords e hid x n
    | none => .error (causeLocal, Config.localBase + x)

/-- The position and boundary lists of a mask; the position list where `pos` says that it is read. -/
def State.maskLists (s : State) (e : Option QEnt) (hid : Nat) (m : Mask) (pos : Bool) :
    Except (Nat × Nat) (List Nat × List Nat) :=
  match s.maskList e hid m.posoff 128 pos with
  | .error e => .error e
  | .ok p =>
    match s.maskList e hid m.docoff m.docn m.doc with
    | .error e => .error e
    | .ok d => .ok (p, d)

/-- Whether a kind that compares positions is on (13 R302). -/
def Mask.structural (m : Mask) : Bool := m.causal || m.window || m.doc

/-- Whether the structural kinds exclude element (r, c) (13 R302). -/
def Mask.excludes (m : Mask) (pos docs : List Nat) (qp0 kc0 r c : Nat) : Bool :=
  let qp := qp0 + r
  let kp := if m.poslist then nthD pos c 0 else kc0 + c
  let doc (p : Nat) := docs.countP (fun b => b ≤ p)
  (m.causal && qp < kp && !(m.prefixed && qp < m.pfx && kp < m.pfx)) || (m.window && kp + m.win ≤ qp) ||
    (m.doc && doc kp != doc qp)

/-- The aligned 8-byte word at `va` read whole at its home (13 R304). -/
def Run.homeWord (r : Run) (va : Nat) : Option Nat × Run :=
  let core := r.s.homeCore r.e
  let side : Side := ⟨.virt r.e.ctx core, va, ⟨11, 1, 0, [8], [1]⟩, 0⟩
  let bad (s : State) (c : Nat) : Option Nat × Run := (none, { r with s := s, stop := some (.fault c va false 0 0) })
  let ok (v : Nat) (s : State) : Option Nat × Run := (some (r.s.own r.e side.space va 8 v), { r with s := s })
  if isLocal va then
    match r.s.localPlace (r.s.homeHid r.e) (va - Config.localBase) 8 with
    | none => bad r.s causeLocal
    | some p => if r.s.locPoisoned p 8 then bad r.s 5 else ok (leNat (r.s.locBytes p 8)) r.s
  else
    match r.s.windowLeaf side.space va .read with
    | some l =>
      let a := r.remoteRead l va 8 (va / 8 % 4) side false
      (a.1.map (fun v => r.s.own r.e side.space va 8 v), a.2)
    | none =>
      let t := r.s.translate core r.e.ctx va .read
      match t.1 with
      | .error c => bad t.2 c.1
      | .ok l =>
        let l := t.2.workLeaf r.e.ctx 6 va l
        let pa := l.pa va
        if isRegSpace pa then
          (if l.so then ok (leNat (t.2.regBytes (pa - Config.regBase) 8)) t.2 else bad t.2 6)
        else if t.2.poisonAt r.e.ctx 6 pa 8 then bad t.2 5
        else
          let b := t.2.loadLine core r.e.ctx 6 0 true l pa 8
          (match b.1 with
            | some v => ok (leNat v) b.2
            | none => (none, { r with s := b.2, stop := some .wait }))

/-- Word `i` of the bitmap words that a command reads, read once and kept (13 R304): where the command performs in part, the
step reads some of them and leaves the others. -/
def Run.bitmapWord (r : Run) (va i : Nat) : Run :=
  let key := 2 ^ 41 + i
  if r.stop.isSome || (r.e.note key).isSome || (r.lim.isSome && Config.raceOld r.s.stamp i) then r
  else
    let x := r.homeWord va
    match x.1 with
    | some v => { x.2 with e := x.2.e.setNote key v }
    | none => x.2

/-- The bitmap bits of keys `kc` to `kc + 127`: the words that hold them, each read once (13 R304). -/
def Run.bitmap (r : Run) (retva kc : Nat) : Option (List Bool) × Run :=
  let first := kc / 64
  let ws := List.range ((kc + 127) / 64 - first + 1)
  let p := ws.foldl (fun (r : Run) (i : Nat) => r.bitmapWord (retva + 8 * (first + i)) i) r
  let word (i : Nat) : Nat := (p.e.note (2 ^ 41 + i)).getD 0
  match p.stop with
  | some _ => (none, p)
  | none =>
    if ws.all (fun i => (p.e.note (2 ^ 41 + i)).isSome) then
      (some ((List.range 128).map (fun c => bitOf (word ((kc + c) / 64 - first)) ((kc + c) % 64))), p)
    else (none, { p with stop := some .wait })

/-- `amask` when it runs (13 R303, R304). -/
def Run.amask (a : Nat) (qp kc : Word) (w : List DWord) (r : Run) : Run :=
  let m := maskOf w
  let hid := r.s.homeHid r.e
  if r.e.done != 0 then r
  else
  match r.s.maskLists (some r.e) hid m m.poslist with
  | .error e => { r with stop := some (.fault e.1 e.2 false 0 0) }
  | .ok (pos, docs) =>
    let p := if m.retire then r.bitmap m.retva kc.toNat else (some [], r)
    match p.1 with
    | none => p.2
    | some bits =>
      let upd (t : Tile) : Tile := { t with
        acc := (List.range 64).foldl (fun (x : Regs 32) i => (List.range 128).foldl (fun (x : Regs 32) j =>
          if m.excludes pos docs qp.toNat kc.toNat i j || nthD bits j false then x.set (accKey a i j) 0xFF800000#32
          else x) x) t.acc }
      { p.2 with s := p.2.s.updT hid upd, e := { p.2.e.forget with done := 1 } }

/-! ### Anise and Cumin -/

/-- The source element of destination element `k` of `trn`: destination coordinate j is the source coordinate on
dimension `perm j` (07 R207). -/
def trnIndex (src : Layout) (perm : List Nat) (k : Nat) : Nat :=
  let dims := (List.range src.ndim).map (fun j => nthD src.size (nthD perm j j) 1)
  let c := coords dims k
  let weight (d : Nat) : Nat := (src.size.take d).foldl (· * ·) 1
  (List.range src.ndim).foldl (fun t j => t + nthD c j 0 * weight (nthD perm j j)) 0

/-- `trn` performed from its first element not done; the elements' bits move unchanged. -/
def Run.trn (dst src : Side) (perm : List Nat) (r : Run) : Run :=
  let read (p : List Nat × Run) (k : Nat) : List Nat × Run := match p.2.stop with
    | some _ => p
    | none =>
      let a := p.2.readSrc r.s src none (trnIndex src.lay perm k)
      (p.1 ++ a.1.toList, a.2)
  r.units (fun _ k n x =>
    let p := ((List.range n).map (fun i => k + i)).foldl read ([], x)
    match p.2.stop with
    | some _ => p.2
    | none => p.2.together k (fun y => y.writeAll [(0, dst)] k p.1))

/-- Word `w` of the row stream, read once and kept (16 R324): one that lies behind a window and in a row there comes in one
answer. -/
def Run.streamWord (r : Run) (src : Side) (w : Nat) : Option Nat × Run :=
  let n := min 4 (src.lay.count - 4 * w)
  let x (i : Nat) : Int := src.base + (src.lay.offset (4 * w + i)).1
  match r.e.note (2 ^ 42 + w) with
  | some v => (some v, r)
  | none =>
    let a : Option Nat × Run :=
      match (if (List.range n).all (fun i => x i == x 0 + i) then r.s.windowLeaf src.space (x 0) .read else none) with
      | some l =>
        let a := r.remoteRead l (x 0).toNat n (2 ^ 41 + w) src false
        (a.1.map (fun v => r.s.own r.e src.space (x 0) n v), a.2)
      | none =>
        let p := r.readSrcs r.s src none (4 * w) n
        (match p.2.stop with | some _ => none | none => some (packElems 8 p.1), p.2)
    match a.1 with
    | some v => (some v, { a.2 with e := a.2.e.setNote (2 ^ 42 + w) v })
    | none => a

/-- A field of `n` bytes of the row stream: a violation where it is not wholly inside (16 R322). Rows, tokens and positions are
aligned so that none crosses a word. -/
def Run.field (r : Run) (src : Side) (pos n : Nat) : Option Nat × Run :=
  if src.lay.count < pos + n then (none, { r with stop := some (.vg pos) })
  else
    let a := r.streamWord src (pos / 4)
    (a.1.map (fun v => v / 2 ^ (8 * (pos % 4)) % 2 ^ (8 * n)), a.2)

/-- The positions of a group from `pos` on: the sum and the number of positions so far, and the byte after the token. -/
def Run.vgGroup (v : FEnv) (src x : Side) : Nat → Run → Nat → Option Nat → Nat → Option (Nat × Nat × Nat) × Run
  | 0, r, pos, _, _ => (none, { r with stop := some (.vg pos) })
  | fuel + 1, r, pos, sum, cnt =>
    let p := r.field src pos 2
    match p.1 with
    | none => (none, p.2)
    | some f =>
      if f == 0xFFFF then
        match sum with
        | none => (none, { p.2 with stop := some (.vg pos) })
        | some s => (some (s, cnt, pos + 2), p.2)
      else if x.lay.count ≤ f then (none, { p.2 with stop := some (.vg pos) })
      else
        let q := p.2.readElem x f (2 ^ 40 + pos) false
        match q.1 with
        | none => (none, q.2)
        | some e =>
          let xv := decodeF (fmtOf x.lay.fmt) v.daz e
          let s := match sum with
            | none => (deliver { v with ftz := false } fp32 (match xv with
                | .nan _ _ _ => .nan [xv] false
                | .inf b => .inf b
                | .num b m k => if m = 0 then .zero b else .num b m k)).1
            | some s => (fAdd v fp32 (decodeF fp32 false s) xv).1
          Run.vgGroup v src x fuel q.2 (pos + 2) (some s) (cnt + 1)

/-- The groups of a row: the row sum, the positions found, and the byte after the last token (02 R60). -/
def Run.vgGroups (v : FEnv) (src x : Side) (fmt : Nat) : Nat → Run → Nat → Option Nat → Nat →
    Option (Option Nat × Nat × Nat) × Run
  | 0, r, pos, sum, cnt => (some (sum, cnt, pos), r)
  | n + 1, r, pos, sum, cnt =>
    let c := r.field src pos 2
    match c.1 with
    | none => (none, c.2)
    | some val =>
      let g := c.2.vgGroup v src x (src.lay.count + 1) (pos + 2) none cnt
      match g.1 with
      | none => (none, g.2)
      | some (s, cnt, pos) =>
        let prod := (fMul v fp32 (decodeF fp32 false s) (operandVal v fmt (val % 2 ^ elemBits fmt))).1
        let sum := match sum with
          | none => prod
          | some t => (fAdd v fp32 (decodeF fp32 false t) (decodeF fp32 false prod)).1
        Run.vgGroups v src x fmt n g.2 pos (some sum) cnt

/-- Whether a row may hold values of format code `c` (07 R208). -/
def vgFmtOk (c : Nat) : Bool := (1 ≤ c && c ≤ 5) || (8 ≤ c && c ≤ 13)

/-- The byte offset of the next row of a `vgmv`. -/
def QEnt.rowOff (e : QEnt) : Nat := (e.note (rowOffKey e.done)).getD 0

/-- Row `k` of `vgmv` (16 R322). DESIGN CHOICE (log entry 125): where tD overlaps tA or tB, a read returns what an earlier row
wrote there. -/
def Run.vgRow (dst src x : Side) (k : Nat) (r : Run) : Run :=
  let hdr := r.e.rowOff
  let h := r.field src hdr 4
  match h.1 with
  | none => h.2
  | some w =>
    let fmt := bitsOf w 31 24
    let total := bitsOf w 23 8
    let n := bitsOf w 7 0
    if !vgFmtOk fmt then { h.2 with stop := some (.vg (hdr + 3)) }
    else if n == 0 && total != 0 then { h.2 with stop := some (.vg (hdr + 1)) }
    else
      let g := h.2.vgGroups (cmdEnv r.e.fm) src x fmt n (hdr + 4) none 0
      match g.1 with
      | none => g.2
      | some (sum, cnt, pos) =>
        if cnt != total then { g.2 with stop := some (.vg (hdr + 1)) }
        else
          { g.2 with e := g.2.e.setNote (rowOffKey (k + 1)) ((pos + 3) / 4 * 4) }.together k
            (fun r => r.writeElem dst k (sum.getD 0) 0)

/-- `vgmv` performed from its first row not written. -/
def Run.vgmv (dst src x : Side) (r : Run) : Run := r.units (fun _ k _ y => y.vgRow dst src x k)

/-! ### Any command -/

/-- A command performed as far as it goes; fences and rounds do nothing here. -/
def Run.perform (r : Run) : Run :=
  match r.e.cmd with
  | .copy mode scale src dsts idx => r.copy mode scale src dsts idx
  | .fill src q => r.fill src q
  | .mma zero a qa qb f1 f2 => r.mma zero a qa qb f1 f2
  | .ast a dst sat => r.ast a dst sat
  | .ald a src => r.ald a src
  | .amask a qp kc w => r.amask a qp kc w
  | .sdrop q n => r.sdrop q n
  | .trn dst src perm => r.trn dst src perm
  | .vgmv dst src x _ => r.vgmv dst src x
  | .qfence _ _ => r
  | .round _ _ _ => r
  | .loch _ _ _ _ _ _ => r

/-- The record whose coordinates a fault of a command names. -/
def Cmd.faultLayout (c : Cmd) : Option Layout :=
  match c with
  | .copy _ _ src dsts _ => some (((dsts.head?).map (fun d => d.2.lay)).getD src.lay)
  | .fill src _ => some src.lay
  | .ast _ dst _ => some dst.lay
  | .ald _ src => some src.lay
  | .trn dst _ _ => some dst.lay
  | _ => none

/-- The coordinates of a command's first element not done (10 R256, 16 R324). -/
def QEnt.coords (e : QEnt) : List Nat :=
  match e.cmd with
  | .vgmv _ _ _ _ => [e.done, e.rowOff]
  | c => match c.faultLayout with
    | some l => Machine.coords (l.size.take l.ndim) e.done
    | none => []

/-- The fault word of a stopped run. -/
def Run.faultRec (r : Run) (queue : Nat) : Option FaultRec :=
  match r.stop with
  | some (.fault c va dst h dest) => some (engineRec codeCopyFault queue c va dst h dest r.e.coords r.e.opindex)
  | some (.vg off) =>
    -- SIDE 0 and the record of the side that holds the rows (10 R256)
    let h := match r.e.cmd with
      | .vgmv _ src _ _ => src.handle
      | _ => 0
    some (engineRec codeVgFormat queue 6 0 false h 0 [r.e.done, off] r.e.opindex)
  | _ => none

end Sys2Proof.Machine
end

