-- ==== Sys2Proof/Machine/EngineEvents.lean ====
section
/-! DEFINITION. EngineEvents.lean: the engine queues at work (11 R275, R276): commands that perform and complete with their
barrier credits (10 R246, R251), commands whose rest is ignored or filled (09 R231, 10 R257), faults of commands (10 R257,
12 R291) and their containment (09 R230 to R232), fences, timed commands, residue checks (26 R439) and the increments of
rounds (20 R369). -/
namespace Sys2Proof.Machine

/-! ### Queues -/

/-- The queue that holds entry `id`. -/
def State.entryKey (s : State) (id : Nat) : Option Nat :=
  (s.queues.find? (fun q => q.2.any (fun e => e.id == id))).map (fun q => q.1)

/-- The entry `id`. -/
def State.entry (s : State) (id : Nat) : Option QEnt := s.entries.find? (fun e => e.id == id)

/-- Entry `id` changed by `f`, in whichever queue holds it. -/
def State.updEnt (s : State) (id : Nat) (f : QEnt → QEnt) : State :=
  let g (e : QEnt) : QEnt := if e.id == id then f e else e
  { s with queues := KMap.mapv (fun _ q => q.map g) s.queues }

/-- The entry that a queue may start: its head, unless an earlier command of the channel waits in the time-sorted buffer
(10 R250). -/
def State.headOf (s : State) (k : Nat) : Option QEnt :=
  match s.queue k with
  | [] => none
  | e :: _ =>
    if k % 32 < 4 && ((KMap.look s.timed (k / 32)).getD []).any (fun t => t.1 == k % 32 && t.2.id < e.id) then none
    else some e

/-- The key under which a tile context's remote accesses are held. -/
def tileHold (hid : Nat) : Nat := 2 ^ 40 + hid

/-- Whether a remote access stores bytes. -/
def RemAcc.stores (a : RemAcc) : Bool :=
  match a.kind with
  | .write b => !b.isEmpty
  | _ => false

/-- Whether a tile context has stored through a window, before operation `id`, what the peer has not acknowledged. -/
def State.tilePosted (s : State) (hid id : Nat) : Bool :=
  s.remote.any (fun a => a.gid.isNone && a.hold == tileHold hid && a.stores && a.seq < id)

/-- Whether an entry stands still: its context or its unit halts, and it is none of the commands that finish (09 R227,
24 R417). -/
def State.entHalted (s : State) (e : QEnt) : Bool :=
  let ctx := ((KMap.look s.ctxs e.ctx).map (fun c => c.halted)).getD false
  match (s.issuerHid e).bind (fun x => KMap.look s.halves x) with
  | none => ctx
  | some h => (ctx || h.leaving != 0) && !h.finishing.contains e.id

/-- An entry put into a queue by its number, the order of issue. -/
def insertEnt (e : QEnt) : List QEnt → List QEnt
  | [] => [e]
  | x :: t => if e.id < x.id then e :: x :: t else x :: insertEnt e t

/-! ### Completion -/

/-- Elements of a command's progress. -/
def Cmd.total (c : Cmd) : Nat :=
  match c with
  | .copy _ _ _ dsts idx => copyCount dsts idx
  | .fill src _ => src.lay.count
  | .ast _ _ _ => 8192
  | .ald _ _ => 8192
  | .trn dst _ _ => dst.lay.count
  | .vgmv _ _ _ rows => rows
  | _ => 1

/-- Elements already credited. -/
def QEnt.credited (e : QEnt) : Nat := (e.note creditKey).getD 0

/-- Bytes that elements `a` to `b - 1` of a command land in one destination record (10 R246). -/
def Cmd.landed (c : Cmd) (a b : Nat) : Nat :=
  match c with
  | .copy _ _ _ dsts _ => ((dsts.head?).map (fun d => d.2.lay.newBytes a b)).getD 0
  | .fill src _ => b * src.lay.bits / 8 - a * src.lay.bits / 8
  | .ast _ dst _ => dst.lay.newBytes a b
  | .trn dst _ _ => dst.lay.newBytes a b
  | .vgmv dst _ _ _ => dst.lay.newBytes a b
  | _ => 0

/-- The barrier of an entry credited up to element `n`: each destination team's own object for a multicast (10 R246). -/
def State.creditTo (s : State) (e : QEnt) (n : Nat) : State × QEnt :=
  let a := e.credited
  if n ≤ a then (s, e)
  else
    let bytes := e.cmd.landed a n
    let one (s : State) (hid off : Nat) : State :=
      match s.localPlace hid off 8 with
      | some p => if p.tob then s else s.credit (some (p.hid, p.off)) bytes
      | none => s
    let s' := match e.bar with
      | none => s
      | some (hid, off) =>
        if hid == 0 then
          (match e.cmd with
            | .copy _ _ _ dsts _ => dsts.foldl (fun s d => match d.2.space with
              | .loc h => one s h off
              | _ => s) s
            | _ => s)
        else s.credit (some (hid, off)) bytes
    (s', e.setNote creditKey n)

/-- A command that has completed leaves its batch (07 R198), and the live frame shows DONE (12 R290). -/
def State.batchDone (s : State) (e : QEnt) : State :=
  match e.issuer with
  | .group _ => s
  | .tile hid =>
    let drop (l : List Nat) : List Nat := l.filter (fun i => i != e.id)
    let upd (t : Tile) : Tile :=
      let bs := t.batches.map (fun b => (b.1, drop b.2))
      { t with batchOpen := drop t.batchOpen, batches := bs.dropWhile (fun b => b.2.isEmpty), gw := max t.gw e.gw }
    (s.updT hid upd).frameState hid

/-- The retry counts of queued commands clear when the replayed command completes (09 R232). -/
def State.clearTries (s : State) (e : QEnt) : State :=
  if (e.note retryKey).isNone then s
  else match e.issuer with
  | .group gid => s.updG gid (fun g => { g with retries := g.retries.filter (fun r => r.1 < 10) })
  | .tile hid => s.updH hid (fun h => { h with retries := h.retries.filter (fun r => r.1 < 10) })

/-- What follows from the completion of entry `e` of queue `k`: it leaves the queue, its batch and pins; drains, and the
release of resources, look again. -/
def State.entryDone (s : State) (k : Nat) (e : QEnt) : State :=
  let s := s.setQueue k ((s.queue k).filter (fun x => x.id != e.id))
  let s := if s.chipTime < e.gw then
      { s with visible := s.visible ++ [⟨e.id, k / 32, k % 32, e.launch, BitVec.ofNat 64 e.gw⟩] }
    else s
  let upd (p : Pin) : Pin := { p with cmds := p.cmds.filter (fun i => i != e.id) }
  let s := s.updC e.ctx (fun c => { c with pins := (c.pins.map upd).filter (fun p => !(p.released && p.cmds.isEmpty)) })
  let s := ((s.batchDone e).clearTries e).drainCheck
  s.halves.foldl (fun s h => s.tryRelease h.1) s

/-! ### Faults of commands (10 R257, 12 R291) -/

/-- Whether nobody waits for the service of a command's fault: its issuer was terminated (10 R258). -/
def State.orphan (s : State) (e : QEnt) : Bool :=
  match e.issuer with
  | .group gid => ((KMap.look s.groups gid).map (fun g => g.killed)).getD true
  | .tile hid => match s.tileOf hid with
    | some t => !t.valid
    | none => true

/-- The place of a tile context. -/
def State.tilePlace (s : State) (hid : Nat) : DWord :=
  match KMap.look s.halves hid with
  | some h => placeWord h.core h.quarter 0 ((h.tile.map (fun t => t.index)).getD 0) 0
  | none => 0#64

/-- A fault recorded for a tile context: at once, or behind the one that the frame holds (12 R291). -/
def State.tileFault (s : State) (hid : Nat) (f : TFault) (note : Bool) : State :=
  match s.tileOf hid, KMap.look s.halves hid with
  | some t, some h =>
    match t.fault with
    | some _ => s.updT hid (fun t => { t with later := t.later ++ [f] })
    | none =>
      let s := (s.updT hid (fun t => { t with fault := some f })).frameState hid
      if note then s.record h.ctx 0 1 hid f.cmd (s.tilePlace hid) f.frec else s
  | _, _ => s

/-- The frame holds no fault: KIND, FAULT and OPINDEX are 0 (12 R291). -/
def State.tileClean (s : State) (hid : Nat) : State := (s.updT hid (fun t => { t with fault := none })).frameState hid

/-- The frame's fault is dealt with; the next one, if any, is recorded (12 R291). VG_FORMAT asks for no service. -/
def State.tileNext (s : State) (hid : Nat) : State :=
  match s.tileOf hid with
  | none => s
  | some t =>
    match t.later with
    | [] => s.tileClean hid
    | f :: rest =>
      (s.updT hid (fun t => { t with fault := none, later := rest })).tileFault hid f (f.frec.code != codeVgFormat)

/-- A group whose command's fault is dealt with goes on, unless another command of it stands at a fault. -/
def State.copyClear (s : State) (gid : Nat) : State :=
  let other := s.entries.find? (fun e => e.issuer == .group gid && e.fault.isSome)
  s.updG gid (fun g => match g.sched, g.fault with
    | .parked, some r =>
      if r.code == codeCopyFault || r.code == codeVgFormat then
        (match other with
          | some e => { g with fault := e.fault }
          | none => { g with fault := none }.wake)
      else g
    | _, _ => g)

/-- The issuer of a command goes on after its fault. -/
def State.issuerClear (s : State) (e : QEnt) : State :=
  match e.issuer with
  | .group gid => s.copyClear gid
  | .tile hid => s.tileNext hid

/-- An entry that begins again at element 0; what its barrier has been credited stays credited (10 R246, R257). -/
def QEnt.again (e : QEnt) : QEnt := { e.forget with fault := none, done := 0 }

/-- A group that runs while a command of it stands at a fault parks with the fault word at its next boundary (10 R257). -/
def State.parkIssuer (s : State) (gid : Nat) : State :=
  match s.entries.find? (fun e => e.issuer == .group gid && e.fault.isSome) with
  | none => s
  | some e => s.updG gid (fun g => match g.sched, g.fault with
    | .ready, none => { g with sched := .parked, fault := e.fault }
    | _, _ => g)

/-- The decision of containment for a command's fault (09 R230 to R232): a lane's command from group level, a tile's from
team level. -/
def State.containOne (s : State) (e : QEnt) (r : FaultRec) : State :=
  match (s.issuerHid e).bind (fun x => (KMap.look s.halves x).map (fun h => (x, h))) with
  | none => s.updEnt e.id (fun e => { e with fault := none, skip := 1 })
  | some (hid, h) =>
    let pol (l : Nat) : Nat := ((s.lrOf h).map (fun x => x.policy l)).getD 3
    let g : Option Group := match e.issuer with
      | .group gid => KMap.look s.groups gid
      | .tile _ => none
    let tile := match e.issuer with
      | .tile _ => true
      | .group _ => false
    let levels := if tile then [1, 2, 3] else [0, 1, 2, 3]
    let tries (l : Nat) : Nat :=
      if tile then (h.retries.get (10 + l)).toNat else ((g.map (fun x => x.retries.get (10 + l))).getD 0#8).toNat
    let src := if tile then 1 else 0
    let unit := match e.issuer with
      | .group gid => gid
      | .tile hid => hid
    let place := if tile then s.tilePlace hid else (g.map s.groupPlace).getD 0#64
    let note := s.record h.ctx 1 src unit e.id place r
    let bump (s : State) (l : Nat) : State :=
      match e.issuer with
      | .group gid =>
        s.updG gid (fun x => { x with retries := x.retries.set (10 + l) (x.retries.get (10 + l) + 1#8) })
      | .tile _ => s.updH hid (fun h => { h with retries := h.retries.set (10 + l) (h.retries.get (10 + l) + 1#8) })
    let go (s : State) (f : QEnt → QEnt) : State := (s.updEnt e.id f).issuerClear e
    match containment pol tries levels with
    | .ignore l => go ((if l == 3 then note else s).absorb h.ctx) (fun e => { e with fault := none, skip := 1 })
    | .retry l =>
      go (bump ((if l == 3 then note else s).absorb h.ctx) l) (fun e => e.again.setNote retryKey 1)
    | .kill 0 =>
      (match e.issuer with
        | .group gid => withTraps ((note.unfault (fun x => x.issuer == .group gid)).killGroups [gid])
        | .tile _ => withTraps (note.killTeam hid))
    | .kill 1 => withTraps (note.killTeam hid)
    | .kill 2 => withTraps (note.killGrid h.launch)
    | .kill _ => withTraps (note.killCtx h.ctx r.code)
    | .fatal => note.fatal h.ctx r.code r src unit place

/-- A VG_FORMAT that the frame has come to hold goes to containment, and so does one behind it, at most `n` (09 R230,
12 R291). -/
def State.containNext (hid : Nat) : Nat → State → State
  | 0, s => s
  | n + 1, s =>
    match (s.tileOf hid).bind (fun t => t.fault) with
    | some f =>
      (match (if f.frec.code == codeVgFormat then s.entry f.cmd else none) with
        | some e =>
          if e.fault.isSome && !((KMap.look s.ctxs e.ctx).map (fun c => c.killed)).getD true then
            State.containNext hid n (s.containOne e f.frec)
          else s
        | none => s)
    | none => s

/-- How many faults wait for the frame of a half. -/
def State.laterCount (s : State) (hid : Nat) : Nat := ((s.tileOf hid).map (fun t => t.later.length)).getD 0

/-- The frame's fault is dealt with, and what follows from it. -/
def State.tileClear (s : State) (hid : Nat) : State := State.containNext hid (s.laterCount hid) (s.tileNext hid)

/-- The issuer of a command goes on after a resolution of its fault. -/
def State.issuerGo (s : State) (e : QEnt) : State :=
  match e.issuer with
  | .group gid => s.copyClear gid
  | .tile hid => s.tileClear hid

/-- A command's fault goes to containment, and what follows from it. -/
def State.contain (s : State) (e : QEnt) (r : FaultRec) : State :=
  match e.issuer with
  | .group _ => s.containOne e r
  | .tile hid => State.containNext hid (s.laterCount hid) (s.containOne e r)

/-- TAKING THE FAULT OF A COMMAND: its queue stops; a group parks at its next boundary, a tile context stops with the fault
in its frame, and a record asks for service (10 R257, 12 R291); VG_FORMAT goes to containment as soon as the frame holds it
(09 R230, 16 R327). -/
def State.cmdFault (s : State) (e : QEnt) (r : FaultRec) : State :=
  if s.orphan e then s.updEnt e.id (fun e => { e with fault := none, skip := 1 })
  else
    let s := s.updEnt e.id (fun e => { e.forget with fault := some r })
    let vg := r.code == codeVgFormat
    match e.issuer with
    | .tile hid => State.containNext hid (if vg then 1 else 0) (s.tileFault hid ⟨2, e.slot, e.opindex, e.id, r, 0⟩ (!vg))
    | .group gid =>
      if vg then s.containOne e r
      else
      let place := ((KMap.look s.groups gid).map s.groupPlace).getD 0#64
      (s.parkIssuer gid).record e.ctx 0 0 gid e.id place r

/-! ### What is left of a command, ignored or filled -/

/-- An action whose failure leaves the run as it was; a wait stays one. -/
def Run.attempt (f : Run → Run) (r : Run) : Run :=
  let r' := f r
  match r'.stop with
  | some .wait => r'
  | some _ => r
  | none => r'

/-- Elements `k` to `k + n - 1` of the destinations filled; one that cannot be written keeps its bytes (10 R257). -/
def Run.fillElems (dsts : List (Nat × Side)) (k n : Nat) (r : Run) : Run :=
  let bits := ((dsts.head?).map (fun d => d.2.lay.bits)).getD 32
  let one (d : Nat × Side) (r : Run) (i : Nat) : Run :=
    match r.stop with
    | some _ => r
    | none => r.attempt (fun r => r.writeElem d.2 (k + i) (r.e.fill.toNat % 2 ^ bits) d.1)
  r.together k (fun r => dsts.foldl (fun r d => (List.range n).foldl (one d) r) r)

/-- The remaining elements of a destination filled; mode 2 writes scale byte 127 for the remaining blocks of `blk`. -/
def Run.fillRest (mode scale : Nat) (dsts : List (Nat × Side)) (blk : Nat) (r : Run) : Run :=
  r.units (fun _ k n r =>
    let b := unitOf blk 32 k
    let r := if mode == 2 && (unitAt blk 32 b).1 == k then r.attempt (fun r => r.writeScale scale b 127) else r
    match r.stop with
    | some _ => r
    | none => r.fillElems dsts k n)

/-- The bytes that `sfill` has still to append, all of one value; it waits for room (09 R231, 10 R257). -/
def Run.padStream (src : Side) (q : Nat) (v : Nat) (r : Run) : Run :=
  r.units (fun b _ n r =>
    r.fillBytes q b (unitBytes src.lay (List.replicate n (v % 2 ^ src.lay.bits))))

/-- Accumulator `a` filled from element `done` on with the whole 32-bit pattern (10 R257). -/
def Run.fillAcc (a : Nat) (r : Run) : Run :=
  let hid := r.s.homeHid r.e
  (List.range 8192).foldl (fun r k => if k < r.e.done then r else { r with s := r.s.setAcc hid a k r.e.fill }) r

/-- What is left of a command dealt with under ignore (`skip` = 1) or skip (`skip` = 2). An `mma` takes its operand bytes
from the streams all the same; under skip its accumulator is filled. -/
def Run.finish (r : Run) : Run :=
  let fill := r.e.skip == 2
  match r.e.cmd with
  | .copy mode scale _ dsts idx =>
    if fill then r.fillRest mode scale dsts (copyBlock dsts idx) else r
  | .fill src q => r.padStream src q (if fill then r.e.fill.toNat else 0)
  | .ast _ dst _ => if fill then r.fillRest 0 0 [(0, dst)] 8192 else r
  | .trn dst _ _ => if fill then r.fillRest 0 0 [(0, dst)] dst.lay.count else r
  | .vgmv dst _ _ rows => if fill then r.fillRest 0 0 [(0, dst)] rows else r
  | .ald a _ => if fill then r.fillAcc a else r
  | .mma _ a qa qb f1 f2 =>
    let hid := r.s.homeHid r.e
    match r.s.tileOf hid, mmaShape f1 f2 with
    | some t, some (_, na, nb) =>
      let short := if qa == qb then (t.stream qa).level < na + nb
        else (t.stream qa).level < na || (t.stream qb).level < nb
      if short then { r with stop := some .wait }
      else
        let r := { r with s := (r.s.dropStream hid qa na).dropStream hid qb nb }
        if fill then r.fillAcc a else r
    | _, _ => r
  | .sdrop q n => r.sdrop q n
  | .amask _ _ _ _ => r
  | .qfence _ _ => r
  | .round _ _ _ => r
  | .loch _ _ _ _ _ _ => r

/-! ### A queue at work -/


/-- Whether the tile context of a command has a fault in its frame: a violation of the row format waits for it (12 R291). -/
def State.frameBusy (s : State) (e : QEnt) : Bool :=
  match e.issuer with
  | .tile hid => ((s.tileOf hid).map (fun t => t.fault.isSome)).getD false
  | .group _ => false

/-- Whether an entry of a queue performs nothing of itself. -/
def Cmd.idle (c : Cmd) : Bool :=
  match c with
  | .qfence _ _ => true
  | .round _ _ _ => true
  | .loch _ _ _ _ _ _ => true
  | _ => false

/-- Whether what its issuer did before keeps a command from reading its source: a fence of its group (05 R146, R151), or a store
of its tile context that a peer has not acknowledged (07 R196). -/
def State.fencedOff (s : State) (e : QEnt) : Bool :=
  match e.issuer with
  | .group gid => ((KMap.look s.groups gid).map (fun g => !g.killed && g.fences.any (fun f => f.seq ≤ e.id))).getD false
  | .tile hid => s.tilePosted hid e.id

/-- Whether a command performs element by element, or word by word, so that others may see it half done. -/
def Cmd.gradual (c : Cmd) : Bool :=
  match c with
  | .copy _ _ _ _ _ => true
  | .fill _ _ => true
  | .ast _ _ _ => true
  | .ald _ _ => true
  | .trn _ _ _ => true
  | .vgmv _ _ _ _ => true
  | .amask _ _ _ _ => true
  | _ => false

/-- Some steps of entry `id` of queue `k`, at most `n`, while the entries before it have started: its landed bytes are
credited, and it stays in its queue, also where it would stop at a fault (11 R275). Behind the head only the commands of Clove,
Anise and Cumin start that append to no stream. -/
def State.runPart (s : State) (k id n : Nat) : Option State :=
  let q := s.queue k
  let before := q.takeWhile (fun x => x.id != id)
  let stands (x : QEnt) : Bool := x.cmd.idle || x.fault.isSome || x.skip != 0 || s.fencedOff x || s.entHalted x
  let shared := k % 32 < 4 || k % 32 == 8 || k % 32 == 9
  match s.headOf k, q.find? (fun x => x.id == id) with
  | some _, some e =>
    let append := match e.cmd with
      | .fill _ _ => true
      | _ => false
    let early := k % 32 < 4 && ((KMap.look s.timed (k / 32)).getD []).any (fun t => t.1 == k % 32 && t.2.id < id)
    if !e.cmd.gradual || stands e || before.any stands || early || (!before.isEmpty && (!shared || append)) then none
    else
      let r := (⟨s, e, none, some n⟩ : Run).perform
      let upto := if r.stop.isNone then e.cmd.total else r.e.done
      let c := r.s.creditTo { r.e with done := upto } upto
      if c.2 != e || r.s.nextId != s.nextId then some (c.1.updEnt id (fun _ => c.2)) else none
  | _, _ => none

/-- The head of queue `k` performs as far as it goes, its landed bytes are credited, and it completes, faults or waits;
`none` where nothing can happen. -/
def State.runHead (s : State) (k : Nat) : Option State :=
  match s.headOf k with
  | none => none
  | some e =>
    if e.cmd.idle || e.fault.isSome || s.fencedOff e || s.entHalted e then none
    else
      let r := if e.skip == 0 then (⟨s, e, none, none⟩ : Run).perform else (⟨s, e, none, none⟩ : Run).finish
      let upto := if r.stop.isNone then e.cmd.total else r.e.done
      let c := r.s.creditTo { r.e with done := upto } upto
      let s' := c.1.updEnt e.id (fun _ => c.2)
      let moved := c.2 != e || r.s.nextId != s.nextId || r.s.backInv.length != s.backInv.length
      match r.stop with
      | none =>
        if s'.unacked e.id then (if moved then some s' else none) else some (s'.entryDone k c.2)
      | some .wait => if moved then some s' else none
      | some (.vg _) =>
        if s.frameBusy e then none
        else match ({ r with e := c.2 } : Run).faultRec (queueCode k) with
          | some f => some (s'.cmdFault c.2 f)
          | none => none
      | some (.fault _ _ _ _ _) =>
        match ({ r with e := c.2 } : Run).faultRec (queueCode k) with
        | some f => some (s'.cmdFault c.2 f)
        | none => none

/-- The head of a queue as an event. -/
def queueEvent (k : Nat) (s : State) : Res :=
  match s.runHead k with
  | some s' => .next s'
  | none => .fault (.notEnabled "queue")

/-- CLOVE_COMMAND_COMPLETE: the command at the head of a Clove channel performs (10 R250 to R254). -/
def execCloveCommandComplete (core channel : Nat) (s : State) : Res :=
  if 4 ≤ channel then .fault (.noAgent "channel") else queueEvent (qkey core channel) s

/-- MATRIX_COMMAND_COMPLETE: the command at the head of a quarter's matrix queue performs (07 R203 to R206). -/
def execMatrixCommandComplete (core quarter : Nat) (s : State) : Res :=
  if 4 ≤ quarter then .fault (.noAgent "quarter") else queueEvent (qkey core (4 + quarter)) s

/-- CUMIN_COMMAND_COMPLETE: the `vgmv` at the head of Cumin performs (07 R208, 16 R321 to R324). -/
def execCuminCommandComplete (core : Nat) (s : State) : Res := queueEvent (qkey core 8) s

/-- ANISE_COMMAND_COMPLETE: the `trn` at the head of Anise performs (10 R255). -/
def execAniseCommandComplete (core : Nat) (s : State) : Res := queueEvent (qkey core 9) s

/-- The timed command to be released next: the least issue time, the earliest issued among equals (10 R250). -/
def nextTimed : List (Nat × QEnt) → Option (Nat × QEnt)
  | [] => none
  | x :: t => match nextTimed t with
    | none => some x
    | some y => if y.2.time.ult x.2.time then some y else some x

/-- TIMED_COMMAND_RELEASE: a command whose issue time has come enters its channel (10 R250); one of a context that halts stays
where it is (24 R417). -/
def execTimedCommandRelease (core : Nat) (s : State) : Res :=
  let l := (KMap.look s.timed core).getD []
  match nextTimed (l.filter (fun x => !s.entHalted x.2)) with
  | none => .fault (.notEnabled "timed command")
  | some (ch, e) =>
    if s.chipTime < e.time.toNat then .fault (.notEnabled "issue time")
    else
      let k := qkey core ch
      .next ({ s with timed := KMap.put s.timed core (l.filter (fun x => x.2.id != e.id)) }.setQueue k
        (insertEnt e (s.queue k)))

/-! ### Fences -/

/-- Whether an entry is fence `fid`. -/
def QEnt.isFence (e : QEnt) (fid : Nat) : Bool :=
  match e.cmd with
  | .qfence x _ => x == fid
  | _ => false

/-- The fence entry `fid`, wherever it first stands. -/
def State.fence (s : State) (fid : Nat) : Option QEnt :=
  (s.entries ++ s.loch.flatMap (fun q => q.2.entries)).find? (fun e => e.isFence fid)

/-- The core of a remote access; a stream's has none. -/
def State.remCore (s : State) (a : RemAcc) : Nat :=
  match a.gid with
  | some gid => ((KMap.look s.groups gid).map s.coreOf).getD Config.cores
  | none =>
    if 2 ^ 60 ≤ a.hold then ((KMap.look s.groups (a.hold - 2 ^ 60)).map s.coreOf).getD Config.cores
    else if 2 ^ 40 ≤ a.hold then ((KMap.look s.halves (a.hold - 2 ^ 40)).map (fun h => h.core)).getD Config.cores
    else ((s.entry a.hold).map s.homeCore).getD Config.cores

/-- Whether fence `fid` heads every queue it entered, with everything before it complete and visible at its scope
(11 R276). -/
def State.fenceReady (s : State) (fid scope : Nat) : Bool :=
  let ks := (s.queues.filter (fun q => q.2.any (fun e => e.isFence fid))).map (fun q => q.1)
  let first (k : Nat) : Bool := match s.headOf k with
    | some e => e.isFence fid
    | none => false
  let quiet (k : Nat) : Bool := k % 32 != 10 || !s.remote.any (fun a => s.remCore a == k / 32 && a.seq < fid)
  ks.all (fun k => first k && quiet k) &&
  (s.loch.filter (fun q => q.2.entries.any (fun e => e.isFence fid))).all (fun q =>
    match q.2.entries with
    | e :: _ => e.isFence fid
    | [] => false) &&
  (scope < 4 || s.visible.all (fun v =>
    !(ks.contains (qkey v.core v.channel) && v.id < fid) || v.gwct.toNat ≤ s.chipTime))

/-- Fence `fid` leaves every queue; the remote accesses of the core that it held back go out in their order (11 R276,
25 R429). -/
def State.dropFence (s : State) (fid : Nat) : State :=
  let cores := (s.queues.filter (fun q => q.1 % 32 == 10 && q.2.any (fun e => e.isFence fid))).map (fun q => q.1 / 32)
  let keep (l : List QEnt) : List QEnt := l.filter (fun e => !e.isFence fid)
  let dropQ (q : Loch) : Loch := { q with entries := keep q.entries }
  let s := { s with queues := KMap.mapv (fun _ q => keep q) s.queues, loch := KMap.mapv (fun _ q => dropQ q) s.loch }
  cores.foldl (fun s core => s.retryAt (2 ^ 70 + core)) s

/-- QFENCE_ENTRY_RELEASE: a fence entry completes in all its queues at once (11 R276). -/
def execQfenceEntryRelease (fid : Nat) (s : State) : Res :=
  match s.fence fid with
  | none => .fault (.noAgent "fence")
  | some e =>
    let scope := match e.cmd with
      | .qfence _ sc => sc
      | _ => 0
    if !s.fenceReady fid scope || s.entHalted e then .fault (.notEnabled "fence")
    else
      let s := ((s.dropFence fid).batchDone e).drainCheck
      .next (s.halves.foldl (fun s h => s.tryRelease h.1) s)

/-! ### Residue checks (26 R439) -/

/-- RESIDUE_MISMATCH: the operation at the head of a matrix queue or of Cumin is replayed; the fourth mismatch is
HW_FAILURE, fatal to its context, and the next boot's map retires the unit. -/
def execResidueMismatch (queue : Nat) (s : State) : Res :=
  let code := queue % 32
  match s.headOf queue with
  | none => .fault (.notEnabled "command")
  | some e =>
    if !(4 ≤ code && code ≤ 8) then .fault (.noAgent "residue check")
    else if e.replays < 3 then .next (s.updEnt e.id (fun e => { e with replays := e.replays + 1 }))
    else
      let s := { s with ibmir := { s.ibmir with retired := s.ibmir.retired ++ [(queue / 32, code - 4)] } }
      .next (s.fatal e.ctx 0x32 (fatalRec 0x32 0#64))

/-! ### Increments of rounds (20 R369, R370) -/

/-- The queue of a tile context's rounds that have not been counted. -/
def roundQueue (core quarter ti : Nat) : Nat := qkey core (12 + 2 * quarter + ti)

/-- Whether a tile's round may go out: the commands issued before it have completed, and its earlier stores, acknowledged where
they are remote, and their writes are visible at device scope (07 R200). -/
def State.roundReady (s : State) (e : QEnt) : Bool :=
  match e.cmd with
  | .round _ gw ids =>
    e.done == 0 && gw ≤ s.chipTime && !s.fencedOff e &&
      ids.all (fun i => (s.entry i).isNone && s.visible.all (fun v => v.id != i || v.gwct.toNat ≤ s.chipTime))
  | _ => false

/-- The tile rounds that are ready go out: each is an increment under way to its region's counter. -/
def State.kickRounds (s : State) : State :=
  (s.entries.filter s.roundReady).foldl (fun s e => match e.cmd with
    | .round region _ _ =>
      let k := e.ctx * 256 + region
      let s := s.updEnt e.id (fun e => { e with done := 1 })
      { s with incs := KMap.put s.incs k ((KMap.look s.incs k).getD [] ++ [⟨none, e.id, false⟩]) }
    | _ => s) s

/-- A tile's round has been counted: it completes, where it stands in a queue, else when it is back from Mere (24 R419). -/
def State.roundDone (s : State) (id : Nat) : State :=
  match s.entryKey id, s.entry id with
  | some q, some e => s.entryDone q e
  | _, _ =>
    let upd (e : QEnt) : QEnt := if e.id == id then { e with done := 2 } else e
    { s with saved := s.saved.map (fun x => { x with residue := x.residue.map (fun r => (r.1, upd r.2)) }) }

/-- The oldest increment of a region, which is to come to its home, begins: the counter's stores wait from now on
(20 R369). -/
def State.beginInc (s : State) (k : Nat) : Option State :=
  match (KMap.look s.incs k).getD [] with
  | x :: rest => if x.begun then none else some { s with incs := KMap.put s.incs k ({ x with begun := true } :: rest) }
  | [] => none

/-- ROUND_INCREMENT: the increment of a region that is in progress completes: the counter word reads one more, the stores that
waited for it perform, and with BCAST the new value is on its way to every core (20 R369, R370). It waits while the host may
hold the line (25 R425); a poisoned counter is fatal to the context (DESIGN CHOICE, log entry 111). -/
def execRoundIncrement (cn region : Nat) (s : State) : Res :=
  let k := cn * 256 + region
  match KMap.look s.ctxs cn with
  | none => .fault (.noAgent "context")
  | some c =>
    match KMap.look c.regions region, (KMap.look s.incs k).getD [] with
    | some r, x :: rest =>
      let n := s.counter cn region + 1#32
      match s.counterPa cn region with
      | none => .fault (.notEnabled "counter")
      | some pa =>
        if !x.begun then .fault (.notEnabled "increment")
        else if s.poisoned pa 4 then .next (s.fatal cn 0x30 (fatalRec 0x30 0#64))
        else if s.hostHas pa 4 || s.homeBusy pa then
          (if s.homeBusy pa then .fault (.notEnabled "host") else .next (s.snoop pa 4))
        else
          let s1 := s.homeWrite none pa (leBytes 4 n.toNat)
          let s2 := { s1 with
            incs := KMap.put s1.incs k rest
            bcasts := if r.bcast then
                s1.bcasts ++ (List.range Config.cores).map (fun core => (⟨core, cn, region, n, s.chipTime + 4096⟩ : Bcast))
              else s1.bcasts }
          let s3 := s2.retryAt (pa / 128)
          .next (match x.gid with
            | some gid => s3.endFences gid false
            | none => s3.roundDone x.id)
    | _, _ => .fault (.notEnabled "increment")


end Sys2Proof.Machine
end

