-- ==== Sys2Proof/Machine/Tile.lean ====
section
/-! DEFINITION. Tile.lean: the frame of every tile operation: registers and their landing (06 R163), sequencer accesses
(07 R176, R177), tile handles (07 R201), the three addresses of the sequencer with branches and hardware loops (06 R165,
07 R180 to R182), and the portable effect of one operation (06 R158). -/
namespace Sys2Proof.Machine

/-! ### Registers of a tile context -/

/-- The key of `apN`. -/
def tkAp (r : Nat) : Nat := 100 + r
/-- The key of `lcN`. -/
def tkLc (r : Nat) : Nat := 110 + r
/-- The key of `sdN`. -/
def tkSd (r : Nat) : Nat := 120 + r
/-- The key of `tN`. -/
def tkT (r : Nat) : Nat := 140 + r
/-- The key of `wN`. -/
def tkW (r : Nat) : Nat := 200 + r

/-- The key of `cfm`. -/
def tkCfm : Nat := 300

/-- The 512 bytes of `wN` as one number. -/
def Tile.vec (t : Tile) (r : Nat) : Nat := leNat (t.w.slice (512 * r) 512)

/-- The newest value under a register key. -/
def Tile.cur (t : Tile) (k : Nat) : Nat :=
  if k < 100 then (t.c.get k).toNat
  else if k < 110 then (t.ap.get (k - 100)).toNat
  else if k < 120 then (t.lc.get (k - 110)).toNat
  else if k < 140 then (t.sd.get (k - 120)).toNat
  else if k < 200 then (t.t.get (k - 140)).toNat
  else if k < 300 then t.vec (k - 200)
  else t.cfm.toNat

/-- What a read returns: the newest value, or an older one while its successor is outstanding (06 R163). -/
def Tile.read (t : Tile) (stamp k : Nat) : Nat :=
  match t.lands.filter (fun l => l.key == k) with
  | [] => t.cur k
  | l => nthD (t.cur k :: l.map (fun x => x.old)) (Config.staleRead stamp k % (l.length + 1)) (t.cur k)

/-- One register set. -/
def Tile.put (t : Tile) (k x : Nat) : Tile :=
  if k < 100 then { t with c := t.c.set k (BitVec.ofNat 32 x) }
  else if k < 110 then { t with ap := t.ap.set (k - 100) (BitVec.ofNat 64 x) }
  else if k < 120 then
    -- what the fetch has taken ahead from the old count is no part of the new one
    { t with
      lc := t.lc.set (k - 110) (BitVec.ofNat 32 x)
      loops := KMap.mapv (fun l v => if l == k - 110 then { v with back := 0 } else v) t.loops }
  else if k < 140 then { t with sd := t.sd.set (k - 120) (BitVec.ofNat 32 x) }
  else if k < 200 then { t with t := t.t.set (k - 140) (BitVec.ofNat 64 x) }
  else if k < 300 then { t with w := t.w.setSlice (512 * (k - 200)) (leBytes 512 x) }
  else { t with cfm := BitVec.ofNat 32 x }

/-- A register write: key, value, and latency in bundles. -/
structure TWrite where
  key : Nat
  val : Nat
  lat : Nat
  deriving DecidableEq, Repr

/-- A write made; until its latency has passed a read may return the old value (06 R163); `cfm` governs only from then on
(07 R183). -/
def Tile.write (t : Tile) (w : TWrite) : Tile :=
  if w.key == tkCfm && 1 < w.lat then { t with cfmNext := t.cfmNext ++ [(w.lat - 1, BitVec.ofNat 32 w.val)] }
  else
  let clip (l : TLanding) : TLanding := if l.key == w.key then { l with left := min l.left (w.lat - 1) } else l
  let ls := (t.lands.map clip).filter (fun l => l.left != 0)
  let ls := if w.lat ≤ 1 then ls else ls ++ [⟨w.lat - 1, w.key, t.cur w.key⟩]
  ({ t with lands := ls } : Tile).put w.key w.val

/-- One bundle more has issued: the latencies of earlier results run down, and so does that of `cfm` (06 R163,
07 R183). -/
def Tile.count (t : Tile) : Tile :=
  let due := t.cfmNext.filter (fun e => e.1 ≤ 1)
  { t with
    lands := (t.lands.map (fun l => { l with left := l.left - 1 })).filter (fun l => l.left != 0)
    cfm := (due.getLast?.map (fun e => e.2)).getD t.cfm
    cfmNext := (t.cfmNext.filter (fun e => 1 < e.1)).map (fun e => (e.1 - 1, e.2)) }

/-! ### What an operation sees and answers -/

/-- What an operation acts on: the machine, the half, the tile context as it stood when the bundle issued, and the number of
the next operation then. -/
structure TileX where
  s : State
  hid : Nat
  h : Half
  t : Tile
  since : Nat

/-- Where the sequencer goes after a bundle (06 R165, 07 R182). -/
inductive Flow where
  | next
  /-- a branch: its target if it is taken, and its NUL field -/
  | branch (goal : Option Nat) (nul : Nat)
  /-- a `loop`: whether its body runs, and the position of the body's last bundle -/
  | loop (go : Bool) (last : Nat)
  /-- `gret` -/
  | gret
  deriving DecidableEq, Repr

/-- What an operation answers: its effects, a wait (07 R173), a synchronous fault (06 R168), or poison (26 R438). -/
inductive TAns where
  | ok (s : State) (w : List TWrite) (f : Flow)
  | wait (s : State)
  | fault (r : FaultRec)
  | poison
  deriving DecidableEq, Repr

/-- Scalar register `r`. -/
def TileX.c (x : TileX) (r : BitVec 5) : Word := BitVec.ofNat 32 (x.t.read x.s.stamp r.toNat)
/-- A scalar pair, low word in the even register. -/
def TileX.cPair (x : TileX) (r : BitVec 5) : DWord := pairWord (x.c (r + 1#5)) (x.c r)
/-- Address pointer `r`. -/
def TileX.ap (x : TileX) (r : Nat) : DWord := BitVec.ofNat 64 (x.t.read x.s.stamp (tkAp r))
/-- Stride `r`. -/
def TileX.sd (x : TileX) (r : Nat) : Word := BitVec.ofNat 32 (x.t.read x.s.stamp (tkSd r))
/-- Loop count `r`. -/
def TileX.lc (x : TileX) (r : Nat) : Word := BitVec.ofNat 32 (x.t.read x.s.stamp (tkLc r))
/-- Tile handle `r`. -/
def TileX.th (x : TileX) (r : BitVec 5) : DWord := BitVec.ofNat 64 (x.t.read x.s.stamp (tkT r.toNat))
/-- Vector register `r`, its 512 bytes as one number. -/
def TileX.w (x : TileX) (r : Nat) : Nat := x.t.read x.s.stamp (tkW r)

/-- The image that a half's kernel runs. -/
def State.imageOf (s : State) (h : Half) : Option Image :=
  (KMap.look s.launches h.launch).bind (fun l => KMap.look s.images l.image)

/-- The fault word of ILLEGAL for a tile operation (26 R436): its word, and the bundle address. -/
def TileX.ill (x : TileX) (i : Instr) (cause : Nat) : TAns :=
  .fault (trapRec 1 cause (encode i) (BitVec.ofNat 64 x.t.pc) 0#64 0#64)

/-- A synchronous translation fault: code, CAUSE and the address only (12 R290). -/
def syncRec (code cause va : Nat) : FaultRec := trapRec code cause (BitVec.ofNat 64 va) 0#64 0#64 0#64

/-- Effects without a branch. -/
def TAns.done (s : State) (w : List TWrite) : TAns := .ok s w .next

/-- Sticky flags raised by tile code (07 R172). -/
def State.tileFlags (s : State) (hid : Nat) (fl : Word) : State :=
  if fl == 0#32 then s else s.updT hid (fun t => { t with cfx := t.cfx ||| fl })

/-! ### Sequencer accesses (07 R176, R177) -/

/-- A place that a pointer and an offset name: local, or virtual. -/
inductive SeqAddr where
  | loc (off : Nat)
  | virt (va : Int)
  deriving DecidableEq, Repr

/-- The address `apP + imm`: a local-window offset in bits 31:0, or a virtual address in bits 56:0 (01 R30, 07 R176). -/
def seqAddr (ap : DWord) (imm : BitVec 16) : SeqAddr :=
  if ap.getLsbD 63 then
    let va : Int := (ap.toNat % 2 ^ 57 : Nat) + imm.toInt
    if 0 ≤ va && isLocal va.toNat then .loc (va.toNat - Config.localBase) else .virt va
  else .loc (loWord ap + imm.signExtend 32).toNat

/-- The number whose low bits alignment looks at, and the address a fault word names. -/
def SeqAddr.num : SeqAddr → Nat
  | .loc o => Config.localBase + o
  | .virt va => (va % (2 ^ 64 : Int)).toNat

/-- Bytes read or written by a sequencer access, or why not. -/
inductive SeqAns where
  | ok (b : List Byte) (s : State)
  | wait (s : State)
  | fault (cause code va : Nat)
  | poison
  deriving DecidableEq, Repr

/-- The held leaf of the lowest `xbM` that covers an access and allows it (07 R177). -/
def Tile.xbFor (t : Tile) (va n : Nat) (a : Acc) : Bx :=
  let ok (b : Bx) : Bool := b.limit != 0#32 && b.vbase.toNat ≤ va && va + n ≤ b.vbase.toNat + b.limit.toNat &&
    (match b.leaf with | some l => l.grants a | none => false)
  (((List.range 4).filterMap (fun m => KMap.look t.xb m)).find? ok).getD Bx.invalid

/-- The key in `rem` of the answer to a store's question whether the peer lets it be made. -/
def askKey (va : Nat) : Nat := 2 ^ 58 + va

/-- The key in `rem` of the bytes behind a window before a store of them. -/
def oldKey (va : Nat) : Nat := 2 ^ 59 + va

/-- The key in `rem` of a refusal of the access under `key`: its code, and CAUSE above. -/
def failKey (key : Nat) : Nat := 2 ^ 61 + key

/-- A remote access of a tile context under `key`: the answer to it, or a wait after it has gone out; the bundle issues once
the peer has answered (17 R344, 07 R173). -/
def State.tileRemote (s : State) (hid cn : Nat) (t : Tile) (l : Leaf) (key va : Nat) (kind : RemoteKind) : SeqAns :=
  match KMap.look t.rem (failKey key), KMap.look t.rem key with
  | some v, _ => .fault (v.toNat / 256) (v.toNat % 256) va
  | _, some v => .ok (leBytes 8 v.toNat) s
  | none, none =>
    let core := ((KMap.look s.halves hid).map (fun h => h.core)).getD 0
    if s.remote.any (fun a => a.gid.isNone && a.hold == tileHold hid && a.lane == key) ||
        !(s.queue (qkey core 10)).isEmpty then .wait s
    else
      match s.remoteSend cn none (tileHold hid) key l va kind with
      | .error (.fail code c _ _ _) => .fault c code va
      | .error _ => .wait s
      | .ok s' => .wait s'

/-- How a sequencer load treats round-managed lines: the bound, and whether `.st` (07 R192). -/
structure Bound where
  k : Nat
  st : Bool
  deriving DecidableEq, Repr

/-- The key in `rem` of the chip time at which a `vldb.st` began to wait for the line at `va` (05 R125). -/
def stallKey (va : Nat) : Nat := 2 ^ 63 + 2 * (va / 128)

/-- The key in `rem` of the known round with which a `vldb.st` has looked up the line at `va` (11 R282). -/
def lookKey (va : Nat) : Nat := 2 ^ 63 + 2 * (va / 128) + 1

/-- The key in `rem` of the address whose line the service of a ROUND_STALL fetches from its home (05 R125). -/
def servedKey : Nat := 2 ^ 60 + 1

/-- The key in `rem` of slot `k` suppressed: containment ignores a fault of it (09 R231). -/
def skipKey (k : Nat) : Nat := 2 ^ 62 + k

/-- The slots of the bundle at `pc` that containment has suppressed. -/
def Tile.skips (t : Tile) : List Nat := (List.range 5).filter (fun k => (KMap.look t.rem (skipKey k)).isSome)

/-- What a bundle that is evaluated again keeps of its answers: the slots suppressed. -/
def Tile.forget (t : Tile) : Tile := { t with rem := t.rem.filter (fun e => skipKey 0 ≤ e.1 && e.1 ≤ skipKey 4) }

/-- One piece of a bounded load of tile code on a round-managed page: a `.st` load that finds no copy within its bound waits for
an increment in progress, until the region's stall timeout (05 R125; 11 R282; 20 R371). -/
def State.seqBounded (s : State) (hid : Nat) (h : Half) (t : Tile) (l : Leaf) (bd : Bound) (va pa n : Nat) : SeqAns :=
  let tmo := (((KMap.look s.ctxs h.ctx).bind (fun c => KMap.look c.regions l.region)).map (fun g => g.tmo)).getD 0
  let kr := (KMap.look t.rem (lookKey va)).map (BitVec.setWidth 32)
  let expired := (KMap.look t.rem (stallKey va)).any (fun t0 => t0.toNat + 2 ^ (12 + tmo) ≤ s.chipTime)
  let served := (KMap.look t.rem servedKey).any (fun v => v.toNat / 128 == va / 128)
  let try_ (home : Bool) : Bounded × State := s.loadBounded h.core h.ctx 6 0 l pa n bd.k bd.st ⟨kr, expired, home⟩
  let first := try_ served
  let late := match first.1 with | .late _ => !expired && !s.incBegun (h.ctx * 256 + l.region) | _ => false
  let b := if late then try_ true else first
  match b.1 with
  | .bytes x => .ok x b.2
  | .atHome => .wait b.2
  | .late kr =>
    if expired then .fault 0 0x12 va
    else .wait (s.updT hid (fun t =>
      if (KMap.look t.rem (stallKey va)).isSome then t
      else { t with rem := KMap.put (KMap.put t.rem (stallKey va) s.time64) (lookKey va) (kr.setWidth 64) }))

/-- One piece of a global sequencer read, inside a line, through translation register `xb` of the whole access; `since` is the
number of the next operation when the bundle issued. -/
def State.seqPiece (s : State) (hid : Nat) (h : Half) (t : Tile) (since : Nat) (xb : Bx) (bd : Bound) (va n : Nat) : SeqAns :=
  let r := s.translateBx h.core h.ctx xb va n .read
  match r.1 with
  | .error e => .fault e.1 0x10 va
  | .ok l =>
    let l := r.2.workLeaf h.ctx 6 va l
    let pa := l.pa va
    if r.2.tilePosted hid since then .wait s
    else if l.rem then r.2.tileRemote hid h.ctx t l va va (.read (min n 8))
    else if isRegSpace pa then (if l.so then .ok (r.2.regBytes (pa - Config.regBase) n) r.2 else .fault 6 0x10 va)
    else if r.2.poisonAt h.ctx 6 pa n then .poison
    else if l.rounds then r.2.seqBounded hid h t l bd va pa n
    else
      let b := r.2.loadLine h.core h.ctx 6 0 false l pa n
      match b.1 with
      | some x => .ok x b.2
      | none => .wait b.2

/-- Pieces of `step` bytes from `va` on, one after another by `f`: all the requests of a remote access go out before the bundle
waits. -/
def seqWalk (f : State → Nat → SeqAns) (s : State) (va step : Nat) : Nat → SeqAns
  | 0 => .ok [] s
  | n + 1 =>
    match seqWalk f s va step n with
    | .ok b s' =>
      (match f s' (va + step * n) with
        | .ok c s'' => .ok (b ++ c) s''
        | x => x)
    | .wait s' =>
      (match f s' (va + step * n) with
        | .ok _ s'' => .wait s''
        | x => x)
    | x => x

/-- A sequencer read of `n` bytes. -/
def TileX.seqRead (x : TileX) (a : SeqAddr) (n : Nat) (bd : Bound) : SeqAns :=
  match a with
  | .loc o =>
    match x.s.localPlace x.hid o n with
    | none => .fault causeLocal 0x10 a.num
    | some p => if x.s.locPoisoned p n then .poison else .ok (x.s.locBytes p n) x.s
  | .virt va =>
    if va < 0 || 2 ^ 57 < va + n then .fault 2 0x10 a.num
    else
      let step := min n 8
      seqWalk (fun s y => s.seqPiece x.hid x.h x.t x.since (x.t.xbFor va.toNat n .read) bd y step) x.s va.toNat step (n / step)

/-- Whether commands of a tile context have still to perform. -/
def State.tileQueued (s : State) (hid : Nat) : Bool := s.entries.any (fun e => e.issuer == .tile hid)

/-- The bytes that a sequencer store is about to replace are kept for the commands that were issued before it (07 R196). -/
def State.keepOld (s : State) (hid : Nat) (key : Nat) (old : List Byte) : State :=
  let note (e : QEnt) : QEnt :=
    if e.issuer == .tile hid then
      (List.range old.length).foldl (fun e i =>
        if (e.note (shadowKey (key + i))).isSome then e else e.setNote (shadowKey (key + i)) (nthD old i 0#8).toNat) e
    else e
  if s.tileQueued hid then
    { s with
      queues := KMap.mapv (fun _ q => q.map note) s.queues
      timed := KMap.mapv (fun _ q => q.map (fun e => (e.1, note e.2))) s.timed }
  else s

/-- One piece of a sequencer write through window `l`: before the bundle issues (`dry`) the peer says whether the store may be
made, and what stands there where commands that wait must not see the store (07 R196); then it goes out and the bundle waits
no more (06 R168, 07 R173; 11 R286). -/
def State.seqRemote (s : State) (hid : Nat) (h : Half) (t : Tile) (l : Leaf) (dry : Bool) (va : Nat) (b : List Byte) : SeqAns :=
  if dry then
    match s.tileRemote hid h.ctx t l (askKey va) va (.write []) with
    | .ok _ s' =>
      if s'.tileQueued hid then
        match s'.tileRemote hid h.ctx t l (oldKey va) va (.read b.length) with
        | .wait s'' => .wait s''
        | _ => .ok [] s'
      else .ok [] s'
    | x => x
  else
    let s := match KMap.look t.rem (oldKey va) with
      | some v => s.keepOld hid (2 ^ 80 * (l.frame + 1) + va) (leBytes b.length v.toNat)
      | none => s
    match s.remoteSend h.ctx none (tileHold hid) va l va (.write b) with
    | .error (.fail code c _ _ _) => .fault c code va
    | .error _ => .wait s
    | .ok s' => .ok [] s'

/-- One piece of a global sequencer write, inside a line, through translation register `xb` of the whole access; `dry` only
asks whether it may perform. It waits for the host's answer where the host may hold the line (25 R425). -/
def State.seqStore (s : State) (hid : Nat) (h : Half) (t : Tile) (since : Nat) (xb : Bx) (dry : Bool) (va : Nat)
    (b : List Byte) : SeqAns :=
  let r := s.translateBx h.core h.ctx xb va b.length .write
  match r.1 with
  | .error e => .fault e.1 0x10 va
  | .ok l =>
    let l := r.2.workLeaf h.ctx 6 va l
    let pa := l.pa va
    if r.2.tilePosted hid since then .wait s
    else if l.rem then r.2.seqRemote hid h t l dry va b
    else if isRegSpace pa then
      (if !l.so then .fault 6 0x10 va else if dry then .ok [] r.2 else .ok [] (r.2.regPost 0 (pa - Config.regBase) b))
    else if r.2.writeWaits h.ctx 6 pa b.length then .wait (r.2.snoop pa b.length)
    else if dry then .ok [] r.2
    else
      let g := r.2.gwct pa
      let s := r.2.keepOld hid pa (r.2.standing h.ctx 6 pa b.length)
      .ok [] ((s.storeBytes h.core h.ctx 6 pa b (2 ^ 60 + s.stamp)).updT hid (fun t => { t with gw := max t.gw g }))

/-- A sequencer write. The live gate frame is not written (10 R238). -/
def TileX.seqWrite (x : TileX) (a : SeqAddr) (b : List Byte) : SeqAns :=
  let n := b.length
  match a with
  | .loc o =>
    match x.s.localPlace x.hid o n with
    | none => .fault causeLocal 0x10 a.num
    | some p =>
      if x.s.inFrame { p with off := p.off + n - 1 } then .fault causeLocal 0x10 a.num
      else .ok [] ((x.s.keepOld x.hid (localKey p) (x.s.locBytes p n)).locWrite p b)
  | .virt va =>
    if va < 0 || 2 ^ 57 < va + n then .fault 2 0x10 a.num
    else
      -- every piece may perform before the first does (07 R173)
      let step := min n 8
      let base := va.toNat
      let piece (dry : Bool) (s : State) (va : Nat) : SeqAns :=
        s.seqStore x.hid x.h x.t x.since (x.t.xbFor base n .write) dry va (sub b (va - base) step)
      let go (dry : Bool) : SeqAns := seqWalk (piece dry) x.s base step (n / step)
      match go true with
      | .ok _ _ => go false
      | r => r

/-- MISALIGNED of a sequencer access (26 R436). -/
def misaligned (a : SeqAddr) (n : Nat) : TAns :=
  .fault (trapRec 4 0 (BitVec.ofNat 64 (match a with | .loc o => o | .virt _ => a.num)) (BitVec.ofNat 64 n) 0#64 0#64)

/-- A load of `n` bytes at an address aligned to `al`, and what becomes of them. -/
def TileX.load (x : TileX) (a : SeqAddr) (n al : Nat) (bd : Bound) (k : List Byte → List TWrite) : TAns :=
  if a.num % al != 0 then misaligned a n
  else match x.seqRead a n bd with
    | .ok b s => .done s (k b)
    | .wait s => .wait s
    | .fault c code va => .fault (syncRec code c va)
    | .poison => .poison

/-- A store of bytes at an address aligned to `al`. -/
def TileX.store (x : TileX) (a : SeqAddr) (al : Nat) (b : List Byte) : TAns :=
  if a.num % al != 0 then misaligned a b.length
  else match x.seqWrite a b with
    | .ok _ s => .done s []
    | .wait s => .wait s
    | .fault c code va => .fault (syncRec code c va)
    | .poison => .poison

/-! ### The sequencer's three addresses (06 R165, 07 R180 to R182) -/

/-- Active levels whose body ends at `x`, innermost (started last) first. -/
def Tile.ending (t : Tile) (x : Nat) : List (Nat × LoopLv) :=
  let l := t.loops.filter (fun e => e.2.end_ == x)
  let top := (t.loops.map (fun e => e.2.order)).foldl max 0
  ((List.range (top + 1)).reverse).flatMap (fun o => l.filter (fun e => e.2.order == o))

/-- The decision at the end of a body, level by level from the inside: the first level with a count above 1 repeats; the
counts fall at once (06 R165). -/
def Tile.decide (t : Tile) (next : Nat) : List (Nat × LoopLv) → Nat × Tile
  | [] => (next, t)
  | (l, lv) :: rest =>
    let n := t.lc.get l
    if 1 < n.toNat then
      (lv.start, { t with
        lc := t.lc.set l (n - 1#32), loops := KMap.put t.loops l { lv with left := lv.left + 1, back := lv.back + 1 } })
    else
      Tile.decide { t with
        lc := t.lc.set l 0#32, loops := KMap.put t.loops l { lv with back := lv.back + n.toNat } } next rest

/-- Levels that `away` picks get back the counts that a fetch has taken whose bundles are discarded or lead elsewhere
(07 R180 to R182). -/
def Tile.giveBack (t : Tile) (away : LoopLv → Bool) : Tile :=
  t.loops.foldl (fun t e =>
    if away e.2 then
      { t with
        lc := t.lc.set e.1 (t.lc.get e.1 + BitVec.ofNat 32 e.2.back)
        loops := KMap.put t.loops e.1 { e.2 with left := 0, back := 0 } }
    else t) t

/-- `seq(x)` as `x` enters `nnpc` (06 R165). -/
def Tile.follow (m : Image) (t : Tile) (x : Nat) : Nat × Tile := t.decide (m.seq x) (t.ending x)

/-- An address pointer moved by `d`: its offset, or bits 56:0, wrap; the other bits stay (07 R180, R185). -/
def apMove (ap : DWord) (d : Int) : DWord :=
  if ap.getLsbD 63 then
    (ap &&& 0xFE00000000000000#64) ||| BitVec.ofNat 64 (((ap.toNat % 2 ^ 57 : Nat) + d) % (2 ^ 57 : Int)).toNat
  else (ap &&& 0xFFFFFFFF00000000#64) ||| BitVec.ofNat 64 (((ap.toNat % 2 ^ 32 : Nat) + d) % (2 ^ 32 : Int)).toNat

/-- The strides of level `l` added (07 R180). -/
def Tile.strides (t : Tile) (l : Nat) : Tile :=
  (List.range 4).foldl (fun t i =>
    t.write ⟨tkAp i, (apMove (t.ap.get i) (t.sd.get (4 * l + i)).toInt).toNat, 1⟩) t

/-- The end of an iteration, level by level from the inside: a level whose iteration was the last goes inactive, and the
next one around it ends its iteration too (07 R180). -/
def Tile.endIter (t : Tile) : List (Nat × LoopLv) → Tile
  | [] => t
  | (l, lv) :: rest =>
    let t := t.strides l
    if lv.left != 0 then { t with loops := KMap.put t.loops l { lv with left := lv.left - 1, back := lv.back - 1 } }
    else Tile.endIter { t with loops := KMap.del t.loops l } rest

/-- Whether a position lies in a level's body. -/
def LoopLv.has (l : LoopLv) (x : Nat) : Bool := l.start ≤ x && x ≤ l.end_

/-- The step to the next bundle (06 R165). `ran` says that the bundle was not annulled. -/
def Tile.advance (m : Image) (t : Tile) (ran : Bool) (f : Flow) : Tile :=
  let t := if ran then t.endIter (t.ending t.pc) else t
  let t : Tile := match f with
    | .loop go last =>
      let npc := if go then m.seq t.pc else m.seq last
      let a := t.follow m npc
      let b := a.2.follow m a.1
      { b.2 with npc := npc, nnpc := a.1, after := b.1, an0 := false, an1 := false }
    | .branch (some goal) _ =>
      { t.giveBack (fun lv => !lv.has goal) with loops := t.loops.filter (fun e => e.2.has goal) }
    | _ => t
  let (taken, nul) := match f with
    | .branch goal n => (goal, n)
    | _ => (none, 0)
  let isBr := match f with
    | .branch _ _ => true
    | _ => false
  let annul := isBr && ((nul == 1 && taken.isNone) || (nul == 2 && taken.isSome))
  let nn := taken.getD t.after
  let c := t.follow m nn
  { c.2 with
    pc := t.npc, npc := t.nnpc, nnpc := nn, after := c.1, an0 := t.an1 || annul, an1 := annul,
    queued := if taken.isSome then 2 else t.queued - 1, rem := [] }

/-- An image with nothing in it. -/
def Image.empty : Image := ⟨[], 0#64, [], [], [], [], [], 0, 0⟩

/-- The end of a bundle: its writes, the count of latencies, and the step. A `gret` leaves the position and closes
(06 R166). -/
def State.tileStep (s : State) (hid : Nat) (ran : Bool) (w : List TWrite) (f : Flow) : State :=
  let m := (((KMap.look s.halves hid).bind s.imageOf)).getD Image.empty
  let upd (t : Tile) : Tile :=
    let t := w.foldl Tile.write t.count
    if f == .gret then { t with closing := true, rem := [] } else t.advance m ran f
  (s.updT hid upd).updH hid (fun h => if ran then { h with retries := h.retries.filter (fun e => 10 ≤ e.1) } else h)

/-! ### Containment of synchronous faults (09 R230 to R232; 12 R291) -/

/-- What becomes of a synchronous trap of the operation in `slot` with portable index `op`: the frame records it (12 R291,
log entry 96), and containment decides; `none` where it is ignored and the bundle is to run without the slot, else the
machine after the decision. A decision that lets the context go on clears the frame's fault. -/
def State.tileTrap (s : State) (hid slot op : Nat) (r : FaultRec) : Option State × State :=
  match KMap.look s.halves hid with
  | none => (some s, s)
  | some h =>
    let r := { r with at_ := BitVec.ofNat 64 op }
    let s := s.tileFault hid ⟨1, slot, op, 0, r, 0⟩ false
    let pol (l : Nat) : Nat := ((s.lrOf h).map (fun x => x.policy l)).getD 3
    let note := s.record h.ctx 1 1 hid 0 (s.tilePlace hid) r
    let bump (s : State) (l : Nat) : State :=
      s.updH hid (fun h => { h with retries := h.retries.set l (h.retries.get l + 1#8) })
    match containment pol (fun l => (h.retries.get l).toNat) [1, 2, 3] with
    | .ignore l => (none, ((if l == 3 then note else s).absorb h.ctx).tileClean hid)
    | .retry l => let s' := (bump ((if l == 3 then note else s).absorb h.ctx) l).tileClean hid; (some s', s')
    | .kill 2 => let s' := withTraps (note.killGrid h.launch); (some s', s')
    | .kill 3 => let s' := withTraps (note.killCtx h.ctx r.code); (some s', s')
    | .kill _ => let s' := withTraps (note.killTeam hid); (some s', s')
    | .fatal => let s' := note.fatal h.ctx r.code r 1 hid (s.tilePlace hid); (some s', s')

/-- Whether a fault of a tile context asks for service before containment (17 R335, 05 R125). -/
def FaultRec.recoverable (r : FaultRec) : Bool := r.code == 0x10 || r.code == 0x12 || r.code == 0x13

/-- A recoverable synchronous fault stops the tile context before its bundle (06 R168). -/
def State.tilePark (s : State) (hid slot op : Nat) (r : FaultRec) (what : Nat := 0) : State :=
  (s.updT hid Tile.forget).tileFault hid ⟨1, slot, op, 0, { r with at_ := BitVec.ofNat 64 op }, what⟩ true

/-- Slot `k` of the bundle at `pc` is suppressed: a fault of it is ignored (09 R231). -/
def State.tileSkip (s : State) (hid k : Nat) : State :=
  s.updT hid (fun t => { t with rem := KMap.put t.rem (skipKey k) 1#64 })

/-- The words that ignore writes to a register destination (09 R231). -/
def ignoreVal (k : Nat) : Nat :=
  if k < 100 then 0x7FFFFFFF
  else if k < 110 then 0x7FFFFFFF7FFFFFFF
  else if k < 140 then 0x7FFFFFFF
  else if k < 200 then 0x7FFFFFFF7FFFFFFF
  else packElems 32 (List.replicate 128 0x7FFFFFFF)

/-- The register destinations of a tile operation. -/
def tileDest (i : Instr) : List Nat :=
  match i with
  | .cadd f | .csub f | .cmul f | .cand f | .cor f | .cxor f | .cshl f | .cshr f | .csar f | .cmov f | .ccmp f | .cld f
  | .cgets f | .vred f | .tskip f | .bfence f => [f.d.toNat]
  | .cmovi f => [f.d.toNat]
  | .jal f => [f.d.toNat]
  | .apset f => [tkAp f.d.toNat]
  | .apadd f | .apld f => [tkAp f.d.toNat]
  | .sdset f => [tkSd f.d.toNat]
  | .lcset f => [tkLc f.d.toNat]
  | .tbind f => [tkT f.d.toNat]
  | .vld f | .vldb f | .vbcast f | .vperm f | .vsel f => [tkW f.d.toNat]
  | .vcvt f =>
    let r := fmtBits f.f2.toNat / fmtBits f.f1.toNat
    (List.range (max 1 r)).map (fun i => tkW (f.d.toNat + i))
  | .vcas f => if f.xw then [tkW f.wz.toNat, tkW (f.wz.toNat + 1)] else [tkW f.wz.toNat]
  | _ => []

/-- The writes of ignore for a suppressed slot. -/
def ignoreSlot (i : Instr) : List TWrite := (tileDest i).map (fun k => ⟨k, ignoreVal k, 0⟩)

/-! ### One operation alone -/

/-- The slot that an operation's class takes (06 R161): 0 C, 1 A, 2 V, 3 E0. -/
def slotOf (i : Instr) : Nat := fld (encode i) 8 3

/-- One operation on the current tile context, as the only slot of its bundle (06 R158, R163, R165): it takes effect and
the sequencer steps on; a wait leaves the machine as it is but for requests sent. -/
def tileOp (i : Instr) (s : State) (eff : TileX → TAns) : Res :=
  match s.cur with
  | .tile hid =>
    match KMap.look s.halves hid with
    | none => .fault .noCurrent
    | some h =>
      match h.tile with
      | none => .fault .noCurrent
      | some t =>
        let x : TileX := ⟨s, hid, h, t, s.nextId⟩
        let op := (((s.imageOf h).getD Image.empty).indexOf t.pc)
        let trap (r : FaultRec) : Res :=
          if r.recoverable then .next (s.tilePark hid (slotOf i) op r)
          else match s.tileTrap hid (slotOf i) op r with
            | (some s', _) => .next s'
            | (none, s') => .next (s'.tileStep hid true (ignoreSlot i) .next)
        match i.check 256 with
        | some c => trap (trapRec 1 c (encode i) (BitVec.ofNat 64 t.pc) 0#64 0#64)
        | none =>
          match eff x with
          | .ok s' w f => .next (s'.tileStep hid true w f)
          | .wait s' => .next s'
          | .fault r => trap r
          | .poison => .next (s.fatal h.ctx 0x30 (fatalRec 0x30 0#64) 1 hid (s.tilePlace hid))
  | _ => .fault .noCurrent

end Sys2Proof.Machine
end

