-- ==== Sys2Proof/Machine/TileScalar.lean ====
section
/-! DEFINITION. TileScalar.lean: the C and A slots (07 R174 to R185): scalar arithmetic, loads and stores, jumps, hardware
loops, special values, `gret`, and address pointers. An operation's effect `eff…` serves the portable form and the bundle;
the numbers in its writes are the latencies of 07 R211. -/
namespace Sys2Proof.Machine

/-- A write of scalar register `r`. -/
def wC (r : BitVec 5) (v : Word) (lat : Nat) : List TWrite := [⟨r.toNat, v.toNat, lat⟩]

/-- Source B of a scalar operation: a register, or the immediate `imm` of SUB 1 (07 R174). -/
def TileX.opB (x : TileX) (f : GFmt) (imm : Word) : Word := if f.sub == 1#5 then imm else x.c f.b

/-- CNOP has no effect (06 R157). -/
def effCnop (_ : GFmt) (x : TileX) : TAns := .done x.s []
/-- CNOP. -/
def execCnop (f : GFmt) (s : State) : Res := tileOp (.cnop f) s (effCnop f)

/-- CADD: A + B. -/
def effCadd (f : GFmt) (x : TileX) : TAns := .done x.s (wC f.d (x.c f.a + x.opB f (f.imm.signExtend 32)) 2)
/-- CADD. -/
def execCadd (f : GFmt) (s : State) : Res := tileOp (.cadd f) s (effCadd f)

/-- CSUB: A − B. -/
def effCsub (f : GFmt) (x : TileX) : TAns := .done x.s (wC f.d (x.c f.a - x.opB f (f.imm.signExtend 32)) 2)
/-- CSUB. -/
def execCsub (f : GFmt) (s : State) : Res := tileOp (.csub f) s (effCsub f)

/-- CMUL: the low 32 bits of A × B. -/
def effCmul (f : GFmt) (x : TileX) : TAns := .done x.s (wC f.d (x.c f.a * x.opB f (f.imm.signExtend 32)) 3)
/-- CMUL. -/
def execCmul (f : GFmt) (s : State) : Res := tileOp (.cmul f) s (effCmul f)

/-- CAND, the immediate zero-extended. -/
def effCand (f : GFmt) (x : TileX) : TAns := .done x.s (wC f.d (x.c f.a &&& x.opB f (f.imm.setWidth 32)) 2)
/-- CAND. -/
def execCand (f : GFmt) (s : State) : Res := tileOp (.cand f) s (effCand f)

/-- COR, the immediate zero-extended. -/
def effCor (f : GFmt) (x : TileX) : TAns := .done x.s (wC f.d (x.c f.a ||| x.opB f (f.imm.setWidth 32)) 2)
/-- COR. -/
def execCor (f : GFmt) (s : State) : Res := tileOp (.cor f) s (effCor f)

/-- CXOR, the immediate zero-extended. -/
def effCxor (f : GFmt) (x : TileX) : TAns := .done x.s (wC f.d (x.c f.a ^^^ x.opB f (f.imm.setWidth 32)) 2)
/-- CXOR. -/
def execCxor (f : GFmt) (s : State) : Res := tileOp (.cxor f) s (effCxor f)

/-- CSHL, with the count rule of 04 R86. -/
def effCshl (f : GFmt) (x : TileX) : TAns := .done x.s (wC f.d (shlW (x.c f.a) (x.opB f (f.imm.setWidth 32)).toNat) 2)
/-- CSHL. -/
def execCshl (f : GFmt) (s : State) : Res := tileOp (.cshl f) s (effCshl f)

/-- CSHR, with the count rule of 04 R86. -/
def effCshr (f : GFmt) (x : TileX) : TAns := .done x.s (wC f.d (shrW (x.c f.a) (x.opB f (f.imm.setWidth 32)).toNat) 2)
/-- CSHR. -/
def execCshr (f : GFmt) (s : State) : Res := tileOp (.cshr f) s (effCshr f)

/-- CSAR, with the count rule of 04 R86. -/
def effCsar (f : GFmt) (x : TileX) : TAns := .done x.s (wC f.d (sarW (x.c f.a) (x.opB f (f.imm.setWidth 32)).toNat) 2)
/-- CSAR. -/
def execCsar (f : GFmt) (s : State) : Res := tileOp (.csar f) s (effCsar f)

/-- CMOV. -/
def effCmov (f : GFmt) (x : TileX) : TAns := .done x.s (wC f.d (x.c f.a) 2)
/-- CMOV. -/
def execCmov (f : GFmt) (s : State) : Res := tileOp (.cmov f) s (effCmov f)

/-- CMOVI: IMM32. -/
def effCmovi (f : KFmt) (x : TileX) : TAns := .done x.s (wC f.d f.imm 2)
/-- CMOVI. -/
def execCmovi (f : KFmt) (s : State) : Res := tileOp (.cmovi f) s (effCmovi f)

/-- CCMP: 1 when the relation of SUB bits 3:0 holds; SUB bit 4 takes the immediate (07 R175). -/
def effCcmp (f : GFmt) (x : TileX) : TAns :=
  let b := if f.sub.getLsbD 4 then f.imm.signExtend 32 else x.c f.b
  .done x.s (wC f.d (BitVec.ofNat 32 (b2n (isetRel (f.sub.toNat % 16) (x.c f.a) b))) 2)
/-- CCMP. -/
def execCcmp (f : GFmt) (s : State) : Res := tileOp (.ccmp f) s (effCcmp f)

/-- CLD (07 R176). -/
def effCld (f : GFmt) (x : TileX) : TAns :=
  x.load (seqAddr (x.ap f.p.toNat) f.imm) 4 4 ⟨0, false⟩ (fun b => wC f.d (BitVec.ofNat 32 (leNat b)) 4)
/-- CLD. -/
def execCld (f : GFmt) (s : State) : Res := tileOp (.cld f) s (effCld f)

/-- CST (07 R176). -/
def effCst (f : GFmt) (x : TileX) : TAns :=
  x.store (seqAddr (x.ap f.p.toNat) f.imm) 4 (leBytes 4 (x.c f.a).toNat)
/-- CST. -/
def execCst (f : GFmt) (s : State) : Res := tileOp (.cst f) s (effCst f)

/-! ### Jumps (07 R178, R179) -/

/-- The position `OFF20` words from the bundle's own header (06 R161). -/
def TileX.target (x : TileX) (off : BitVec 20) : Nat := (((x.t.pc : Nat) + 8 * off.toInt : Int) % (2 ^ 64 : Int)).toNat

/-- JMP. -/
def effJmp (f : JFmt) (x : TileX) : TAns := .ok x.s [] (.branch (some (x.target f.off)) f.nul.toNat)
/-- JMP. -/
def execJmp (f : JFmt) (s : State) : Res := tileOp (.jmp f) s (effJmp f)

/-- The condition of `jc`, on cA read as s32. -/
def jcHolds (sub : Nat) (a : Word) : Bool :=
  match sub with
  | 0 => a != 0#32
  | 1 => a == 0#32
  | 2 => a.toInt < 0
  | 3 => 0 ≤ a.toInt
  | 4 => 0 < a.toInt
  | _ => a.toInt ≤ 0

/-- JC. -/
def effJc (f : JFmt) (x : TileX) : TAns :=
  .ok x.s [] (.branch (if jcHolds f.sub.toNat (x.c f.a) then some (x.target f.off) else none) f.nul.toNat)
/-- JC. -/
def execJc (f : JFmt) (s : State) : Res := tileOp (.jc f) s (effJc f)

/-- JAL: the link is the bundle after the two delay bundles (06 R165). -/
def effJal (f : JFmt) (x : TileX) : TAns :=
  .ok x.s (wC f.d (BitVec.ofNat 32 x.t.after) 2) (.branch (some (x.target f.off)) f.nul.toNat)
/-- JAL. -/
def execJal (f : JFmt) (s : State) : Res := tileOp (.jal f) s (effJal f)

/-- JR: to the position in cA. -/
def effJr (f : GFmt) (x : TileX) : TAns := .ok x.s [] (.branch (some (x.c f.a).toNat) 0)
/-- JR. -/
def execJr (f : GFmt) (s : State) : Res := tileOp (.jr f) s (effJr f)

/-- LOOP (07 R180 to R182). -/
def effLoop (f : JFmt) (x : TileX) : TAns :=
  let l := f.d.toNat
  let n := if f.sub == 0#5 then x.c f.a else x.lc l
  let m := ((x.s.imageOf x.h).getD Image.empty)
  let start := m.seq x.t.pc
  let last := x.target f.off
  let others := x.t.loops.filter (fun e => e.1 != l)
  if x.t.queued != 0 then x.ill (.loop f) 7
  else if others.any (fun e => !(e.2.has start && e.2.has last)) then x.ill (.loop f) 6
  else if n == 0#32 then
    let upd (t : Tile) : Tile := { t with loops := KMap.del t.loops l }
    .ok (x.s.updT x.hid (fun t => upd (t.giveBack (fun _ => true)))) [] (.loop false last)
  else
    let order := (x.t.loops.map (fun e => e.2.order)).foldl max 0 + 1
    let upd (t : Tile) : Tile := { t with loops := KMap.put t.loops l ⟨start, last, order, 0, 0⟩, lc := t.lc.set l n }
    .ok (x.s.updT x.hid (fun t => upd (t.giveBack (fun _ => true)))) [] (.loop true last)
/-- LOOP. -/
def execLoop (f : JFmt) (s : State) : Res := tileOp (.loop f) s (effLoop f)

/-! ### Special values and `gret` (07 R183, R184) -/

/-- Whether commands of a tile context name stream `q` (07 R202). -/
def State.streamBusy (s : State) (hid q : Nat) : Bool :=
  s.entries.any (fun e => e.issuer == .tile hid && (match e.cmd with
    | .fill _ x => x == q
    | .mma _ _ a b _ _ => a == q || b == q
    | .sdrop x _ => x == q
    | _ => false))

/-- The value numbered `n`. -/
def TileX.special (x : TileX) (n : Nat) : Word :=
  match n with
  | 0x00 => x.t.cfm
  | 0x01 => x.t.cfx
  | 0x02 => x.t.batch
  | 0x03 => loWord x.s.time64
  | 0x04 => hiWord x.t.latchT
  | 0x05 => BitVec.ofNat 32 x.h.half
  | 0x06 => BitVec.ofNat 32 x.h.team
  | 0x07 => x.t.migrations
  | _ =>
    if n < 0x0C then x.lc (n - 8)
    else if n < 0x18 then (x.t.stream (n - 0x10)).ring
    else BitVec.ofNat 32 (x.t.stream (n - 0x18)).level

/-- CGETS; a read of the low half of chip time captures the latch. -/
def effCgets (f : GFmt) (x : TileX) : TAns :=
  let n := f.imm.toNat
  .done (if n == 3 then x.s.updT x.hid (fun t => { t with latchT := x.s.time64 }) else x.s) (wC f.d (x.special n) 2)
/-- CGETS. -/
def execCgets (f : GFmt) (s : State) : Res := tileOp (.cgets f) s (effCgets f)

/-- Whether two rings share a byte. -/
def ringsMeet (a b : StreamQ) : Bool :=
  a.geom.2 != 0 && b.geom.2 != 0 && a.geom.1 < b.geom.1 + b.geom.2 && b.geom.1 < a.geom.1 + a.geom.2

/-- CSETS: `cfm` governs from two bundles on; `qring` under the rules of 07 R202. DESIGN CHOICE (log entry 104): a write of
`cfx` or `qring` takes effect at once, so that a `cgets` inside its latency of 2 reads the new value (07 R183). -/
def effCsets (f : GFmt) (x : TileX) : TAns :=
  let n := f.imm.toNat
  let v := x.c f.a
  if n == 0 then
    (if v.extractLsb' 6 26 != 0#26 then x.ill (.csets f) 6 else .done x.s [⟨tkCfm, v.toNat, 2⟩])
  else if n == 1 then .done (x.s.updT x.hid (fun t => { t with cfx := v &&& 0x1F#32 })) []
  else if n < 0x0C then .done x.s [⟨tkLc (n - 8), v.toNat, 2⟩]
  else
    let q := n - 0x10
    let new : StreamQ := ⟨v, 0, 0⟩
    let others := (List.range 8).filter (fun k => k != q)
    if new.geom.2 != 0 && 16384 * x.h.tobBanks < new.geom.1 + new.geom.2 then x.ill (.csets f) 6
    else if others.any (fun k => ringsMeet new (x.t.stream k)) then x.ill (.csets f) 6
    else if (x.t.stream q).level != 0 || x.s.streamBusy x.hid q then x.ill (.csets f) 7
    else .done (x.s.updT x.hid (fun t => { t with q := KMap.put t.q q new })) []
/-- CSETS. -/
def execCsets (f : GFmt) (s : State) : Res := tileOp (.csets f) s (effCsets f)

/-- Whether a command that the context issued has not completed. -/
def State.tileBusy (s : State) (hid : Nat) : Bool := s.entries.any (fun e => e.issuer == .tile hid)

/-- GRET waits for every command of the context, then closes the gate (07 R184, 12 R293). -/
def effGret (_ : GFmt) (x : TileX) : TAns := if x.s.tileBusy x.hid then .wait x.s else .ok x.s [] .gret
/-- GRET. -/
def execGret (f : GFmt) (s : State) : Res := tileOp (.gret f) s (effGret f)

/-! ### The A slot (07 R185) -/

/-- APSET: a local offset. -/
def effApset (f : KFmt) (x : TileX) : TAns := .done x.s [⟨tkAp f.d.toNat, f.imm.toNat, 1⟩]
/-- APSET. -/
def execApset (f : KFmt) (s : State) : Res := tileOp (.apset f) s (effApset f)

/-- APADD: a stride or an immediate, wrapping in the pointer's field. -/
def effApadd (f : GFmt) (x : TileX) : TAns :=
  let d : Int := if f.sub == 0#5 then (x.sd f.b.toNat).toInt else f.imm.toInt
  .done x.s [⟨tkAp f.d.toNat, (apMove (x.ap f.d.toNat) d).toNat, 1⟩]
/-- APADD. -/
def execApadd (f : GFmt) (s : State) : Res := tileOp (.apadd f) s (effApadd f)

/-- SDSET. -/
def effSdset (f : KFmt) (x : TileX) : TAns := .done x.s [⟨tkSd f.d.toNat, f.imm.toNat, 1⟩]
/-- SDSET. -/
def execSdset (f : KFmt) (s : State) : Res := tileOp (.sdset f) s (effSdset f)

/-- LCSET. -/
def effLcset (f : KFmt) (x : TileX) : TAns := .done x.s [⟨tkLc f.d.toNat, f.imm.toNat, 1⟩]
/-- LCSET. -/
def execLcset (f : KFmt) (s : State) : Res := tileOp (.lcset f) s (effLcset f)

/-- APLD: a virtual pointer; SUB 1 to 4 also fill `xb`(SUB − 1) as `xlat` does (04 R91). -/
def effApld (f : GFmt) (x : TileX) : TAns :=
  let p := x.cPair f.a
  if p.extractLsb' 57 7 != 0#7 then x.ill (.apld f) 6
  else
    let k := f.sub.toNat
    let s := if k == 0 then x.s
      else
        let r := x.s.fillBx x.h.core x.h.ctx p ((KMap.look x.t.xb (k - 1)).getD Bx.invalid)
        r.2.updT x.hid (fun t => { t with xb := KMap.put t.xb (k - 1) r.1 })
    .done s [⟨tkAp f.d.toNat, p.toNat + 2 ^ 63, 1⟩]
/-- APLD. -/
def execApld (f : GFmt) (s : State) : Res := tileOp (.apld f) s (effApld f)

end Sys2Proof.Machine
end

