-- ==== Sys2Proof/Machine/TileVector.lean ====
section
/-! DEFINITION. TileVector.lean: the V slot (07 R186 to R195): the cascade, vector loads and stores, conversions,
reductions, broadcasts, permutations and selections. A vector register is the number of its 512 bytes. -/
namespace Sys2Proof.Machine

/-- Elements of width `b` of a vector (07 R186). -/
def vecElems (b v : Nat) : List Nat := (List.range (4096 / b)).map (fun i => elem v b i)

/-- A write of vector register `r`. -/
def wW (r v lat : Nat) : List TWrite := [⟨tkW r, v, lat⟩]

/-! ### The cascade (07 R188, R189) -/

/-- The value of a stage: exact, with whether it rounds to nearest-even whatever `cfm` says; or a pattern that is kept. -/
inductive CasVal where
  | num (x : Exact) (rne : Bool)
  | bits (x : Nat)
  deriving DecidableEq, Repr

/-- An exact value that is no NaN as an operand; a NaN gives its first one. -/
def Exact.toFV : Exact → FV
  | .nan ops _ => ((ops.find? FV.isNan).getD (.nan false true 0x400000))
  | .inf s => .inf s
  | .zero s => .num s 0 0
  | .num s m e => .num s m e

/-- A value on its way to a destination. -/
def FV.toExact : FV → Exact
  | .nan s q fr => .nan [.nan s q fr] false
  | .inf s => .inf s
  | .num s m e => if m = 0 then .zero s else .num s m e

/-- The exact value of a stage, which a fused one takes (07 R189). -/
def CasVal.exact (f : FFmt) : CasVal → Exact
  | .num x _ => x
  | .bits b => (decodeF f false b).toExact

/-- An exact value with its sign turned. -/
def Exact.neg : Exact → Exact
  | .nan ops inv => .nan ops inv
  | .inf s => .inf (!s)
  | .zero s => .zero (!s)
  | .num s m e => .num (!s) m e

/-- The exact sum of two values. -/
def addExact (rm : Nat) (a b : FV) : Exact := if a.isNan || b.isNan then .nan [a, b] false else sumFV rm [a, b]

/-- The exact sum of a product and a value: the operands of an invalid or NaN product come before the addend (02 R48). -/
def addFused (rm : Nat) (p : Exact) (q : FV) : Exact :=
  match p with
  | .nan ops inv => .nan (ops ++ [q]) inv
  | x => addExact rm x.toFV q

/-- The exact product of two values. -/
def mulExact (a b : FV) : Exact :=
  if a.isNan || b.isNan then .nan [a, b] false
  else match mulFV a b with
    | none => .nan [] true
    | some x => x.toExact

/-- A stage on floating-point patterns `p` and `q`, `prev` the value before it (07 R189), with its flags. -/
def casStage (v : FEnv) (f : FFmt) (code p q : Nat) (prev : CasVal) : CasVal × Word :=
  let a := decodeF f false p
  let b := decodeF f false q
  let r (x : Exact) : CasVal × Word := (.num x false, 0#32)
  let sf (x : Exact × Word) : CasVal × Word := (.num x.1 true, x.2)
  let cmp (rel : Nat) : CasVal × Word := let c := fCompare rel a b; (.bits (if c.1 then f.oneEnc else 0), c.2)
  let qNot0 := !b.isZero
  match code with
  | 0 => r (addExact v.rm a b)
  | 1 => r (addExact v.rm a b.neg)
  | 2 => r (addExact v.rm a.neg b)
  | 3 => r (mulExact a b)
  | 4 => let m := fMinMax v f false p q; (.bits m.1, m.2)
  | 5 => let m := fMinMax v f true p q; (.bits m.1, m.2)
  | 6 => (.bits p, 0#32)
  | 7 => (.bits q, 0#32)
  | 8 => sf (sfEx2 0 a)
  | 9 => sf (sfRcp a)
  | 10 => sf (sfRsq a)
  | 11 =>
    match addExact v.rm a b.neg with
    | .nan ops inv => (.num (.nan ops inv) true, 0#32)
    | x => sf (sfEx2 0 x.toFV)
  | 12 => r (addFused v.rm (prev.exact f) b)
  | 13 => r (addFused v.rm (prev.exact f) b.neg)
  | 14 => r (addFused v.rm (prev.exact f).neg b)
  | 15 => cmp 2
  | 16 => cmp 3
  | 17 => cmp 0
  | 18 => cmp 1
  | 19 => (.bits (if qNot0 then p else 0), 0#32)
  | 20 => (.bits (if qNot0 then p else f.put true f.infEnc), 0#32)
  | 21 => (.bits (p &&& q), 0#32)
  | 22 => (.bits (p ||| q), 0#32)
  | _ => (.bits (p ^^^ q), 0#32)

/-- A stage's value rounded, with the scale and clamp in `v`; a kept pattern rounds only under a scale (07 R188). -/
def casRound (v : FEnv) (f : FFmt) (x : CasVal) : Nat × Word :=
  match x with
  | .num e rne => deliver (if rne then { v with rm := 0 } else v) f e
  | .bits b =>
    if v.sc == 0 then (clampF f v.cl b, 0#32) else deliver v f (decodeF f false b).toExact

/-- One element of a floating-point cascade: z, r1 and the flags. -/
def casElem (v : FEnv) (f : FFmt) (ps : Int) (cl o1 o2 o3 a b c d : Nat) : Nat × Nat × Word :=
  let e1 := casStage v f o1 a b (.bits a)
  let r1 := casRound v f e1.1
  let e2 := casStage v f o2 r1.1 c e1.1
  let r2 := casRound v f e2.1
  let e3 := casStage v f o3 r2.1 d e2.1
  let z := casRound { v with sc := ps, cl := cl, sat := cl == 2 } f e3.1
  (z.1, r1.1, e1.2 ||| r1.2 ||| e2.2 ||| r2.2 ||| e3.2 ||| z.2)

/-- A stage on s32 values: the exact result. -/
def casInt (code : Nat) (p q : Int) : Int :=
  let t (b : Bool) : Int := if b then 1 else 0
  let bw (f : Word → Word → Word) : Int := (f (BitVec.ofInt 32 p) (BitVec.ofInt 32 q)).toInt
  match code with
  | 0 => p + q
  | 1 => p - q
  | 2 => q - p
  | 3 => p * q
  | 4 => if p < q then p else q
  | 5 => if p < q then q else p
  | 6 => p
  | 7 => q
  | 15 => t (p < q)
  | 16 => t (p ≤ q)
  | 17 => t (p == q)
  | 18 => t (p != q)
  | 19 => if q != 0 then p else 0
  | 20 => if q != 0 then p else -(2 ^ 31)
  | 21 => bw (· &&& ·)
  | 22 => bw (· ||| ·)
  | _ => bw (· ^^^ ·)

/-- One element of an s32 cascade: z and r1. -/
def casElemInt (cl o1 o2 o3 : Nat) (a b c d : Int) : Nat × Nat :=
  let w (x : Int) : Int := intVal 32 true (wrapTo 32 x)
  let r1 := w (casInt o1 a b)
  let r2 := w (casInt o2 r1 c)
  (deliverInt 32 true cl (casInt o3 r2 d), wrapTo 32 r1)

/-- A source element: DAZ, then the modifier coded 0 none, 1 negate, 2 absolute value, 3 both (06 R156, 07 R188). -/
def casSrc (f : FFmt) (daz : Bool) (m : Nat) (x : Nat) : Nat :=
  let x := match decodeF f daz x with
    | .num s 0 _ => f.put s 0
    | _ => x
  fltMods f (2 ≤ m) (m % 2 == 1) x

/-- VCAS. -/
def effVcas (f : VFmt) (x : TileX) : TAns :=
  let o1 := f.op1.toNat
  let o2 := f.op2.toNat
  let o3 := f.op3.toNat
  let slow := [o1, o2, o3].any (fun o => 8 ≤ o && o ≤ 11)
  let lat := if slow then 10 else 6
  let isInt := f.ty == 3#2
  let ff := fmtOf f.ty.toNat
  let b := if f.ty == 0#2 || isInt then 32 else 16
  let v0 := envOf x.t.cfm
  let v : FEnv := { v0 with daz := false }
  let rows := (((vecElems b (x.w f.wa.toNat)).zip (vecElems b (x.w f.wb.toNat))).zip
    ((vecElems b (x.w f.wc.toNat)).zip (vecElems b (x.w f.wd.toNat))))
  let one (p : (Nat × Nat) × (Nat × Nat)) : Nat × Nat × Word :=
    if isInt then
      let src (m : Nat) (y : Nat) : Int := intMods 32 true (2 ≤ m) (m % 2 == 1) (intVal 32 true y)
      let r := casElemInt f.cl.toNat o1 o2 o3 (src f.ma.toNat p.1.1) (src f.mb.toNat p.1.2) (src f.mc.toNat p.2.1)
        (src 0 p.2.2)
      (r.1, r.2, 0#32)
    else
      casElem v ff f.ps.toInt f.cl.toNat o1 o2 o3 (casSrc ff v0.daz f.ma.toNat p.1.1)
        (casSrc ff v0.daz f.mb.toNat p.1.2) (casSrc ff v0.daz f.mc.toNat p.2.1) (casSrc ff v0.daz 0 p.2.2)
  let res := rows.map one
  let z := wW f.wz.toNat (packElems b (res.map (fun e => e.1))) lat
  let r1 := if f.xw then wW (f.wz.toNat + 1) (packElems b (res.map (fun e => e.2.1))) lat else []
  .done (x.s.tileFlags x.hid (res.foldl (fun a e => a ||| e.2.2) 0#32)) (z ++ r1)
/-- VCAS. -/
def execVcas (f : VFmt) (s : State) : Res := tileOp (.vcas f) s (effVcas f)

/-! ### Loads and stores (07 R191, R192) -/

/-- Whether a matrix command of the context names accumulator `a` (07 R191). -/
def State.accBusy (s : State) (hid a : Nat) : Bool :=
  s.entries.any (fun e => e.issuer == .tile hid && (match e.cmd with
    | .mma _ x _ _ _ _ => x == a
    | .ast x _ _ => x == a
    | .ald x _ => x == a
    | .amask x _ _ _ => x == a
    | _ => false))

/-- An operation on accumulator `a`: ILLEGAL beyond the grant (01 R31), a wait while a command names it. -/
def TileX.withAcc (x : TileX) (i : Instr) (a : Nat) (k : TAns) : TAns :=
  if x.t.grant ≤ a then x.ill i 2 else if x.s.accBusy x.hid a then .wait x.s else k

/-- VLD: 512 bytes, or a row of an accumulator. -/
def effVld (f : GFmt) (x : TileX) : TAns :=
  if f.sub == 0#5 then
    x.load (seqAddr (x.ap f.p.toNat) f.imm) 512 64 ⟨0, false⟩ (fun b => wW f.d.toNat (leNat b) 5)
  else
    x.withAcc (.vld f) f.a.toNat
      (.done x.s (wW f.d.toNat (packElems 32 ((List.range 128).map (fun j =>
        (x.t.acc.get (accKey f.a.toNat f.imm.toNat j)).toNat))) 5))
/-- VLD. -/
def execVld (f : GFmt) (s : State) : Res := tileOp (.vld f) s (effVld f)

/-- VST: 512 bytes, or a row of an accumulator. -/
def effVst (f : GFmt) (x : TileX) : TAns :=
  let v := x.w f.a.toNat
  if f.sub == 0#5 then x.store (seqAddr (x.ap f.p.toNat) f.imm) 64 (leBytes 512 v)
  else
    let a := f.d.toNat
    let set (t : Tile) : Tile := { t with acc := (List.range 128).foldl (fun (m : Regs 32) j =>
      m.set (accKey a f.imm.toNat j) (BitVec.ofNat 32 (elem v 32 j))) t.acc }
    x.withAcc (.vst f) a (.done (x.s.updT x.hid set) [])
/-- VST. -/
def execVst (f : GFmt) (s : State) : Res := tileOp (.vst f) s (effVst f)

/-- VLDB: a load with a staleness bound. -/
def effVldb (f : GFmt) (x : TileX) : TAns :=
  x.load (seqAddr (x.ap f.p.toNat) f.imm) 512 64 ⟨f.c.toNat, f.sub == 1#5⟩ (fun b => wW f.d.toNat (leNat b) 5)
/-- VLDB. -/
def execVldb (f : GFmt) (s : State) : Res := tileOp (.vldb f) s (effVldb f)

/-! ### Conversions, reductions and moves (07 R193 to R195) -/

/-- VCVT: the register pairs and quads of 07 R187. -/
def effVcvt (f : GFmt) (x : TileX) : TAns :=
  let src := f.f1.toNat
  let dst := f.f2.toNat
  let sb := elemBits src
  let db := elemBits dst
  let v : FEnv := { envOf x.t.cfm with sat := f.sub == 1#5, sc := (f.imm.setWidth 4).toInt }
  let conv (y : Nat) : Nat × Word := convert v dst src false false y
  if sb ≤ db then
    let r := db / sb
    let el := (vecElems sb (x.w f.a.toNat)).map conv
    let out (k : Nat) : List TWrite :=
      wW (f.d.toNat + k) (packElems db ((List.range (4096 / db)).map (fun p => (nthD el (p * r + k) (0, 0#32)).1))) 4
    .done (x.s.tileFlags x.hid (el.foldl (fun a e => a ||| e.2) 0#32)) ((List.range r).flatMap out)
  else
    let r := sb / db
    let regs := (List.range r).map (fun k => x.w (f.a.toNat + k))
    let el := (List.range (4096 / db)).map (fun i => conv (elem (nthD regs (i % r) 0) sb (i / r)))
    .done (x.s.tileFlags x.hid (el.foldl (fun a e => a ||| e.2) 0#32))
      (wW f.d.toNat (packElems db (el.map (fun e => e.1))) 4)
/-- VCVT. -/
def execVcvt (f : GFmt) (s : State) : Res := tileOp (.vcvt f) s (effVcvt f)

/-- VRED: the tree of 02 R58 over every element, widened to 32 bits. -/
def effVred (f : GFmt) (x : TileX) : TAns :=
  let c := f.f1.toNat
  let v := envOf x.t.cfm
  let ty := if c < 6 then 0 else if intSigned c then 1 else 2
  let widen (y : Nat) : Nat × Word :=
    if c == 0 then (y, 0#32)
    else if c < 6 then convert v 0 c false false y
    else (wrapTo 32 (intVal (elemBits c) (intSigned c) y), 0#32)
  let leaves := (vecElems (elemBits c) (x.w f.a.toNat)).map (fun y => some (widen y))
  let r := (treeOf (redStep v f.sub.toNat ty) leaves).getD (0, 0#32)
  .done (x.s.tileFlags x.hid r.2) (wC f.d (BitVec.ofNat 32 r.1) 6)
/-- VRED. -/
def execVred (f : GFmt) (s : State) : Res := tileOp (.vred f) s (effVred f)

/-- VBCAST: the low bits of cA, or one element of wA, in every element. -/
def effVbcast (f : GFmt) (x : TileX) : TAns :=
  let b := elemBits f.f2.toNat
  let y := if f.sub == 0#5 then (x.c f.a).toNat % 2 ^ b else elem (x.w f.a.toNat) b f.imm.toNat
  .done x.s (wW f.d.toNat (packElems b (List.replicate (4096 / b) y)) 2)
/-- VBCAST. -/
def execVbcast (f : GFmt) (s : State) : Res := tileOp (.vbcast f) s (effVbcast f)

/-- VPERM: element i is element (index i of wB mod N) of wA. -/
def effVperm (f : GFmt) (x : TileX) : TAns :=
  let b := elemBits f.f1.toNat
  let n := 4096 / b
  let a := x.w f.a.toNat
  let ix := x.w f.b.toNat
  .done x.s (wW f.d.toNat (packElems b ((List.range n).map (fun i => elem a b (elem ix 16 i % n)))) 3)
/-- VPERM. -/
def execVperm (f : GFmt) (s : State) : Res := tileOp (.vperm f) s (effVperm f)

/-- VSEL: wA where the pattern of wC is not zero, wB elsewhere. -/
def effVsel (f : GFmt) (x : TileX) : TAns :=
  let b := elemBits f.f1.toNat
  let a := x.w f.a.toNat
  let y := x.w f.b.toNat
  let c := x.w f.c.toNat
  .done x.s (wW f.d.toNat (packElems b ((List.range (4096 / b)).map (fun i =>
    if elem c b i != 0 then elem a b i else elem y b i))) 2)
/-- VSEL. -/
def execVsel (f : GFmt) (s : State) : Res := tileOp (.vsel f) s (effVsel f)

end Sys2Proof.Machine
end

