-- ==== Sys2Proof/Machine/TileEngine.lean ====
section
/-! DEFINITION. TileEngine.lean: the E slot (07 R196 to R209, 13 R300 to R305, 16 R321): tile handles, the commands that
enter the engine queues with everything they capture, and the operations that act in the sequencer. -/
namespace Sys2Proof.Machine

/-! ### Tile handles (07 R201) -/

/-- A handle taken apart: its side, the record with its allocation, and its kind in bits 50:48. -/
structure TileH where
  side : Side
  lh : LayHandle
  kind : Nat
  deriving DecidableEq, Repr

/-- The layout map entry `i` of the open gate. -/
def Half.mapEnt (h : Half) (i : Nat) : Option (MapEnt × GateSt) := h.gate.bind (fun g => (g.map[i]?).map (fun e => (e, g)))

/-- What tile register `r` names now; `none` where it is unbound or its record is no longer in use. -/
def TileX.handle (x : TileX) (r : BitVec 5) : Option TileH :=
  let v := (x.th r).toNat
  let kind := bitsOf v 50 48
  let low := bitsOf v 47 0
  let k := bitsOf v 62 51
  if !bitOf v 63 then none
  else if kind == 1 then
    (x.h.mapEnt low).map (fun e =>
      let width := ((e.2.ranks.head?.bind (fun g => KMap.look x.s.groups g)).map (fun g => g.width)).getD 16
      let len := e.2.ranks.length * (e.1.hi - e.1.lo + 1) * width * 4
      ⟨⟨.regs x.hid e.1.lo e.1.hi e.2.ranks, 0, e.1.lay, 0⟩, ⟨e.1.lay, 0, len⟩, kind⟩)
  else
    match x.s.layout x.h.ctx k with
    | none => none
    | some l =>
      if kind == 0 then some ⟨⟨.loc x.hid, low % 2 ^ 32, l.lay, k⟩, l, kind⟩
      else if 4 ≤ kind then
        let base := (((KMap.look x.t.xb (kind - 4)).getD Bx.invalid).vbase.toNat + low) % 2 ^ 64
        some ⟨⟨.virt x.h.ctx x.h.core, base, l.lay, k⟩, l, kind⟩
      else none

/-- The operand handle `r`, or ILLEGAL (07 R201). -/
def TileX.withTile (x : TileX) (i : Instr) (r : BitVec 5) (k : TileH → TAns) : TAns :=
  match x.handle r with
  | none => x.ill i 7
  | some t => k t

/-- LAYOUT_RANGE of a tile operation: the base and the handle (26 R436). -/
def tileRange (cause base handle : Nat) : TAns :=
  .fault (trapRec 8 cause (BitVec.ofNat 64 base) (BitVec.ofNat 64 handle) 0#64 0#64)

/-- TBIND (07 R201). -/
def effTbind (f : GFmt) (x : TileX) : TAns :=
  if f.sub.getLsbD 2 then .done x.s [⟨tkT f.d.toNat, 0, 1⟩]
  else
    let k := (x.c f.a).toNat
    let ap := x.ap f.p.toNat
    let bind (base word : Nat) (l : LayHandle) : TAns :=
      if l.fits base then .done x.s [⟨tkT f.d.toNat, 2 ^ 63 + k * 2 ^ 51 + word, 1⟩] else tileRange 2 base k
    if 4096 ≤ k then x.ill (.tbind f) 6
    else
      match x.s.layout x.h.ctx k with
      | none => x.ill (.tbind f) 7
      | some l =>
        if ap.getLsbD 63 then
          let m := f.sub.toNat % 4
          let base : Int := (ap.toNat % 2 ^ 57 : Nat) + f.imm.toInt
          let off := base - (((KMap.look x.t.xb m).getD Bx.invalid).vbase.toNat : Nat)
          if off < 0 || 2 ^ 48 ≤ off then x.ill (.tbind f) 6
          else bind base.toNat ((4 + m) * 2 ^ 48 + off.toNat) l
        else
          let base := (loWord ap + f.imm.signExtend 32).toNat
          bind base base l
/-- TBIND. -/
def execTbind (f : GFmt) (s : State) : Res := tileOp (.tbind f) s (effTbind f)

/-! ### Entering a queue (07 R196) -/

/-- The portable index of the operation that issues. -/
def TileX.opindex (x : TileX) : Nat := ((x.s.imageOf x.h).getD Image.empty).indexOf x.t.pc

/-- A new entry of the context, with `cfm` captured. -/
def TileX.ent (x : TileX) (cmd : Cmd) (bar : Option (Nat × Nat)) (time : DWord) : QEnt :=
  { x.s.newEnt x.h.ctx x.h.launch (.tile x.hid) x.t.cfm cmd bar time x.opindex with slot := 3 }

/-- Command number `id` belongs to the current batch (07 R198). -/
def State.joinBatch (s : State) (hid id : Nat) : State :=
  s.updT hid (fun t => { t with batchOpen := t.batchOpen ++ [id] })

/-- A command enters the queue with key `k`. DESIGN CHOICE (log entry 124): its issue time is chip time now. -/
def TileX.push (x : TileX) (k : Nat) (cmd : Cmd) : TAns :=
  let e := x.ent cmd none x.s.time64
  .done ({ x.s.pushQ k e with nextId := x.s.nextId + 1 }.joinBatch x.hid e.id) []

/-- A Clove command enters channel `ch`, or waits for room (07 R173, 10 R250); `cast` marks a `cpym`. -/
def TileX.clove (x : TileX) (ch : Nat) (cmd : Cmd) (bar : Option (Nat × Nat)) (time : DWord) (cast : Bool := false) : TAns :=
  if x.s.copyFull x.h.core time then .wait x.s
  else
    let e := { x.ent cmd bar time with cast := cast }
    .done ((x.s.enterCopy x.h.core ch e).joinBatch x.hid e.id) []

/-- The matrix queue of the context's quarter. -/
def TileX.matrixKey (x : TileX) : Nat := qkey x.h.core (4 + x.h.quarter)

/-- Whether stream `q` has a ring (07 R202). -/
def TileX.ring (x : TileX) (q : Nat) : Bool := (x.t.stream q).geom.2 != 0

/-- The barrier of a command with SUB bit 2: its place, or ILLEGAL where the offset is no place of an object. -/
def TileX.withBar (x : TileX) (i : Instr) (f : GFmt) (cast : Bool) (to_ : List Nat) (k : Option (Nat × Nat) → TAns) : TAns :=
  if f.sub.getLsbD 2 then
    match x.s.copyBar x.hid cast to_ (x.c f.b) with
    | none => x.ill i 6
    | some b => k (some b)
  else k none

/-- SFILL (07 R203). -/
def effSfill (f : GFmt) (x : TileX) : TAns :=
  let i : Instr := .sfill f
  if !x.ring f.d.toNat then x.ill i 7
  else x.withTile i f.a (fun a => x.withBar i f false [] (fun b =>
    x.clove (f.sub.toNat % 4) (.fill a.side f.d.toNat) b 0#64))
/-- SFILL. -/
def execSfill (f : GFmt) (s : State) : Res := tileOp (.sfill f) s (effSfill f)

/-- SDROP (07 R203). -/
def effSdrop (f : GFmt) (x : TileX) : TAns :=
  if !x.ring f.d.toNat then x.ill (.sdrop f) 7 else x.push x.matrixKey (.sdrop f.d.toNat (x.c f.a).toNat)
/-- SDROP. -/
def execSdrop (f : GFmt) (s : State) : Res := tileOp (.sdrop f) s (effSdrop f)

/-- `mma` and `mmaz` (07 R204). -/
def TileX.mma (x : TileX) (i : Instr) (zero : Bool) (f : GFmt) : TAns :=
  if x.t.grant ≤ f.d.toNat then x.ill i 2
  else if !x.ring f.a.toNat || !x.ring f.b.toNat then x.ill i 7
  else x.push x.matrixKey (.mma zero f.d.toNat f.a.toNat f.b.toNat f.f1.toNat f.f2.toNat)

/-- MMA. -/
def effMma (f : GFmt) (x : TileX) : TAns := x.mma (.mma f) false f
/-- MMA. -/
def execMma (f : GFmt) (s : State) : Res := tileOp (.mma f) s (effMma f)

/-- MMAZ. -/
def effMmaz (f : GFmt) (x : TileX) : TAns := x.mma (.mmaz f) true f
/-- MMAZ. -/
def execMmaz (f : GFmt) (s : State) : Res := tileOp (.mmaz f) s (effMmaz f)

/-- AST (07 R205). -/
def effAst (f : GFmt) (x : TileX) : TAns :=
  let i : Instr := .ast f
  if x.t.grant ≤ f.a.toNat then x.ill i 2
  else x.withTile i f.d (fun d =>
    if d.lh.lay.count != 8192 then x.ill i 6
    else x.push x.matrixKey (.ast f.a.toNat d.side (f.sub == 1#5)))
/-- AST. -/
def execAst (f : GFmt) (s : State) : Res := tileOp (.ast f) s (effAst f)

/-- ALD (07 R205). -/
def effAld (f : GFmt) (x : TileX) : TAns :=
  let i : Instr := .ald f
  if x.t.grant ≤ f.d.toNat then x.ill i 2
  else x.withTile i f.a (fun a =>
    if a.lh.lay.count != 8192 then x.ill i 6 else x.push x.matrixKey (.ald f.d.toNat a.side))
/-- ALD. -/
def execAld (f : GFmt) (s : State) : Res := tileOp (.ald f) s (effAld f)

/-! ### Mace (13 R300 to R305) -/

/-- The four parameter words at local pointer `p`, checked (13 R301, 07 R206). DESIGN CHOICE (log entry 112): poison in them is
fatal as for any sequencer load. -/
def TileX.withMask (x : TileX) (i : Instr) (p : Nat) (k : List DWord → TAns) : TAns :=
  let ap := x.ap p
  let off := (loWord ap).toNat
  if ap.getLsbD 63 || off % 32 != 0 then x.ill i 6
  else
    match x.seqRead (.loc off) 32 ⟨0, false⟩ with
    | .ok b _ =>
      let w := (List.range 4).map (fun j => BitVec.ofNat 64 (leNat (sub b (8 * j) 8)))
      (match maskBad w with
        | some c => x.ill i c
        | none => k w)
    | .fault c code va => .fault (syncRec code c va)
    | .wait s => .wait s
    | .poison => .poison

/-- AMASK (13 R303). -/
def effAmask (f : GFmt) (x : TileX) : TAns :=
  let i : Instr := .amask f
  if x.t.grant ≤ f.d.toNat then x.ill i 2
  else x.withMask i f.p.toNat (fun w => x.push x.matrixKey (.amask f.d.toNat (x.c f.a) (x.c f.b) w))
/-- AMASK. -/
def execAmask (f : GFmt) (s : State) : Res := tileOp (.amask f) s (effAmask f)

/-- TSKIP (13 R305). DESIGN CHOICE (log entry 112): poison in its words or lists is fatal as for any sequencer load. -/
def effTskip (f : GFmt) (x : TileX) : TAns :=
  let i : Instr := .tskip f
  x.withMask i f.p.toNat (fun w =>
    let m := maskOf w
    match x.s.maskLists none x.hid m (m.poslist && m.structural) with
    | .error (c, va) => if c == 5 then .poison else .fault (syncRec 0x10 c va)
    | .ok (pos, docs) =>
      let q := (x.c f.a).toNat
      let k := (x.c f.b).toNat
      let all := (List.range 64).all (fun r => (List.range 128).all (fun c => m.excludes pos docs q k r c))
      .done x.s (wC f.d (BitVec.ofNat 32 (b2n all)) 4))
/-- TSKIP. -/
def execTskip (f : GFmt) (s : State) : Res := tileOp (.tskip f) s (effTskip f)

/-! ### Anise and Cumin -/

/-- The five 3-bit fields of `trn`. -/
def trnPerm (imm : BitVec 16) : List Nat := (List.range 5).map (fun j => imm.toNat / 8 ^ j % 8)

/-- Whether the fields are a permutation of `n` dimensions, the others their own index (07 R207). -/
def permOk (p : List Nat) (n : Nat) : Bool :=
  (List.range n).all (fun j => (p.take n).contains j) && (List.range 5).all (fun j => j < n || nthD p j 0 == j)

/-- TRN (07 R207). DESIGN CHOICE (log entry 105): its tiles, and those of `vgmv`, may be lane registers bound by a gate map,
which the spec neither names nor forbids for the two. -/
def effTrn (f : GFmt) (x : TileX) : TAns :=
  let i : Instr := .trn f
  x.withTile i f.a (fun a => x.withTile i f.d (fun d =>
    let p := trnPerm f.imm
    if !permOk p a.lh.lay.ndim || a.lh.lay.count != d.lh.lay.count || a.lh.lay.fmt != d.lh.lay.fmt then x.ill i 6
    else x.push (qkey x.h.core 9) (.trn d.side a.side p)))
/-- TRN. -/
def execTrn (f : GFmt) (s : State) : Res := tileOp (.trn f) s (effTrn f)

/-- VGMV (16 R321). -/
def effVgmv (f : GFmt) (x : TileX) : TAns :=
  let i : Instr := .vgmv f
  x.withTile i f.a (fun a => x.withTile i f.b (fun b => x.withTile i f.d (fun d =>
    let n := (x.c f.c).toNat
    if a.lh.lay.fmt != 11 || 3 ≤ b.lh.lay.fmt || 65535 < b.lh.lay.count || d.lh.lay.fmt != 0 || d.lh.lay.count < n then
      x.ill i 6
    else x.push (qkey x.h.core 8) (.vgmv d.side a.side b.side n))))
/-- VGMV. -/
def execVgmv (f : GFmt) (s : State) : Res := tileOp (.vgmv f) s (effVgmv f)

/-! ### Copies between handles (07 R209) -/

/-- A failed check of a copy, for a tile operation. -/
def CopyBad.tileAns (i : Instr) (x : TileX) : CopyBad → TAns
  | .illegal c => x.ill i c
  | .range b h => tileRange 1 b h
  | .late t => .fault (trapRec 9 0 t x.s.time64 0#64 0#64)

/-- A copy between handles: checked in the order of 05 R145, and entered. -/
def TileX.copy (x : TileX) (i : Instr) (f : GFmt) (form : CopyForm) : TAns :=
  let mode := f.imm.toNat % 4
  let scale := if mode == 2 then (loWord (x.ap f.p.toNat)).toNat else f.imm.toNat / 4 % 256
  let cast := form == .cast
  let mask := (x.c f.c).toNat % 256
  let dsts := if cast then x.s.gangDsts x.h mask else ([(0, x.hid)], false)
  x.withTile i f.a (fun a => x.withTile i f.d (fun d => x.withBar i f cast (dsts.1.map Prod.snd) (fun bar =>
    let blocks := d.lh.lay.outer
    let idx := if form == .gather then some ((List.range blocks).map (fun j => elem (x.w f.c.toNat) 32 j)) else none
    let time : DWord := if form == .plain && f.sub.getLsbD 3 then x.cPair f.c else 0#64
    if mode == 2 && (x.ap f.p.toNat).getLsbD 63 then x.ill i 6
    else if form != .plain && (a.kind == 1 || d.kind == 1) then x.ill i 6
    -- a multicast's destination is team-relative: an offset in the scratchpad's range (10 R254)
    else if (cast && (d.kind != 0 || 0x10000000 ≤ d.side.base)) || (form == .gather && 128 < blocks) then x.ill i 6
    else
      match copyBad x.s.chipTime mode a.lh d.lh a.side.handle d.side.handle a.side.base d.side.base
          (idx.map List.length) (if cast then some (mask, dsts.2) else none) time with
      | some b => b.tileAns i x
      | none =>
        let ds := dsts.1.map (fun e => (e.1, if cast then { d.side with space := .loc e.2 } else d.side))
        x.clove (f.sub.toNat % 4) (.copy mode scale a.side ds idx) bar time cast)))

/-- CPY of tile code. -/
def effTileCpy (f : GFmt) (x : TileX) : TAns := x.copy (.tileCpy f) f .plain
/-- CPY of tile code. -/
def execTileCpy (f : GFmt) (s : State) : Res := tileOp (.tileCpy f) s (effTileCpy f)

/-- CPYX of tile code: the block indices are elements of wC. -/
def effTileCpyx (f : GFmt) (x : TileX) : TAns := x.copy (.tileCpyx f) f .gather
/-- CPYX of tile code. -/
def execTileCpyx (f : GFmt) (s : State) : Res := tileOp (.tileCpyx f) s (effTileCpyx f)

/-- CPYM of tile code. -/
def effTileCpym (f : GFmt) (x : TileX) : TAns := x.copy (.tileCpym f) f .cast
/-- CPYM of tile code. -/
def execTileCpym (f : GFmt) (s : State) : Res := tileOp (.tileCpym f) s (effTileCpym f)

/-! ### Batches, fences, drains and rounds (07 R198 to R200) -/

/-- The context as the earlier slots of the bundle have left it. -/
def TileX.live (x : TileX) : Tile := (x.s.tileOf x.hid).getD x.t

/-- The current batch closed under the next number (07 R198). -/
def Tile.closeBatch (t : Tile) : Tile :=
  let n := t.batch + 1#32
  { t with
    batch := n, batchOpen := []
    batches := if t.batches.isEmpty && t.batchOpen.isEmpty then [] else t.batches ++ [(n, t.batchOpen)] }

/-- BFENCE. -/
def effBfence (f : GFmt) (x : TileX) : TAns :=
  .done ((x.s.updT x.hid Tile.closeBatch).frameState x.hid) (wC f.d (x.live.batch + 1#32) 1)
/-- BFENCE. -/
def execBfence (f : GFmt) (s : State) : Res := tileOp (.bfence f) s (effBfence f)

/-- BWAIT (07 R198, 01 R33). -/
def effBwait (f : GFmt) (x : TileX) : TAns :=
  let n := x.c f.a
  let t := x.live
  if 0 < (n - t.batch).toInt then x.ill (.bwait f) 6
  else if t.batches.any (fun b => !b.2.isEmpty && (b.1 - t.batch).toInt ≤ (n - t.batch).toInt) then .wait x.s
  else .done x.s []
/-- BWAIT. -/
def execBwait (f : GFmt) (s : State) : Res := tileOp (.bwait f) s (effBwait f)

/-- QFENCE of tile code (07 R199). -/
def effTileQfence (f : GFmt) (x : TileX) : TAns :=
  let m := f.imm.toNat
  let lq := (x.c f.a).toNat
  let ks := maskQueues x.h.core x.h.quarter m lq
  if bitOf m 8 && 128 ≤ lq then x.ill (.tileQfence f) 6
  else if x.s.cloveFull x.h.core ks then .wait x.s
  else
    .done ((x.s.enterFence ks x.h.ctx x.h.launch (.tile x.hid) f.f1.toNat x.opindex).joinBatch x.hid x.s.nextId) []
/-- QFENCE of tile code. -/
def execTileQfence (f : GFmt) (s : State) : Res := tileOp (.tileQfence f) s (effTileQfence f)

/-- DRAIN of tile code (07 R199, 05 R142). -/
def effTileDrain (f : GFmt) (x : TileX) : TAns :=
  let ch := f.sub.toNat
  let ids := x.s.channelIds x.h.core ch ++
    (x.s.visible.filter (fun v => v.core == x.h.core && v.channel == ch)).map (fun v => v.id)
  if x.s.drained f.f1.toNat ids then .done x.s [] else .wait x.s
/-- DRAIN of tile code. -/
def execTileDrain (f : GFmt) (s : State) : Res := tileOp (.tileDrain f) s (effTileDrain f)

/-- ROUND of tile code: it goes out once the commands before it have completed (07 R200). -/
def effTileRound (f : GFmt) (x : TileX) : TAns :=
  let r := (x.c f.a).toNat
  let valid := match (KMap.look x.s.ctxs x.h.ctx).bind (fun c => KMap.look c.regions r) with
    | some g => g.v
    | none => false
  if 256 ≤ r then x.ill (.tileRound f) 6
  else if !valid then x.ill (.tileRound f) 7
  else
    let ids := (x.s.entries.filter (fun e => e.issuer == .tile x.hid)).map (fun e => e.id)
    let late := (x.s.visible.filter (fun v => v.core == x.h.core)).map (fun v => v.id)
    x.push (roundQueue x.h.core x.h.quarter x.t.index) (.round r x.live.gw (ids ++ late))
/-- ROUND of tile code. -/
def execTileRound (f : GFmt) (s : State) : Res := tileOp (.tileRound f) s (effTileRound f)

end Sys2Proof.Machine
end

