-- ==== Sys2Proof/Machine/TileIssue.lean ====
section
/-! DEFINITION. TileIssue.lean: the B0 sequencer (06 R161 to R168): a bundle taken apart and issued, with its waits and its
synchronous faults; and the closing of a gate (12 R293). -/
namespace Sys2Proof.Machine

/-- The effect of a tile operation in a slot. -/
def slotEff (i : Instr) (x : TileX) : TAns :=
  match i with
  | .cnop f => effCnop f x
  | .cadd f => effCadd f x
  | .csub f => effCsub f x
  | .cmul f => effCmul f x
  | .cand f => effCand f x
  | .cor f => effCor f x
  | .cxor f => effCxor f x
  | .cshl f => effCshl f x
  | .cshr f => effCshr f x
  | .csar f => effCsar f x
  | .cmov f => effCmov f x
  | .cmovi f => effCmovi f x
  | .ccmp f => effCcmp f x
  | .cld f => effCld f x
  | .cst f => effCst f x
  | .jmp f => effJmp f x
  | .jc f => effJc f x
  | .jal f => effJal f x
  | .jr f => effJr f x
  | .loop f => effLoop f x
  | .cgets f => effCgets f x
  | .csets f => effCsets f x
  | .gret f => effGret f x
  | .apset f => effApset f x
  | .apadd f => effApadd f x
  | .sdset f => effSdset f x
  | .lcset f => effLcset f x
  | .apld f => effApld f x
  | .vcas f => effVcas f x
  | .vld f => effVld f x
  | .vst f => effVst f x
  | .vldb f => effVldb f x
  | .vcvt f => effVcvt f x
  | .vred f => effVred f x
  | .vbcast f => effVbcast f x
  | .vperm f => effVperm f x
  | .vsel f => effVsel f x
  | .tbind f => effTbind f x
  | .sfill f => effSfill f x
  | .sdrop f => effSdrop f x
  | .mma f => effMma f x
  | .mmaz f => effMmaz f x
  | .ast f => effAst f x
  | .ald f => effAld f x
  | .amask f => effAmask f x
  | .tskip f => effTskip f x
  | .trn f => effTrn f x
  | .vgmv f => effVgmv f x
  | .tileCpy f => effTileCpy f x
  | .tileCpyx f => effTileCpyx f x
  | .tileCpym f => effTileCpym f x
  | .bfence f => effBfence f x
  | .bwait f => effBwait f x
  | .tileQfence f => effTileQfence f x
  | .tileDrain f => effTileDrain f x
  | .tileRound f => effTileRound f x
  | _ => x.ill i 0

/-- The slots of a bundle in their order: their numbers (0 C, 1 A, 2 V, 3 E0, 4 E1) and words (06 R161). -/
def Image.slots (m : Image) (x : Nat) : List (Nat × DWord) :=
  let hdr := m.word x
  let present := (List.range 5).filter (fun i => hdr.getLsbD i)
  (List.range present.length).map (fun j => (nthD present j 0, m.word (x + 8 + 8 * j)))

/-- The class that a slot takes (06 R161). -/
def slotClass (k : Nat) : Nat := min k 3

/-- A slot's operation, or the ILLEGAL CAUSE of its word (06 R152, R162). -/
def slotOp (k : Nat) (w : DWord) : Except Nat Instr :=
  match decodeTile w with
  | .error c => .error c
  | .ok i =>
    if fld w 8 3 != slotClass k then .error 0
    else match i.check 256 with
      | some c => if c ≤ 2 then .error c else .ok i
      | none => .ok i

/-- The operations of the bundle at `x`, or the slot and the fault word of an illegal bundle; a position that names no header
of the image is one too (06 R162, 07 R179, 26 R436). DESIGN CHOICE (log entry 113): SLOT is 0 where the header is at fault, and
OPINDEX is 0 at a position that is no bundle of the image. -/
def Image.bundle (m : Image) (x : Nat) : Except (Nat × FaultRec) (List (Nat × Instr)) :=
  let hdr := m.word x
  let at_ : DWord := BitVec.ofNat 64 x
  if !m.index.any (fun e => e.1 == x) || x % 8 != 0 || m.words.length ≤ x / 8 || hdr.extractLsb' 0 5 == 0#5 ||
      hdr.extractLsb' 5 59 != 0#59 then
    .error (0, trapRec 1 8 (if x % 8 == 0 then hdr else 0#64) at_ 0#64 0#64)
  else
    (m.slots x).foldl (fun a e => match a with
      | .error r => .error r
      | .ok l => match slotOp e.1 e.2 with
        | .error c => .error (e.1, trapRec 1 c e.2 at_ 0#64 0#64)
        | .ok i => .ok (l ++ [(e.1, i)])) (.ok [])

/-- The bundle at `x` fetched: the pages of its header and of its slot words must grant execution (17 R333; log entry 100).
CAUSE and the address on failure. -/
def State.fetchBundle (s : State) (h : Half) (m : Image) (x : Nat) : Except (Nat × Nat) Unit × State :=
  (List.range (bundleLen (m.word x))).foldl (fun a i =>
    match a.1 with
    | .error _ => a
    | .ok _ =>
      let va := m.bundleVa + x + 8 * i
      let r := a.2.translate h.core h.ctx va .exec
      (match r.1 with | .error c => .error (c.1, va) | .ok _ => .ok (), r.2)) (.ok (), s)

/-- What a bundle comes to. -/
inductive BAns where
  | ok (s : State) (w : List TWrite) (f : Flow)
  | wait (s : State)
  | fault (slot : Nat) (r : FaultRec)
  | poison
  deriving DecidableEq, Repr

/-- The commands that a slot has queued name it (12 R291). -/
def State.nameSlot (s : State) (slot first : Nat) : State :=
  (List.range (s.nextId - first)).foldl (fun s i => s.updEnt (first + i) (fun e => { e with slot := slot })) s

/-- One slot after those before it: registers as they stood when the bundle issued, the machine as they left it
(06 R163); a suppressed slot only takes the words of ignore (09 R231). Beside it the machine of the first slot that must wait:
no slot takes effect then, only what the waiting access has sent stays; a fault of a later slot comes before the wait
(06 R168, 07 R173). DESIGN CHOICE (log entry 114): of several slots at fault the first one in the order C, A, V, E0, E1 is
reported. -/
def slotStep (s0 : State) (hid : Nat) (h : Half) (t : Tile) (skips : List Nat) (a : BAns × Option State) (e : Nat × Instr) :
    BAns × Option State :=
  match a.1 with
  | .ok s w f =>
    if skips.contains e.1 then (.ok s (w ++ ignoreSlot e.2) f, a.2)
    else
      let ans := match e.2.check 256 with
        | some c => (⟨s, hid, h, t, s0.nextId⟩ : TileX).ill e.2 c
        | none => slotEff e.2 ⟨s, hid, h, t, s0.nextId⟩
      (match ans with
        | .ok s' w' f' =>
          (.ok (if e.1 == 4 then s'.nameSlot 4 s.nextId else s') (w ++ w') (if e.1 == 0 then f' else f), a.2)
        | .wait _ =>
          let kept := match slotEff e.2 ⟨s0, hid, h, t, s0.nextId⟩ with
            | .wait s' => s'
            | _ => s0
          (a.1, some (a.2.getD kept))
        | .fault r => (.fault e.1 r, none)
        | .poison => (.poison, none))
  | _ => a

/-- The slots of a bundle, one after another. -/
def runSlots (s : State) (hid : Nat) (h : Half) (t : Tile) (skips : List Nat) (l : List (Nat × Instr)) : BAns :=
  let r := l.foldl (slotStep s hid h t skips) (.ok s [] .next, none)
  match r.2 with
  | some s' => .wait s'
  | none => r.1

/-- A bundle issued: it waits, faults before any slot takes effect, or takes effect and the sequencer steps (06 R165,
R168); an ignored fault runs it again without the slot. -/
def issueBundle (hid : Nat) (h : Half) (t : Tile) (m : Image) (l : List (Nat × Instr)) : Nat → List Nat → State → State
  | 0, _, s => s
  | n + 1, skips, s =>
    match runSlots s hid h t skips l with
    | .ok s' w f => s'.tileStep hid true w f
    | .wait s' => s'
    | .poison => s.fatal h.ctx 0x30 (fatalRec 0x30 0#64) 1 hid (s.tilePlace hid)
    | .fault slot r =>
      let op := m.indexOf t.pc
      if r.recoverable then s.tilePark hid slot op r
      else match s.tileTrap hid slot op r with
        | (some s', _) => s'
        | (none, s') => issueBundle hid h t m l n (slot :: skips) (s'.tileSkip hid slot)

/-- Whether a context issues nothing: it is halted or killed, or waits after a migration (24 R417, R421; 26 R440). -/
def State.ctxHalted (s : State) (cn : Nat) : Bool :=
  ((KMap.look s.ctxs cn).map (fun c => c.halted || c.killed || !c.waitSave.isEmpty)).getD true

/-- Whether the sequencer of a half may issue. -/
def State.tileReady (s : State) (hid : Nat) : Bool :=
  match KMap.look s.halves hid with
  | none => false
  | some h => match h.tile with
    | none => false
    | some t => h.gate.isSome && t.valid && !t.stopped && t.fault.isNone && !t.closing && h.leaving == 0 && !s.ctxHalted h.ctx

/-- The bundle at `pc` stepped over as an annulled one; where its header was not fetched, its length is one word
(09 R231). -/
def State.stepOver (s : State) (hid : Nat) (m : Image) (fetched : Bool) : State :=
  let short (t : Tile) : Tile :=
    if fetched || t.npc != m.seq t.pc then t
    else { t with npc := t.pc + 8, nnpc := m.seq (t.pc + 8), after := m.seq (m.seq (t.pc + 8)) }
  (s.updT hid short).tileStep hid false [] .next

/-- The bundle at `pc` of a half's context, whatever else moves. DESIGN CHOICE (log entry 115): an annulled bundle is stepped
over unread, so that none is illegal or faults on its fetch. -/
def State.bundleStep (s : State) (hid : Nat) : State :=
  match KMap.look s.halves hid with
  | none => s
  | some h => match h.tile with
    | none => s
    | some t =>
      let m := (s.imageOf h).getD Image.empty
      let op := m.indexOf t.pc
      if t.an0 then s.tileStep hid false [] .next
      else
        let p := s.fetchBundle h m t.pc
        match p.1 with
        | .error c => p.2.tilePark hid 0 op (syncRec 0x10 c.1 c.2) 1
        | .ok _ => match m.bundle t.pc with
          | .error r => (match p.2.tileTrap hid r.1 op r.2 with
            | (some s', _) => s'
            | (none, s') => s'.stepOver hid m true)
          | .ok l => issueBundle hid h t m l 6 t.skips p.2

/-- BUNDLE_ISSUE (06 R165): the sequencer executes the bundle at `pc`. -/
def execBundleIssue (hid : Nat) (s : State) : Res :=
  if s.tileReady hid then .next (s.bundleStep hid) else .fault (.notEnabled "sequencer")

/-- The gate of a half closes: the map's handles are unbound, and the groups go on (12 R293). -/
def State.closeGate (s : State) (hid : Nat) : State :=
  match KMap.look s.halves hid with
  | none => s
  | some h => match h.gate with
    | none => s
    | some g =>
      let frame := s.locBytes ⟨hid, false, h.frameOff⟩ 256
      let word (off : Nat) : DWord := BitVec.ofNat 64 (leNat (sub frame off 8))
      let unbind (t : Regs 64) : Regs 64 := g.map.foldl (fun t e => t.set e.handle 0#64) t
      let resume (x : Group) : Group := { x with
        em := word (0x40 + 8 * x.idx) &&& x.live, pc := word 0, watch := 0#32, sched := .ready, mark := false
        retries := if x.retries.get 8 == 1#8 then x.copyTries else x.retries }
      let upd (h : Half) : Half := { h with
        gate := none
        tile := h.tile.map (fun t => { t with t := unbind t.t, valid := false, closing := false }) }
      (s.liveGids hid).foldl (fun s gid => s.updG gid resume) (s.updH hid upd)

/-- GATE_CLOSE (12 R293): what `gret` has begun takes effect, once the peers have acknowledged what the context has stored. -/
def execGateClose (hid : Nat) (s : State) : Res :=
  match KMap.look s.halves hid with
  | none => .fault (.noAgent "half")
  | some h => match h.tile with
    | none => .fault (.noAgent "tile context")
    | some t =>
      if h.gate.isSome && t.valid && t.closing && !t.stopped && !s.tilePosted hid s.nextId then .next (s.closeGate hid)
      else .fault (.notEnabled "gret")

end Sys2Proof.Machine
end

