-- ==== Sys2Proof/Machine/Streams.lean ====
section
/-! DEFINITION. Streams.lean: stream engines (22 R381 to R395) and launches from their record to their completion (22 R396 to
R400): kicks, dependences, the ten stream instructions, and the events that complete them. -/
namespace Sys2Proof.Machine

/-! ### The life of a stream instruction -/

/-- The place of stream `n` in a record (26 R442). -/
def streamPlace (n : Nat) : DWord := placeWord 0 0 0 0 n

/-- Stream `n` stops in error (22 R384): `errpc` for ERRPC, `at_` for the record. -/
def State.streamStop (s : State) (n code cause field : Nat) (errpc at_ : DWord) : State :=
  match KMap.look s.streams n with
  | none => s
  | some x =>
    let upd (x : Stream) : Stream := { x with
      state := 3, code := code, field := field, errpc := errpc
      ins := x.ins.filter (fun e => e.wait != .halt && e.wait != .fetch) }
    (s.updS n upd).record x.ctx 1 2 n 0 (streamPlace n) (trapRec code cause 0#64 0#64 0#64 at_)

/-- A `halt` that only waits for earlier instructions is over once there are none (22 R395). -/
def Stream.haltCheck (x : Stream) : Stream :=
  let mine := x.ins.filter (fun e => x.base ≤ e.idx)
  if x.state == 1 && !mine.isEmpty && mine.all (fun e => e.wait == .halt) then
    { x with state := 2, ins := x.ins.filter (fun e => e.idx < x.base) }
  else x

/-- Instruction `idx` of stream `n` has completed. -/
def State.completeIns (s : State) (n idx : Nat) : State :=
  let upd (x : Stream) : Stream := { x with ins := x.ins.filter (fun e => e.idx != idx) }
  s.updS n (fun x => (upd x).haltCheck)

/-- Instruction `idx` of stream `n` changed. -/
def State.updIns (s : State) (n idx : Nat) (f : SIns → SIns) : State :=
  let upd (e : SIns) : SIns := if e.idx == idx then f e else e
  s.updS n (fun x => { x with ins := x.ins.map upd })

/-- Instruction `idx` of stream `n`, if it has not completed. -/
def State.insOf (s : State) (n idx : Nat) : Option SIns :=
  (KMap.look s.streams n).bind (fun x => x.ins.find? (fun e => e.idx == idx))

/-- The next instruction has started: it is completed where it waits for nothing. -/
def State.startIns (s : State) (n : Nat) (pc : DWord) (w : Option SWait) : State :=
  let new (x : Stream) : List SIns := (w.toList).map (fun w => (⟨x.count, x.pc, w, false, []⟩ : SIns))
  s.updS n (fun x => { x with pc := pc, count := x.count + 1, ins := x.ins.filter (fun e => e.idx != x.count) ++ new x })

/-- What stands of instruction `idx` of stream `n` from now on. -/
def State.keepIns (s : State) (n : Nat) (e : SIns) : State :=
  s.updS n (fun x => { x with
    ins := if x.ins.any (fun y => y.idx == e.idx) then x.ins.map (fun y => if y.idx == e.idx then e else y) else x.ins ++ [e] })

/-- A fault that the engine met on a word, a record or data of instruction `idx` (22 R383): a record for service; poison is
fatal (26 R438). -/
def State.streamFault (s : State) (n idx : Nat) (va : DWord) (e : HomeErr) : State :=
  match KMap.look s.streams n with
  | none => s
  | some x =>
    match e with
    | .trans a w c l =>
      let r := transRec 0x10 c l (if w then .write else .read) false a va 0#64
      let s := match s.insOf n idx with
        | some _ => s.updIns n idx (fun e => { e with fault := true })
        | none => s.updS n (fun (x : Stream) => { x with ins := x.ins ++ [(⟨idx, va, .fetch, true, []⟩ : SIns)] })
      s.record x.ctx 0 2 n idx (streamPlace n) r
    | .poison => s.fatal x.ctx 0x30 (fatalRec 0x30 va) 2 n (streamPlace n)
    | .ill c => s.streamStop n 1 c 0 va va
    | .full c _ => s.streamStop n 0x20 0 c va va
    | .wait _ _ _ => s

/-- A unit at work for stream `x`. -/
def State.homeOf (s : State) (cn : Nat) : Option Home := (KMap.look s.ctxs cn).map (fun c => ⟨s, cn, c, s.chipTime⟩)

/-- `n` bytes that a stream engine reads at their home, all of them good (22 R383, 26 R438). -/
def Home.bytes (k : Home) (va n : Nat) : Except HomeErr (List Byte) := do
  let b ← k.raw va n
  if k.bad va n then .error .poison else pure b

/-- The leaf for data of an `xfer`, a fabric window and the register space included. -/
def State.xferLeaf (s : State) (c : Ctx) (va : Nat) (w : Bool) : Except HomeErr Leaf :=
  match s.walkCtx c va with
  | .error e => .error (.trans va w e.1 e.2)
  | .ok l =>
    let region := match KMap.look c.regions l.region with
      | some g => g.v
      | none => false
    if !l.grants (if w then .write else .read) then .error (.trans va w 1 l.level)
    else if (l.rounds && !region) || (!l.rem && isRegSpace (l.pa va) && !l.so) then .error (.trans va w 6 l.level)
    else .ok l

/-- The key under which remote accesses of a stream instruction are held. -/
def streamHold (n idx : Nat) : Nat := 2 ^ 41 + n * 2 ^ 32 + idx

/-- Why a stream instruction goes no further: it waits, or it met a fault. -/
inductive XStop where
  | wait
  | err (e : HomeErr)
  /-- a fault of a remote access -/
  | lost (r : FaultRec)
  deriving DecidableEq, Repr

/-- Instruction `ins` of stream `n` at work. -/
structure XRun where
  s : State
  n : Nat
  ins : SIns
  stop : Option XStop
  deriving DecidableEq, Repr

/-- The number under which the writes of the instruction stand (26 R437). -/
def XRun.who (r : XRun) : Nat := 2 ^ 61 + r.n * 2 ^ 32 + r.ins.idx

/-- A remote access of a stream instruction sent. -/
def XRun.send (r : XRun) (cn : Nat) (l : Leaf) (va : Nat) (kind : RemoteKind) : XRun :=
  let w := match kind with
    | .write _ => true
    | _ => false
  match r.s.remoteSend cn none (streamHold r.n r.ins.idx) va l va kind with
  | .ok s => { r with s := s }
  | .error (.fail code c lv _ w2) =>
    { r with stop := some (.lost { transRec code c lv (if w then .write else .read) true va r.ins.va 0#64 with w2 := w2 }) }
  | .error _ => { r with stop := some .wait }

/-- `k` bytes at `va`, at most 8 of one aligned word, read at `scope`. -/
def XRun.read (r : XRun) (cn : Nat) (c : Ctx) (scope va k : Nat) : List Byte × XRun :=
  match r.s.xferLeaf c va false with
  | .error e => ([], { r with stop := some (.err e) })
  | .ok l0 =>
    let l := r.s.workLeaf cn scope va l0
    let pa := l.pa va
    if l.rem then
      match KMap.look r.ins.buf va with
      | some v => (leBytes k v.toNat, r)
      | none =>
        if r.s.remote.any (fun a => a.gid.isNone && a.hold == streamHold r.n r.ins.idx && a.lane == va && a.kind == .read k) then
          ([], { r with stop := some .wait })
        else
          let r := r.send cn l va (.read k)
          ([], { r with stop := some (r.stop.getD .wait) })
    else if isRegSpace pa then (r.s.regBytes (pa - Config.regBase) k, r)
    else if r.s.poisonAt cn scope pa k then ([], { r with stop := some (.err .poison) })
    else
      match r.s.workAt cn scope pa with
      | some m => (m.slice (pa % 4096) k, r)
      | none => if r.s.homeBusy pa then ([], { r with stop := some .wait }) else (r.s.memBytes pa k, r)

/-- Bytes of one aligned word written at `scope`; where the host may hold the line, or an increment of it is in progress, they
wait at their home (20 R369, 25 R425). -/
def XRun.write (r : XRun) (cn : Nat) (c : Ctx) (scope va : Nat) (b : List Byte) : XRun :=
  match r.s.xferLeaf c va true with
  | .error e => { r with stop := some (.err e) }
  | .ok l0 =>
    let l := r.s.workLeaf cn scope va l0
    let pa := l.pa va
    if l.rem then r.send cn l va (.write b)
    else if isRegSpace pa then { r with s := r.s.regPost 0 (pa - Config.regBase) b true }
    else if r.s.writeWaits cn scope pa b.length then { r with s := r.s.snoop pa b.length, stop := some .wait }
    else
      match r.s.workAt cn scope pa with
      | some _ => { r with s := r.s.storeBytes 0 cn scope pa b r.who }
      | none =>
        let gw (w : SWait) : SWait := match w with
          | .xfer a d n f sc o g => .xfer a d n f sc o (max g (r.s.gwct pa))
          | w => w
        { r with s := r.s.homeWrite none pa b r.who, ins := { r.ins with wait := gw r.ins.wait } }

/-- The words of `n` bytes at `va` that a stream engine has read for the instruction, each once (22 R383, R396). -/
def XRun.had (r : XRun) (va n : Nat) : Bool := (List.range (n / 8)).all (fun i => (KMap.look r.ins.buf (va + 8 * i)).isSome)

/-- The words of a peer that are still to come, one after the other. -/
def XRun.remoteWords (r : XRun) (cn : Nat) (c : Ctx) (va n : Nat) : XRun :=
  (List.range (n / 8)).foldl (fun r i => if r.stop.isSome then r else (r.read cn c 7 (va + 8 * i) 8).2) r

/-- An instruction that goes on reads `n` bytes of one page at `va` at their home, each word once: a word, a record or a list
(22 R383, R396). -/
def XRun.fetch (r : XRun) (k : Home) (va n : Nat) : XRun × Except XStop (List Byte) :=
  let have_ (r : XRun) : List Byte :=
    (List.range (n / 8)).flatMap (fun i => leBytes 8 ((KMap.look r.ins.buf (va + 8 * i)).getD 0#64).toNat)
  if r.had va n then (r, .ok (have_ r))
  else
    match k.anyLeaf va false with
    | .error e => (r, .error (.err e))
    | .ok l =>
      if l.rem then
        let r := r.remoteWords k.cn k.c va n
        match r.stop with
        | some e => ({ r with stop := none }, .error e)
        | none => (r, .ok (have_ r))
      else
        match k.bytes va n with
        | .error (.wait _ _ _) => (r, .error .wait)
        | .error e => (r, .error (.err e))
        | .ok b =>
          let buf := (List.range (n / 8)).foldl (fun m i =>
            KMap.put m (va + 8 * i) (BitVec.ofNat 64 (leNat (sub b (8 * i) 8)))) r.ins.buf
          ({ r with ins := { r.ins with buf := buf } }, .ok b)

/-- What stands of the next instruction of a stream: what it has read, where its start met a fault or waits. -/
def State.nextIns (s : State) (n : Nat) (x : Stream) : XRun :=
  ⟨s, n, (s.insOf n x.count).getD ⟨x.count, x.pc, .fetch, false, []⟩, none⟩

/-- An instruction that goes no further for now is kept with what it has read; `none` where nothing happens (22 R383). -/
def XRun.halt (r : XRun) (s : State) (cn : Nat) (e : XStop) : Option State :=
  let s' := r.s.keepIns r.n r.ins
  match e with
  | .err e => some (s'.streamFault r.n r.ins.idx r.ins.va e)
  | .lost f => some ((s'.updIns r.n r.ins.idx (fun e => { e with fault := true })).record cn 0 2 r.n r.ins.idx (streamPlace r.n) f)
  | .wait => if r.s.nextId != s.nextId || r.s.backInv != s.backInv || s.insOf r.n r.ins.idx != some r.ins then some s' else none

/-- What starting a stream instruction answers. -/
inductive SAns where
  /-- it has completed -/
  | done (s : State)
  /-- it has started and waits -/
  | wait (s : State) (w : SWait)
  | jump (s : State) (pc : DWord)
  /-- the stream stops in error: code, CAUSE, FIELD -/
  | stop (code cause field : Nat)
  /-- its start waits or met a fault -/
  | halt (r : XRun) (e : XStop)

/-- The frame of every stream instruction: the current stream's next instruction starts (22 R384 to R386). -/
def streamOp (i : Instr) (s : State) (body : Nat → Stream → Home → SAns) : Res :=
  match s.cur with
  | .stream n =>
    match KMap.look s.streams n with
    | none => .fault .noCurrent
    | some x =>
      match s.homeOf x.ctx with
      | none => .fault .noCurrent
      | some k =>
        match i.check 256 with
        | some c => .next (s.streamStop n 1 c 0 x.pc x.pc)
        | none =>
          match body n x k with
          | .done s' => .next (s'.startIns n (x.pc + 8#64) none)
          | .wait s' w => .next (s'.startIns n (x.pc + 8#64) (some w))
          | .jump s' pc => .next (s'.startIns n pc none)
          | .stop code cause field => .next (s.streamStop n code cause field x.pc x.pc)
          | .halt r e =>
            match r.halt s x.ctx e with
            | some s' => .next s'
            | none => .fault (.notEnabled "word or record")
  | _ => .fault .noCurrent

/-- What follows from the `n` bytes of a record or list at `va`. -/
def XRun.with (r : XRun) (k : Home) (va n : Nat) (f : XRun → List Byte → SAns) : SAns :=
  match r.fetch k va n with
  | (r, .ok b) => f r b
  | (r, .error e) => .halt r e

/-- What follows from an answer that may be a fault. -/
def SAns.of (r : XRun) (a : Except HomeErr SAns) : SAns :=
  match a with
  | .ok a => a
  | .error (.wait _ _ _) => .halt r .wait
  | .error e => .halt r (.err e)

/-- The pointer of an operand: va bits 56:8 (22 R388). -/
def streamPtr (f : SFmt) : Nat := f.opnd.toNat % 2 ^ 49 * 256

/-! ### Kicks (22 R382) -/

/-- KICK: a write to a stream's KICK; a stream that no context has ignores it. -/
def execKick (stream : Nat) (va : DWord) (s : State) : Res :=
  match KMap.look s.streams stream with
  | none => .next s
  | some x =>
    if ((KMap.look s.ctxs x.ctx).map (fun c => c.killed)).getD false then .next s
    else if x.state == 1 then .next (s.updS stream (fun x => { x with lost := true }))
    else
      let upd (x : Stream) : Stream := { x with
        state := 1, code := 0, field := 0, killed := false, lost := false, errpc := 0#64, pc := va, base := x.count
        ins := x.ins.filter (fun e => e.wait != .fetch && e.wait != .halt) }
      let s := s.updS stream upd
      .next (if va.toNat % 8 == 0 then s else s.streamStop stream 1 6 0 0#64 va)

/-! ### Events (22 R390, R391) -/

/-- Whether an event has reached a target: their signed difference is 0 or more. -/
def Ctx.reached (c : Ctx) (ev : Nat) (target : Word) : Bool := !((c.events.get ev) - target).msb

/-- The `waitev`s of a context whose condition holds complete. -/
def State.wakeEvents (s : State) (cn : Nat) : State :=
  match KMap.look s.ctxs cn with
  | none => s
  | some c =>
    if c.halted then s
    else
      s.streams.foldl (fun s e => if e.2.ctx == cn then e.2.ins.foldl (fun s i => match i.wait with
        | .event ev t => if c.reached ev t then s.completeIns e.1 i.idx else s
        | _ => s) s else s) s

/-- An event of a context updated, whole (22 R391). -/
def State.signal (s : State) (cn ev : Nat) (f : Word → Word) : State :=
  (s.updC cn (fun c => { c with events := c.events.set ev (f (c.events.get ev)) })).wakeEvents cn

/-- A `sigev`: its VALUE and EVENT; the writes that it depends on have completed (22 R390). -/
def sigev (i : Instr) (f : SFmt) (s : State) (upd : Word → Word → Word) : Res :=
  streamOp i s (fun _ x _ => .done (s.signal x.ctx (f.opnd.toNat % 4096) (upd (f.opnd.extractLsb' 18 32))))

/-- SIGEV_ADD. -/
def execSigevAdd (f : SFmt) (s : State) : Res := sigev (.sigevAdd f) f s (fun v old => old + v)
/-- SIGEV_SET. -/
def execSigevSet (f : SFmt) (s : State) : Res := sigev (.sigevSet f) f s (fun v _ => v)

/-- WAITEV. -/
def execWaitev (f : SFmt) (s : State) : Res :=
  streamOp (.waitev f) s (fun _ _ k =>
    let ev := f.opnd.toNat % 4096
    let t := f.opnd.extractLsb' 18 32
    if k.c.reached ev t then .done s else .wait s (.event ev t))

/-! ### Time, jumps and halts (22 R388, R394, R395) -/

/-- TWAIT. -/
def execTwait (f : SFmt) (s : State) : Res :=
  streamOp (.twait f) s (fun _ _ _ =>
    if f.opnd.toNat == 0 then .done s else .wait s (.time (s.chipTime + f.opnd.toNat)))

/-- Whether the context of stream `n` is halted. -/
def State.streamHalted (s : State) (n : Nat) : Bool :=
  (((KMap.look s.streams n).bind (fun x => KMap.look s.ctxs x.ctx)).map (fun c => c.halted)).getD true

/-- TWAIT_EXPIRY: chip time has reached the end of the delay. -/
def execTwaitExpiry (stream idx : Nat) (s : State) : Res :=
  match s.insOf stream idx with
  | none => .fault (.noAgent "instruction")
  | some e =>
    match e.wait with
    | .time t => if t ≤ s.chipTime && !s.streamHalted stream then .next (s.completeIns stream idx)
      else .fault (.notEnabled "delay")
    | _ => .fault (.notEnabled "twait")

/-- JUMP. -/
def execJump (f : SFmt) (s : State) : Res :=
  streamOp (.jump f) s (fun _ x _ => .jump s (x.pc + ((f.opnd.setWidth 32).signExtend 64 <<< 3)))

/-- HALT: nothing starts after it; STATE becomes 2 once every earlier instruction has completed. -/
def execHalt (f : SFmt) (s : State) : Res :=
  streamOp (.halt f) s (fun n x _ =>
    if x.ins.all (fun e => e.idx < x.base || e.idx == x.count) then .done (s.updS n (fun x => { x with state := 2 })) else .wait s .halt)

/-- SNOP. -/
def execSnop (f : SFmt) (s : State) : Res := streamOp (.snop f) s (fun _ _ _ => .done s)

/-! ### Residency (22 R393) -/

/-- The `n` entries of a residency list: base and length. -/
def entriesOf (b : List Byte) (n : Nat) : List (Nat × Nat) :=
  (List.range n).map (fun i => (leNat (sub b (16 * i) 8), leNat (sub b (16 * i + 8) 8)))

/-- Whether an entry breaks the alignment rule. -/
def badEntry (e : Nat × Nat) : Bool := e.1 % 128 != 0 || e.2 % 128 != 0

/-- The lines of ranges. -/
def Home.lines (k : Home) (l : List (Nat × Nat)) : Except HomeErr (List Nat) :=
  (l.flatMap (fun e => runsOf e.1 e.2)).foldlM (fun acc r => do
    let lf ← k.leaf r.1 false
    pure (acc ++ linesOf (lf.pa r.1) r.2)) []

/-- Whether a context would hold more distinct pinned lines than its partition's limit. -/
def State.overPinned (s : State) (cn : Nat) (c : Ctx) (new : List Nat) : Bool :=
  let llc := ((KMap.look s.parts c.part).map (fun p => p.llc)).getD 0
  let held := (s.pins.filter (fun p => p.ctx == cn)).flatMap (fun p => p.lines)
  llc * 8192 < (held ++ new).eraseDups.length

/-- RES: the lines are pinned and on their way into the LLC. -/
def execRes (f : SFmt) (s : State) : Res :=
  streamOp (.res f) s (fun n x k => (s.nextIns n x).with k (streamPtr f) 128 (fun r b => SAns.of r do
    let l := entriesOf b 8
    if l.any badEntry then pure (.stop 1 6 0)
    else do
      let lines ← k.lines l
      if s.overPinned x.ctx k.c lines then pure (.stop 0x20 0 0)
      else
        let s := { s with pins := s.pins ++ [⟨x.ctx, n, (streamPtr f), none, lines⟩] }
        pure (if lines.isEmpty then .done s else .wait s .resident)))

/-- RES_RELEASE: the earliest `res` of this stream with the same list that is not released. -/
def execResRelease (f : SFmt) (s : State) : Res :=
  streamOp (.resRelease f) s (fun n _ _ =>
    match s.pins.find? (fun p => p.stream == n && p.list == (streamPtr f) && p.launch.isNone) with
    | some p => .done { s with pins := s.pins.erase p }
    | none => .done s)

/-! ### Transfers (22 R389) -/

/-- XFER: the descriptor is read and checked; XFER_COMPLETE moves the bytes. -/
def execXfer (f : SFmt) (s : State) : Res :=
  streamOp (.xfer f) s (fun n x k => (s.nextIns n x).with k (streamPtr f) 256 (fun _ b =>
    let u (o n : Nat) : Nat := leNat (sub b o n)
    let fl := u 24 8
    if fl / 256 != 0 || bitsOf fl 3 2 != 0 || u 36 220 != 0 then .stop 1 1 0
    else if 2 ^ 40 < u 16 8 || 2 ≤ fl % 4 then .stop 1 6 0
    else if fl / 16 != 6 && fl / 16 != 7 then .stop 1 4 0
    else
      let fill := if fl % 4 == 1 then some (BitVec.ofNat 32 (u 32 4)) else none
      .wait s (.xfer (u 0 8) (u 8 8) (u 16 8) fill (fl / 16) 0 0)))

/-- The next piece of an `xfer`: the bytes up to the next aligned word of either side. -/
def XRun.piece (cn : Nat) (c : Ctx) (r : XRun) : XRun :=
  match r.ins.wait with
  | .xfer src dst len fill sc off _ =>
    let d := dst + off
    let k := min (min (8 - d % 8) (if fill.isNone then 8 - (src + off) % 8 else 8)) (len - off)
    let b := match fill with
      | some p => ((List.range k).map (fun i => BitVec.ofNat 8 (p.toNat / 2 ^ (8 * ((off + i) % 4)))), r)
      | none => r.read cn c sc (src + off) k
    (match b.2.stop with
      | some _ => b.2
      | none =>
        let w := b.2.write cn c sc d b.1
        let step (w : SWait) : SWait := match w with
          | .xfer a d n f sc o g => .xfer a d n f sc (o + k) g
          | w => w
        match w.stop with
        | some _ => w
        | none => { w with ins := { w.ins with wait := step w.ins.wait } })
  | _ => { r with stop := some .wait }

/-- Pieces moved until all are, or one stops the `xfer`. -/
def XRun.run (cn : Nat) (c : Ctx) : Nat → XRun → XRun
  | 0, r => r
  | f + 1, r =>
    match r.ins.wait, r.stop with
    | .xfer _ _ len _ _ off _, none => if len ≤ off then r else XRun.run cn c f (r.piece cn c)
    | _, _ => r

/-- The first page of an `xfer` that fails: nothing is moved before every page of both ranges translates, so that an
unresolvable fault of one leaves the `xfer` without effect (22 R383, R384; log entry 117). -/
def State.xferProbe (s : State) (c : Ctx) (w : SWait) : Option HomeErr :=
  match w with
  | .xfer src dst len fill _ 0 _ =>
    let side (va : Nat) (wr : Bool) : Option HomeErr := (runsOf va len).findSome? (fun r => match s.xferLeaf c r.1 wr with
      | .error e => some e
      | .ok _ => none)
    (if fill.isNone then side src false else none).or (side dst true)
  | _ => none

/-- An `xfer` goes on: it completes once all its bytes are visible at its scope, and may wait or fault before; `none` where
nothing can happen. -/
def State.xferStep (s : State) (n idx : Nat) : Option State :=
  match KMap.look s.streams n, s.insOf n idx with
  | some x, some e =>
    match e.wait, KMap.look s.ctxs x.ctx with
    | .xfer _ _ len _ _ _ _, some c =>
      if c.halted || e.fault then none
      else
        let r0 : XRun := ⟨s, n, e, none⟩
        let r := match s.xferProbe c e.wait with
          | some er => { r0 with stop := some (.err er) }
          | none => XRun.run x.ctx c len r0
        match r.stop with
        | some er => r.halt s x.ctx er
        | none =>
          let s' := r.s.keepIns n r.ins
          let gw := match r.ins.wait with
            | .xfer _ _ _ _ _ _ g => g
            | _ => 0
          if gw ≤ s.chipTime && !r.s.remote.any (fun a => a.gid.isNone && a.hold == streamHold n idx) then
            some (s'.completeIns n idx)
          else if r.ins != e then some s' else none
    | _, _ => none
  | _, _ => none

/-- XFER_COMPLETE: an `xfer` moves its bytes, and completes when they are visible at its scope. -/
def execXferComplete (stream idx : Nat) (s : State) : Res :=
  match s.xferStep stream idx with
  | some s' => .next s'
  | none => .fault (.notEnabled "xfer")

/-! ### Handing a range to the host (22 R392, 17 R342) -/

/-- Every L1 copy of lines in the `n` bytes from `va` dropped, leased or tagged (17 R341). -/
def State.dropRange (s : State) (c : Ctx) (va n : Nat) : State :=
  let covers (line : Nat) : Bool := (List.range (n / 65536)).any (fun i => match s.walkCtx c (va + 65536 * i) with
    | .ok l => !l.rem && l.pa (va + 65536 * i) / 128 ≤ line && line < l.pa (va + 65536 * i) / 128 + 512
    | .error _ => false)
  { s with l1 := s.l1.filter (fun x => !covers x.line) }

/-- HAND: the L1 copies of the range are dropped, and the value is written to the host's word. -/
def execHand (f : SFmt) (s : State) : Res :=
  streamOp (.hand f) s (fun n x k => (s.nextIns n x).with k (streamPtr f) 256 (fun r b => SAns.of r do
    let u (o n : Nat) : Nat := leNat (sub b o n)
    if u 32 224 != 0 then pure (.stop 1 1 0)
    else if u 0 8 % 8 != 0 || u 16 8 % 65536 != 0 || u 24 8 % 65536 != 0 then pure (.stop 1 6 0)
    else do
      let l ← s.xferLeaf k.c (u 0 8) true
      let pa := l.pa (u 0 8)
      if l.rem || isDevice pa || isRegSpace pa then pure (.stop 1 6 0)
      else if s.incAt pa 8 then .error (.wait pa 8 true)
      else pure (.done ((s.dropRange k.c (u 16 8) (u 24 8)).homeWrite none pa (sub b 8 8)))))

/-! ### Launches (22 R396 to R400) -/

/-- The record of a 256-byte image (22 R396). -/
def launchRecOf (b : List Byte) : LaunchRec :=
  let u (o : Nat) : Nat := leNat (sub b o 4)
  let f (o hi lo : Nat) : Nat := bitsOf (u o) hi lo
  { code := u 0, kernel := u 4, gx := u 8, gy := u 12, gz := u 16, width := f 20 23 16, groups := f 20 15 8
    lanes := u 24, regmax := f 28 15 8 * 8, regs := f 28 7 0 * 8, nres := f 32 31 28, gang := f 32 27 24
    paired := bitOf (u 32) 20, tilectx := bitOf (u 32) 19, acc := f 32 18 16, tob := f 32 15 8, banks := f 32 7 0
    wdog := f 36 15 11, prio := f 36 10 8, polctx := f 36 7 6, polgrid := f 36 5 4, polteam := f 36 3 2
    polgrp := f 36 1 0, tagoff := u 40, tagent := u 44, resptr := leNat (sub b 48 8)
    argptr := BitVec.ofNat 64 (leNat (sub b 56 8)), profile := u 64 }

/-- The offset of the first failing field of a record, but for its residency list (22 R397); `c` gives the handles and the
profile. -/
def State.launchField (s : State) (c : Ctx) (b : List Byte) (r : LaunchRec) : List (Bool × Nat) :=
  let u (o : Nat) : Nat := leNat (sub b o 4)
  let img := (KMap.look c.handles r.code).bind (fun h => KMap.look s.images h.1)
  let spad := 16384 * r.banks
  [(img.isNone, 0x00), ((img.map (fun m => m.kernels.length)).getD 0 ≤ r.kernel, 0x04), (r.gx == 0, 0x08),
    (r.gy == 0 || 2 ^ 32 < r.gx * r.gy, 0x0C), (r.gz == 0 || 2 ^ 32 < r.gx * r.gy * r.gz, 0x10),
    (bitsOf (u 20) 31 24 != 0 || bitsOf (u 20) 7 0 != 0 || !(r.width == 16 || r.width == 32 || r.width == 64) ||
      r.groups == 0 || 16 < r.groups, 0x14),
    (r.lanes ≤ (r.groups - 1) * r.width || r.groups * r.width < r.lanes, 0x18),
    (bitsOf (u 28) 31 16 != 0 || r.regs == 0 || 256 < r.regs || r.regmax < r.regs || 256 < r.regmax ||
      32768 < r.groups * r.width * r.regmax, 0x1C),
    (bitsOf (u 32) 23 21 != 0 || 28 < r.banks + r.tob || 4 < r.acc || (r.acc != 0 && !r.tilectx) ||
      (r.tilectx && r.banks == 0) || r.gang == 0 || 8 < r.gang || (r.paired && 4 < r.gang) || 8 < r.nres, 0x20),
    (bitsOf (u 36) 31 16 != 0 || (r.wdog != 0 && r.wdog < 16), 0x24),
    (r.tagent != 0 && (r.tagoff % 16 != 0 || spad < r.tagoff + 4 * r.tagent ||
      (r.tilectx && spad < r.tagoff + 4 * r.tagent + 256)), 0x28),
    (r.tagent != 0 && !((List.range 11).any (fun i => r.tagent == 2 ^ (i + 2))), 0x2C)]

/-- The fields of a record after the residency list. -/
def Ctx.launchRest (c : Ctx) (b : List Byte) (r : LaunchRec) : List (Bool × Nat) :=
  [(r.profile != 0 && r.profile != (c.profile.get 0).toNat, 0x40), (leNat (sub b 0x44 188) != 0, 0x44)]

/-- The first failing field. -/
def firstField (l : List (Bool × Nat)) : Option Nat := (l.find? (fun e => e.1)).map (fun e => e.2)

/-- The partition of a context. -/
def State.partOf (s : State) (cn : Nat) : Nat := ((KMap.look s.ctxs cn).map (fun c => c.part)).getD 0

/-- The number of teams of a launch. -/
def LaunchRec.teams (r : LaunchRec) : Nat := r.gx * r.gy * r.gz

/-- The placement units of a launch (22 R401). -/
def unitsOf (lid : Nat) (r : LaunchRec) (now : Nat) : List PUnit :=
  (List.range ((r.teams + r.gang - 1) / r.gang)).map (fun j =>
    ⟨lid, j * r.gang, min r.gang (r.teams - j * r.gang), now, false, []⟩)

/-- A launch's teams join their partition's distributor queue (22 R398). -/
def State.joinDist (s : State) (lid : Nat) : State :=
  match KMap.look s.launches lid with
  | none => s
  | some l =>
    let p := s.partOf l.ctx
    let q := (KMap.look s.dist p).getD [] ++ unitsOf lid l.lr s.chipTime
    { s with dist := KMap.put s.dist p q }.updL lid (fun l => { l with queued := true })

/-- The residency ranges of a launch: their list entries, checked, and their lines; a failing check is field 0x30. -/
def launchRanges (s : State) (cn : Nat) (k : Home) (l : List (Nat × Nat)) : Except HomeErr (Option (List Nat)) :=
  if l.any badEntry then pure none
  else do
    let lines ← k.lines l
    pure (if s.overPinned cn k.c lines then none else some lines)

/-- The launches that the DEP of an early launch names, of those not complete (22 R400). -/
def Stream.predsOf (x : Stream) (dep : BitVec 8) : List Nat :=
  (List.range 8).filterMap (fun j =>
    if dep.getLsbD j && x.base + 1 + j ≤ x.count then
      (x.ins.find? (fun e => e.idx == x.count - 1 - j)).bind (fun e => match e.wait with
        | .launch lid => some lid
        | _ => none)
    else none)

/-- LAUNCH: the record is read once and checked, the ranges are pinned, and the teams join the queue once every line is
resident (22 R397, R398). -/
def execLaunch (f : SFmt) (s : State) : Res :=
  streamOp (.launch f) s (fun n x k => (s.nextIns n x).with k (streamPtr f) 256 (fun rd b =>
    let r := launchRecOf b
    let start (lines : List Nat) : SAns :=
      match firstField (k.c.launchRest b r) with
      | some o => .stop 0x20 0 o
      | none =>
        let lid := s.nextId
        let early := f.opnd.getLsbD 49
        let h := (KMap.look k.c.handles r.code).getD (0, 0, 0)
        let m := (KMap.look s.images h.1).getD Image.empty
        let entry := (m.kernels[r.kernel]?.map (fun e => e.2)).getD 0
        let l : Launch := ⟨x.ctx, n, x.count, r, early, if early then x.predsOf f.dep else [], false, [], false, false,
          h.1, entry, h.2.1 + m.codeOff⟩
        let s := { s with
          nextId := s.nextId + 1, launches := KMap.put s.launches lid l
          pins := if lines.isEmpty then s.pins else s.pins ++ [⟨x.ctx, n, r.resptr, some lid, lines⟩] }
        .wait (if lines.isEmpty then s.joinDist lid else s) (.launch lid)
    match firstField (s.launchField k.c b r) with
    | some o => .stop 0x20 0 o
    | none =>
      if r.nres == 0 then start []
      else if r.resptr == 0 || r.resptr % 256 != 0 then .stop 0x20 0 0x30
      else rd.with k r.resptr (16 * r.nres) (fun rd b => SAns.of rd do
        match (← launchRanges s x.ctx k (entriesOf b r.nres)) with
        | none => pure (.stop 0x20 0 0x30)
        | some lines => pure (start lines))))

/-- RANGES_RESIDENT: the last line is resident: a `res` completes, a launch queues its teams (22 R393, R398). -/
def execRangesResident (stream idx : Nat) (s : State) : Res :=
  match s.insOf stream idx with
  | none => .fault (.noAgent "instruction")
  | some e =>
    if s.streamHalted stream then .fault (.notEnabled "halted")
    else
      match e.wait with
      | .resident => .next (s.completeIns stream idx)
      | .launch lid =>
        (match KMap.look s.launches lid with
          | some l => if l.queued || l.killed then .fault (.notEnabled "ranges") else .next (s.joinDist lid)
          | none => .fault (.noAgent "launch"))
      | _ => .fault (.notEnabled "ranges")

/-- Whether every team of a launch has started and has then triggered or exited, or the launch has completed (22 R400). -/
def State.earlyOk (s : State) (lid : Nat) : Bool :=
  match KMap.look s.launches lid with
  | none => true
  | some l => l.complete || (l.queued && l.triggered.length == l.lr.teams)

/-- Whether everything that a launch's completion waits for holds (22 R399). -/
def State.launchDone (s : State) (lid : Nat) (l : Launch) : Bool :=
  let mine (h : Half) : Bool := h.launch == lid
  let quiet (gid : Nat) (g : Group) : Bool :=
    g.sched == .exited && g.fault.isNone && g.gwPend.isEmpty && g.gw.toNat ≤ s.chipTime && g.hostW == 0 && g.held.isEmpty &&
      g.fences.isEmpty && !s.remote.any (fun a => a.gid == some gid) && s.incs.all (fun x => x.2.all (fun i => i.gid != some gid))
  (l.queued || l.killed) && !l.complete &&
  s.dist.all (fun q => q.2.all (fun u => u.launch != lid)) &&
  s.saved.all (fun x => x.half.launch != lid) &&
  s.halves.all (fun h => !mine h.2 || (h.2.released && !s.tilePosted h.1 s.nextId && (s.gidsOf h.1).all (fun gid => match KMap.look s.groups gid with
    | some g => quiet gid g
    | none => true))) &&
  s.entries.all (fun e => e.launch != lid) &&
  s.visible.all (fun v => v.launch != lid || v.gwct.toNat ≤ s.chipTime) &&
  s.predsDone lid && !((KMap.look s.ctxs l.ctx).map (fun c => c.halted)).getD false

/-- LAUNCH_COMPLETE: the launch's pins are released, its teams are no more, its dependents may start (22 R399). -/
def execLaunchComplete (launch : Nat) (s : State) : Res :=
  match KMap.look s.launches launch with
  | none => .fault (.noAgent "launch")
  | some l =>
    if !s.launchDone launch l then .fault (.notEnabled "launch")
    else
      let hids := (s.halves.filter (fun h => h.2.launch == launch)).map (fun h => h.1)
      let s := if l.killed then s.updS l.stream (fun x => { x with killed := true }) else s
      let s := { s with
        pins := s.pins.filter (fun p => p.launch != some launch)
        halves := s.halves.filter (fun h => h.2.launch != launch)
        groups := s.groups.filter (fun g => !hids.contains g.2.hid)
        visible := s.visible.filter (fun v => v.launch != launch)
        launches := KMap.del s.launches launch }
      .next ((s.sweepImages.completeIns l.stream l.idx).predCheck)

/-! ### Starting an instruction (22 R386) -/

/-- Whether every instruction that a word's DEP names has completed, but for the early launches of 22 R400. -/
def State.depsDone (s : State) (x : Stream) (w : DWord) : Bool :=
  let early := fld w 0 6 == 1 && w.getLsbD 63
  (List.range 8).all (fun j =>
    !(w.getLsbD (6 + j)) || x.count < x.base + 1 + j ||
      (match x.ins.find? (fun e => e.idx == x.count - 1 - j) with
        | none => true
        | some e => early && (match e.wait with
          | .launch lid => s.earlyOk lid
          | _ => false)))

/-- Whether the next instruction may start, as far as its word is not concerned. -/
def State.streamReady (s : State) (x : Stream) : Bool :=
  x.state == 1 && !s.ctxHalted x.ctx &&
  x.ins.all (fun e => e.idx < x.base || (e.wait != .halt && (e.wait != .fetch || !e.fault) && x.count < e.idx + 9))

/-- The meaning of a stream instruction, for the stream that is current. -/
def streamRun (i : Instr) (s : State) : Res :=
  match i with
  | .launch f => execLaunch f s
  | .xfer f => execXfer f s
  | .sigevAdd f => execSigevAdd f s
  | .sigevSet f => execSigevSet f s
  | .waitev f => execWaitev f s
  | .twait f => execTwait f s
  | .hand f => execHand f s
  | .res f => execRes f s
  | .resRelease f => execResRelease f s
  | .jump f => execJump f s
  | .halt f => execHalt f s
  | .snop f => execSnop f s
  | _ => .fault .noCurrent

/-- STREAM_INSTRUCTION_START: the next word of a stream is read, at its home, and its instruction starts (22 R383 to
R386). -/
def execStreamInstructionStart (stream : Nat) (s : State) : Res :=
  match KMap.look s.streams stream with
  | none => .fault (.noAgent "stream")
  | some x =>
    if !s.streamReady x then .fault (.notEnabled "stream")
    else
      match s.homeOf x.ctx with
      | none => .fault (.noAgent "context")
      | some k =>
        match (s.nextIns stream x).fetch k x.pc.toNat 8 with
        | (r, .error e) => (match r.halt s x.ctx e with
          | some s' => .next s'
          | none => .fault (.notEnabled "word"))
        | (r, .ok b) =>
          let w : DWord := BitVec.ofNat 64 (leNat b)
          if !s.depsDone x w then .fault (.notEnabled "dependences")
          else
            match decodeStream w with
            | .error c => .next (s.streamStop stream 1 c 0 x.pc x.pc)
            | .ok i => streamRun i { s.keepIns stream r.ins with cur := .stream stream }

/-- A fault of a stream instruction is resolved: replay goes on with the same instruction and what it has read, unresolvable
stops the stream (22 R383). -/
def State.streamResolve (s : State) (n idx : Nat) (replay : Bool) (code : Nat) : State :=
  match s.insOf n idx with
  | none => s
  | some e =>
    if replay then s.updIns n idx (fun e => { e with fault := false })
    else
      let running := ((KMap.look s.streams n).map (fun x => x.state == 1 && x.base ≤ idx)).getD false
      let s := s.completeIns n idx
      if running then s.streamStop n code 0 0 e.va e.va else s

end Sys2Proof.Machine
end

