-- ==== Sys2Proof/Machine/Faults.lean ====
section
/-! DEFINITION. Faults.lean: the resolutions of the fault service (26 R444, 17 R337, 10 R257) and the writing of fault
records that found no room (26 R443). -/
namespace Sys2Proof.Machine

/-! ### A group -/

/-- A parked group goes on: what it holds performs in order, in the lanes left (05 R121, 17 R337); the service of a ROUND_STALL
has fetched the line of the stalled load from its home (05 R125). -/
def State.replayGroup (s : State) (gid : Nat) : State :=
  match KMap.look s.groups gid with
  | none => s
  | some g =>
    let on (g : Group) : Group := if g.sched == .parked then { g with fault := none }.wake else { g with fault := none }
    let s := s.updG gid on
    let line (h : HeldI) (r : FaultRec) : DWord :=
      laneMask ((List.range 64).filter (fun j => (h.va.get j).toNat / 128 == r.w1.toNat / 128))
    let served := match g.fault with
      | some r =>
        if r.code == 0x12 then (g.held.find? (fun h => h.pc == r.at_ && h.lanes != 0#64)).map (fun h => (h.id, line h r)) else none
      | none => none
    (s.replayHeld gid served).afterLand gid

/-- The faulting instruction of a parked group gets its ignore result: one that is held in its lanes left, one that has not
issued in its enabled lanes, with the group at the next instruction; a report of lost stores has none (09 R231,
17 R346). -/
def State.ignoreFault (s : State) (gid : Nat) (g : Group) (r : FaultRec) : State :=
  match g.held.find? (fun h => h.pc == r.at_ && h.lanes != 0#64) with
  | some h =>
    let w := h.instr.ignoreWrites g ((List.range 64).filter (fun j => h.lanes.getLsbD j))
    let drop (x : Group) : Group := (x.arrived h.id w).dropHeld h.id
    (s.updG gid drop).replayGroup gid
  | none =>
    if r.code == 0x13 && r.mask == 0#64 then s.replayGroup gid
    else
      let word := (s.fetchLane (s.coreOf g) (s.ctxOf g) g.pc g.em).1
      let w := match word with
        | .ok x => (match decodeLane x with
          | .ok i => i.ignoreWrites g (g.enabled s.stamp (unpackHead x))
          | .error _ => [])
        | .error _ => []
      -- one that has issued counts in `watch`, however it ends; one that was not fetched has not (09 R224, R225)
      let counted (x : Group) : Group := if r.w0.toNat / 2 ^ 16 % 8 == 3 then x else x.tick
      (s.updG gid (fun x => { (counted x).wrNow w with pc := g.pc + 8#64 })).replayGroup gid

/-- A recoverable fault of a group is unresolvable: containment from group level (09 R230 to R232). -/
def State.groupUnresolved (s : State) (gid : Nat) (r : FaultRec) : State :=
  match KMap.look s.groups gid with
  | none => s
  | some g =>
    match KMap.look s.halves g.hid with
    | none => s
    | some h =>
      let pol (l : Nat) : Nat := ((s.lrOf h).map (fun x => x.policy l)).getD 3
      let note := s.record h.ctx 1 0 gid 0 (s.groupPlace g) r
      let absorbed (l : Nat) : State := (if l == 3 then note else s).absorb h.ctx
      match containment pol (fun l => (g.retries.get l).toNat) [0, 1, 2, 3] with
      | .ignore l => (absorbed l).ignoreFault gid g r
      | .retry l =>
        let again (h : HeldI) : HeldI := if h.pc == r.at_ && h.lanes != 0#64 then { h with again := true } else h
        ((absorbed l).updG gid (fun x =>
          { x with retries := x.retries.set l (x.retries.get l + 1#8), held := x.held.map again })).replayGroup gid
      | .kill 0 => withTraps ((note.unfault (fun e => e.issuer == .group gid)).killGroups [gid])
      | .kill 1 => withTraps (note.killTeam g.hid)
      | .kill 2 => withTraps (note.killGrid h.launch)
      | .kill _ => withTraps (note.killCtx h.ctx r.code)
      | .fatal => note.fatal h.ctx r.code r 0 gid (s.groupPlace g)

/-! ### A tile context -/

/-- A synchronous fault of a tile context is unresolvable: containment from team level; under ignore its bundle runs
without the faulting slot, one that was not fetched is stepped over, and after a lost store the context goes on
(09 R230, R231). -/
def State.tileUnresolved (s : State) (hid : Nat) (f : TFault) : State :=
  let s := s.updT hid (fun t => { t with fault := none })
  let s := match s.tileTrap hid f.slot f.opindex f.frec with
    | (some s', _) => s'
    | (none, s') =>
      match f.what with
      | 0 => (s'.tileSkip hid f.slot).bundleStep hid
      | 1 =>
        let m := (((KMap.look s'.halves hid).bind s'.imageOf)).getD Image.empty
        -- the header was fetched where the fault is one of a slot word's page
        s'.stepOver hid m (((s'.tileOf hid).map (fun t : Tile => m.bundleVa + t.pc)) != some f.frec.w1.toNat)
      | _ => s'
  match (s.tileOf hid).map (fun t : Tile => t.fault) with
  | some none => s.tileClear hid
  | _ => s

/-! ### Resolutions (26 R444) -/

/-- Whether the fault is one of a command, which all four resolutions fit (10 R257). -/
def FQRec.ofCommand (r : FQRec) : Bool := r.cmd != 0 && r.source < 2

/-- Whether resolution `res` applies to a fault: skip and retry are for commands. -/
def FQRec.takes (r : FQRec) (res : Nat) : Bool := res == 0 || res == 3 || (r.ofCommand && res < 4)

/-- A resolution of a command's fault (10 R257); for cause index, patch counts as unresolvable. -/
def State.resolveCmd (s : State) (r : FQRec) (res : Nat) (fill : Word) : State :=
  match s.entry r.cmd with
  | none => s
  | some e =>
    let res := if res == 0 && r.frec.code == codeCopyFault && r.frec.cause == 4 then 3 else res
    match res with
    | 0 => (s.updEnt e.id (fun e => { e with fault := none })).issuerGo e
    | 1 => (s.updEnt e.id (fun e => { e with fault := none, skip := 2, fill := fill })).issuerGo e
    | 2 => (s.updEnt e.id QEnt.again).issuerGo e
    | _ => s.contain e r.frec

/-- A resolution takes effect. -/
def State.applyRes (s : State) (r : FQRec) (res : Nat) (fill : Word) : State :=
  if r.ofCommand then s.resolveCmd r res fill
  else if r.source == 2 then s.streamResolve r.unit r.cmd (res == 0) r.frec.code
  else if r.source == 1 then
    match (s.tileOf r.unit).bind (fun t => t.fault) with
    | some f =>
      -- the service of a ROUND_STALL fetches the line from its home (05 R125, 07 R192)
      let served (t : Tile) : Tile :=
        if f.frec.code == 0x12 then { t with rem := KMap.put t.rem servedKey f.frec.w1 } else t
      if res == 0 then (s.updT r.unit served).tileClear r.unit else s.tileUnresolved r.unit f
    | none => s
  else
    match (KMap.look s.groups r.unit).bind (fun g => g.fault) with
    | some _ => if res == 0 then s.replayGroup r.unit else s.groupUnresolved r.unit r.frec
    | none => s

/-- Whether the unit that a record names is not on a core now (17 R337): its context is halted, or it is saved. -/
def State.away (s : State) (c : Ctx) (r : FQRec) : Bool :=
  c.halted || s.saved.any (fun x =>
    if r.ofCommand then x.residue.any (fun e => e.2.id == r.cmd)
    else if r.source == 1 then x.hid == r.unit
    else r.source == 0 && (KMap.look x.groups r.unit).isSome)

/-- One more resolution ignored. -/
def State.badResp (s : State) (cn : Nat) : State :=
  s.updC cn (fun c => { c with fq := { c.fq with badresp := c.fq.badresp + 1#32 } })

/-- Record `id` is outstanding no more, and neither is a resolution kept for it. -/
def State.dropRec (s : State) (cn id : Nat) : State :=
  s.updC cn (fun c => { c with fq := { c.fq with
    recs := c.fq.recs.filter (fun x => x.id != id), held := c.fq.held.filter (fun x => x.1 != id) } })

/-- A write of ID with RES to a context's fault queue: applied, kept while the unit is away, or ignored. -/
def State.resolve (s : State) (cn id res : Nat) : State :=
  match KMap.look s.ctxs cn with
  | none => s
  | some c =>
    match c.fq.recs.find? (fun r => r.id == id && r.cls == 0) with
    | none => s.badResp cn
    | some r =>
      if !r.takes res || c.fq.held.any (fun x => x.1 == id) then s.badResp cn
      else if s.away c r then
        s.updC cn (fun c => { c with fq := { c.fq with held := c.fq.held ++ [(id, res + 16 * c.fq.fill.toNat)] } })
      else (s.dropRec cn id).applyRes r res c.fq.fill

/-- Resolutions kept for units that are back take effect (17 R337, 24 R419). -/
def State.applyHeld (s : State) (cn : Nat) : State :=
  match KMap.look s.ctxs cn with
  | none => s
  | some c =>
    c.fq.held.foldl (fun s h =>
      match (KMap.look s.ctxs cn).bind (fun c => (c.fq.recs.find? (fun r => r.id == h.1)).map (fun r => (c, r))) with
      | some (c, r) =>
        if s.away c r then s else (s.dropRec cn h.1).applyRes r (h.2 % 16) (BitVec.ofNat 32 (h.2 / 16))
      | none => s) s

/-- A resolution as an event. -/
def resolveEvent (cn id res : Nat) (s : State) : Res :=
  match KMap.look s.ctxs cn with
  | none => .fault (.noAgent "context")
  | some _ => .next (s.resolve cn id res)

/-- RESOLVE_REPLAY_PATCH. -/
def execResolveReplayPatch (ctx id : Nat) (s : State) : Res := resolveEvent ctx id 0 s
/-- RESOLVE_SKIP. -/
def execResolveSkip (ctx id : Nat) (s : State) : Res := resolveEvent ctx id 1 s
/-- RESOLVE_RETRY. -/
def execResolveRetry (ctx id : Nat) (s : State) : Res := resolveEvent ctx id 2 s
/-- RESOLVE_UNRESOLVABLE. -/
def execResolveUnresolvable (ctx id : Nat) (s : State) : Res := resolveEvent ctx id 3 s

/-- FAULT_RECORD_WRITE: a waiting record is written, or the host is asked to give up the place for it (25 R425). -/
def execFaultRecordWrite (ctx : Nat) (s : State) : Res :=
  match (KMap.look s.ctxs ctx).bind (fun c => c.fq.nextRec) with
  | none => .fault (.notEnabled "record")
  | some r => .next (s.writeRec ctx r.id)

end Sys2Proof.Machine
end

