-- ==== Sys2Proof/Machine/System.lean ====
section
/-! DEFINITION. System.lean: the lane side of `gate` (05 R148, 12 R288), registers on demand (05 R149, 09 R226), and the
system instructions (05 R150, 01 R25 to R29, 23 R412). -/
namespace Sys2Proof.Machine

/-- GATE: the group arrives and blocks; a differing immediate, or `em` ≠ `live`, is ILLEGAL_CONVERGENCE in every group
that has arrived (12 R288). -/
def execGate (f : LFmt) (s : State) : Res :=
  lane (.gate f) f.hd s (fun gid g s =>
    match KMap.look s.halves g.hid with
    | none => .gone s
    | some h =>
      let first := match h.gateArr with | [] => f.imm | a :: _ => a.2.1
      let arr := h.gateArr ++ [(gid, f.imm, g.em)]
      let s := s.blockG gid f.hd .gate
      if first != f.imm || g.em != g.live then
        let todo (a : Nat × Word × DWord) : Option Todo := (KMap.look s.groups a.1).map (fun y =>
          ⟨a.1, trapRec 2 (b2n (first != f.imm)) (pairWord f.imm first) g.em g.live y.pc, []⟩)
        .gone (withTraps (s.updH g.hid (fun h => { h with gateArr := [] }), arr.filterMap todo))
      else .gone (withTraps ((s.updH g.hid (fun h => { h with gateArr := arr })).gateCheck g.hid)))

/-- Lane registers that the groups of a quarter hold (09 R215). -/
def State.regsUsed (s : State) (q : Nat) : Nat :=
  ((s.groups.filter (fun e => e.2.sched != .exited && s.quarterOf e.2 == q)).map (fun e => e.2.n * e.2.width)).foldl
    (· + ·) 0

/-- Lane registers of a quarter (09 R215). -/
def regsOfQuarter : Nat := 32768

/-- A request granted: the allocation grows, and gD receives it before the next instruction (05 R149, 03 R72). -/
def Group.grow (g : Group) (amt d : Nat) : Group :=
  let g := { g with n := g.n + amt }
  g.wrNow (wG (BitVec.ofNat 8 d) (BitVec.ofNat 32 g.n))

/-- REGGROW (05 R149, 09 R226). -/
def execReggrow (f : YFmt) (s : State) : Res :=
  lane (.reggrow f) f.hd s (fun gid g s =>
    let amt := f.imm.toNat
    let max := (((KMap.look s.halves g.hid).bind s.lrOf).map (fun r => r.regmax)).getD 0
    let q := s.quarterOf g
    let wait := (KMap.look s.grow q).getD []
    if max < g.n + amt then illegal (.reggrow f) g 6
    else if wait.isEmpty && s.regsUsed q + amt * g.width ≤ regsOfQuarter then
      .gone (s.updG gid (fun x => (x.finish f.hd.s (g.pc + 8#64) []).grow amt f.d.toNat))
    else
      let s := if wait.isEmpty then s.freed q else s
      let s := { s with grow := KMap.put s.grow q (wait ++ [(gid, amt, f.d.toNat)]) }
      .gone (s.blockG gid f.hd (.reggrow amt f.d.toNat)))

/-- Requests granted from the head of the queue while the head fits (09 R226). -/
def State.grantAll (s : State) (q : Nat) : Nat → State
  | 0 => s
  | k + 1 =>
    match KMap.look s.grow q with
    | some ((gid, amt, d) :: rest) =>
      match KMap.look s.groups gid with
      | none => State.grantAll { s with grow := KMap.put s.grow q rest } q k
      | some g =>
        if s.regsUsed q + amt * g.width ≤ regsOfQuarter then
          let s := { s with grow := KMap.put s.grow q rest, growTime := KMap.put s.growTime q s.chipTime }
          State.grantAll (s.updG gid (fun x => (x.grow amt d).completeWait)) q k
        else s
    | _ => s

/-- REGGROW_GRANT (09 R226). -/
def execReggrowGrant (core quarter : Nat) (s : State) : Res :=
  let q := core * 4 + quarter
  match (KMap.look s.grow q).getD [] with
  | [] => .fault (.notEnabled "request")
  | (gid, amt, _) :: _ =>
    match KMap.look s.groups gid with
    | none => .next (s.grantAll q 64)
    | some g =>
      if s.regsUsed q + amt * g.width ≤ regsOfQuarter then .next (s.grantAll q 64) else .fault (.notEnabled "registers")

/-- REGSHR: once covered writes and the results of `wc0`, `wc1` and `wc3` have landed, registers go back (05 R149). -/
def execRegshr (f : YFmt) (s : State) : Res :=
  lane (.regshr f) f.hd s (fun gid g s =>
    let amt := f.imm.toNat
    if g.n < amt + 8 then illegal (.regshr f) g 6
    else if g.landings.any (fun l => l.path != some 2) then .gone (s.blockG gid f.hd .issue)
    else
      let m := g.n - amt
      .gone ((s.freed (s.quarterOf g)).updG gid (fun x =>
        ({ x.finish f.hd.s (g.pc + 8#64) [] with n := m, v := x.v.filter (fun e => e.1 < m * 64) } : Group).wrNow
          (wG f.d (BitVec.ofNat 32 m)))))

/-- TRAP: USER_TRAP with its code (05 R150). -/
def execTrap (f : YFmt) (s : State) : Res :=
  lane (.trap f) f.hd s (fun _ g _ => .trap (trapRec 6 0 (f.imm.setWidth 64) 0#64 0#64 g.pc))

/-- The value of a group special register (01 R28). -/
def State.special (s : State) (g : Group) (x : Nat) : Word :=
  let h := KMap.look s.halves g.hid
  let lr := h.bind s.lrOf
  let ofLr (f : LaunchRec → Nat) : Word := BitVec.ofNat 32 ((lr.map f).getD 0)
  let team := (h.map (fun h => h.team)).getD 0
  let gx := ((lr.map (fun r => r.gx)).getD 1)
  let gy := ((lr.map (fun r => r.gy)).getD 1)
  match x with
  | 0x01 => BitVec.ofNat 32 g.width
  | 0x02 => BitVec.ofNat 32 g.idx
  | 0x03 => ofLr (fun r => r.groups)
  | 0x04 => BitVec.ofNat 32 team
  | 0x05 => BitVec.ofNat 32 (team % gx)
  | 0x06 => BitVec.ofNat 32 (team / gx % gy)
  | 0x07 => BitVec.ofNat 32 (team / gx / gy)
  | 0x08 => ofLr (fun r => r.gx)
  | 0x09 => ofLr (fun r => r.gy)
  | 0x0A => ofLr (fun r => r.gz)
  | 0x0B => BitVec.ofNat 32 ((h.map (fun h => h.half)).getD 0)
  | 0x0C => loWord g.em
  | 0x0D => hiWord g.em
  | 0x0E => loWord g.live
  | 0x0F => hiWord g.live
  | 0x10 => g.fm
  | 0x12 => loWord g.gw
  | 0x13 => hiWord g.latchG
  | 0x14 => loWord s.time64
  | 0x15 => hiWord g.latchT
  | 0x16 => g.migrations
  | 0x17 => ((KMap.look s.ctxs (s.ctxOf g)).map (fun c => c.profile.get 0)).getD 0#32
  | 0x18 => BitVec.ofNat 32 g.n
  | _ => g.watch

/-- GETS (05 R150); a read of a low half captures its latch (01 R29). -/
def execGets (f : YFmt) (s : State) : Res :=
  lane (.gets f) f.hd s (fun gid g s =>
    let x := f.imm.toNat
    let en := g.enabled s.stamp f.hd
    match x with
    | 0x00 => .ok s (en.flatMap (fun j => wV f.d j (BitVec.ofNat 32 j)))
    | 0x11 => .ok s (en.flatMap (fun j => wV f.d j ((g.read s.stamp (kfx j)).setWidth 32)))
    | 0x12 => .ok (s.updG gid (fun y => { y with latchG := g.gw })) (wG f.d (s.special g x))
    | 0x14 => .ok (s.updG gid (fun y => { y with latchT := s.time64 })) (wG f.d (s.special g x))
    | _ => .ok s (wG f.d (s.special g x)))

/-- SETS (05 R150; 01 R18, R25, R27). -/
def execSets (f : YFmt) (s : State) : Res :=
  lane (.sets f) f.hd s (fun gid g s =>
    let v := g.rg s.stamp f.a
    match f.imm.toNat with
    | 0x0C => .ok (s.updG gid (fun y => y.setEm (pairWord (hiWord g.em) v))) []
    | 0x0D => .ok (s.updG gid (fun y => y.setEm (pairWord v (loWord g.em)))) []
    | 0x10 =>
      if v.extractLsb' 6 26 != 0#26 then illegal (.sets f) g 6 else .ok (s.updG gid (fun y => { y with fm := v })) []
    | _ =>
      .ok (s.updG gid (fun y => y.wrNow ((g.enabled s.stamp f.hd).map (fun j =>
        (kfx j, (g.rv s.stamp f.a j &&& 0x1F#32).setWidth 64))))) [])

/-- QFEAT: a word of the frozen profile (23 R412). -/
def execQfeat (f : YFmt) (s : State) : Res :=
  lane (.qfeat f) f.hd s (fun _ g s =>
    .ok s (wG f.d (((KMap.look s.ctxs (s.ctxOf g)).map (fun c => c.profile.get f.imm.toNat)).getD 0#32)))

/-- Word `x` of the physical facts of a place (23 R412). -/
def State.physical (s : State) (core quarter part x : Nat) : Word :=
  match x with
  | 0 => Config.stepping
  | 1 => BitVec.ofNat 32 s.ibmir.clock
  | 2 => Config.deviceNumber.setWidth 32
  | 3 => BitVec.ofNat 32 core
  | 4 => BitVec.ofNat 32 quarter
  | 5 => BitVec.ofNat 32 ((List.range 4).countP (fun q => s.matrixAlive core q))
  | 6 => BitVec.ofNat 32 part
  | 7 => loWord (Config.mapDigest s.ibmir.map)
  | 8 => hiWord (Config.mapDigest s.ibmir.map)
  | _ => 0#32

/-- QPHYS (23 R412). -/
def execQphys (f : YFmt) (s : State) : Res :=
  lane (.qphys f) f.hd s (fun _ g s =>
    let h := KMap.look s.halves g.hid
    let part := ((KMap.look s.ctxs (s.ctxOf g)).map (fun c => c.part)).getD 0
    .ok s (wG f.d (s.physical (s.coreOf g) ((h.map (fun h => h.quarter)).getD 0) part f.imm.toNat)))

end Sys2Proof.Machine
end

