-- ==== Sys2Proof/Machine/Distributor.lean ====
section
/-! DEFINITION. Distributor.lean: how teams come to quarters and leave them: the fit of 09 R215 to R217, team start
(01 R13, R30; 10 R235, R242), units saved and brought back (12 R294, R299; 09 R228; 24 R419), the walk of 22 R402, the
gathering of 22 R403, and the arbiter's eviction (09 R227). -/
namespace Sys2Proof.Machine

/-! ### Resources (09 R215) -/

/-- What one half of a team takes. -/
structure Need where
  slots : Nat
  regs : Nat
  tiles : Nat
  acc : Nat
  banks : Nat
  deriving DecidableEq, Repr

/-- Sums of needs. -/
def Need.add (a b : Need) : Need := ⟨a.slots + b.slots, a.regs + b.regs, a.tiles + b.tiles, a.acc + b.acc, a.banks + b.banks⟩

/-- Whether a group still holds its slot. -/
def Group.holdsSlot (g : Group) : Bool := g.sched != .exited || (List.range 4).any (fun c => g.wc.get c != 0#8)

/-- What a half holds with its groups. -/
def Half.holds (h : Half) (gs : List Group) : Need :=
  let live := gs.filter (fun g => g.sched != .exited)
  let tile := if h.tileFree then none else h.tile
  ⟨(gs.filter Group.holdsSlot).length, (live.map (fun g => g.n * g.width)).foldl (· + ·) 0, b2n tile.isSome,
    (tile.map (fun t => t.grant)).getD 0, h.banks.length⟩

/-- What a new half of a launch takes. -/
def LaunchRec.need (r : LaunchRec) : Need :=
  ⟨r.groups, r.groups * r.width * r.regs, b2n r.tilectx, r.acc, r.banks + r.tob⟩

/-- What all halves in a quarter hold. -/
def State.heldIn (s : State) (core q : Nat) : Need :=
  (s.halves.filter (fun h => h.2.core == core && h.2.quarter == q)).foldl (fun a h =>
    a.add (h.2.holds ((s.gidsOf h.1).filterMap (fun g => KMap.look s.groups g)))) ⟨0, 0, 0, 0, 0⟩

/-- A place for one half of a team. -/
structure Seat where
  team : Nat
  half : Nat
  core : Nat
  quarter : Nat
  deriving DecidableEq, Repr

/-- Whether halves fit together at their seats: slots, registers, tile contexts and accumulators of each quarter, banks of
each core, a matrix unit where accumulators are granted (09 R215 to R217, 27 R449). -/
def State.fits (s : State) (l : List (Seat × Need)) : Bool :=
  l.all (fun e =>
    let here := l.filter (fun x => x.1.core == e.1.core && x.1.quarter == e.1.quarter)
    let sum := here.foldl (fun a x => a.add x.2) (s.heldIn e.1.core e.1.quarter)
    let mates := l.filter (fun x => x.1.core == e.1.core)
    let banks := ((List.range 4).map (fun q => (s.heldIn e.1.core q).banks)).foldl (· + ·) 0 +
      (mates.map (fun x => x.2.banks)).foldl (· + ·) 0
    sum.slots ≤ 16 && sum.regs ≤ regsOfQuarter && sum.tiles ≤ 2 && sum.acc ≤ 4 && banks ≤ 28 &&
      (e.2.acc == 0 || s.matrixAlive e.1.core e.1.quarter))

/-! ### Positions (22 R401, R402) -/

/-- The pairs of a partition. -/
def State.pairsOf (s : State) (part : Nat) : List Nat :=
  match KMap.look s.parts part with
  | some p => (List.range 96).filter (fun i => p.pairs.getLsbD i && Config.pairAlive i)
  | none => []

/-- The positions of a unit of teams `first` to `first + count - 1`, lowest first: each a seat for every half. -/
def LaunchRec.positions (r : LaunchRec) (first count : Nat) (pairs : List Nat) : List (List Seat) :=
  if r.gang == 1 then
    if r.paired then
      pairs.flatMap (fun i => (List.range 4).map (fun q => [⟨first, 0, 2 * i, q⟩, ⟨first, 1, 2 * i + 1, q⟩]))
    else
      pairs.flatMap (fun i => [2 * i, 2 * i + 1].flatMap (fun c =>
        (List.range 4).map (fun q => [(⟨first, 0, c, q⟩ : Seat)])))
  else
    pairs.map (fun i => (List.range count).flatMap (fun t =>
      let k := (first + t) % r.gang
      if r.paired then [(⟨first + t, 0, 2 * i, k⟩ : Seat), ⟨first + t, 1, 2 * i + 1, k⟩]
      else [⟨first + t, 0, 2 * i + k / 4, k % 4⟩]))

/-! ### Team start (01 R13, R17, R30; 10 R235, R242) -/

/-- The lowest-numbered free group slots of a quarter. -/
def State.freeSlots (s : State) (core q : Nat) : List Nat :=
  let taken := s.groups.filter (fun g => g.2.holdsSlot && s.quarterOf g.2 == core * 4 + q)
  (List.range 16).filter (fun x => !taken.any (fun g => g.2.slot == x))

/-- Banks of a core that are cache. -/
def State.freeBanks (s : State) (core : Nat) : List Nat :=
  (List.range 28).filter (fun b => ((s.roles.get core).toNat / 4 ^ b) % 4 == 0)

/-- The lowest-numbered free tile context of a quarter. -/
def State.freeTile (s : State) (core q : Nat) : Nat :=
  let used := (s.halves.filter (fun h => h.2.core == core && h.2.quarter == q && !h.2.tileFree)).filterMap (fun h =>
    h.2.tile.map (fun t => t.index))
  if used.contains 0 then 1 else 0

/-- A tile context at binding (01 R30). -/
def Tile.fresh (index grant : Nat) : Tile :=
  { index := index, c := [], ap := [], xb := [], lc := [], sd := [], w := [], t := [], acc := [], q := [], cfm := 0#32
    cfmNext := [], cfx := 0#32, batch := 0#32, batchOpen := [], batches := [], valid := false, pc := 0, npc := 0, nnpc := 0
    after := 0, queued := 0, rem := [], an0 := false, an1 := false, loops := [], lands := [], latchT := 0#64, gw := 0
    grant := grant, migrations := 0#32, stopped := false, single := false, closing := false, fault := none, later := [] }

/-- The launched lanes of group `i`. -/
def LaunchRec.lanesOf (r : LaunchRec) (i : Nat) : DWord := BitVec.ofNat 64 (2 ^ min r.width (r.lanes - i * r.width) - 1)

/-- Group `i` of a team at its start. -/
def Launch.group (l : Launch) (hid gid i slot : Nat) : Group :=
  { hid := hid, idx := i, slot := slot, width := l.lr.width, n := l.lr.regs, pc := BitVec.ofNat 64 (l.codeBase + l.entry)
    v := [], g := Regs.setSlice [] 0 [loWord l.lr.argptr, hiWord l.lr.argptr], k := []
    em := l.lr.lanesOf i, live := l.lr.lanesOf i, bx := [], wc := [], fm := 0#32, fx := [], gw := 0#64, latchT := 0#64
    latchG := 0#64, migrations := 0#32, watch := 0#32, sched := .ready, mark := false, stopped := false, single := false, triggered := false
    landings := [], fences := [], gwPend := [], held := [], recent := [], fault := none, reports := [], rem := [], hostW := 0, retries := [], age := gid
    killed := false }

/-- One half of a team starts at its seat (09 R217). -/
def State.startHalf (s : State) (lid : Nat) (l : Launch) (x : Seat) : State :=
  let r := l.lr
  let hid := s.nextId
  let banks := (s.freeBanks x.core).take (r.banks + r.tob)
  let tags : Regs 8 := Regs.setSlice [] r.tagoff (List.replicate (4 * r.tagent) 0xFF#8)
  let h : Half := {
    launch := lid, ctx := l.ctx, team := x.team, half := x.half, paired := r.paired, core := x.core, quarter := x.quarter
    banks := banks, spadBanks := r.banks, tobBanks := r.tob, spad := tags, tob := [], ringOld := [], spadPoison := [], tobPoison := []
    cover := [], tagOff := r.tagoff, tagEnt := r.tagent, tagOrder := [], bar := [], barm := [], gateArr := [], gate := none
    tile := if r.tilectx then some (Tile.fresh (s.freeTile x.core x.quarter) r.acc) else none
    retries := [], pending := none, tileFree := false, banksFree := false, finishing := [], start := s.chipTime, leaving := 0 }
  let slots := s.freeSlots x.core x.quarter
  let gs : KMap Group := (List.range r.groups).map (fun i => (hid + 1 + i, l.group hid (hid + 1 + i) i (nthD slots i 0)))
  { s with
    nextId := hid + 1 + r.groups
    halves := KMap.put s.halves hid h
    groups := gs.foldl (fun m (g : Nat × Group) => KMap.put m g.1 g.2) s.groups }.setRole x.core banks (fun b =>
      if (banks.take r.banks).contains b then 1 else 2)

/-! ### Saving a unit (12 R294 to R298, 24 R417) -/

/-- The members of the placement unit of a half: the halves of its teams that have not exited (22 R401, R405). -/
def State.unitHids (s : State) (h : Half) : List Nat :=
  let gang := max 1 (((s.lrOf h).map (fun r => r.gang)).getD 1)
  (s.halves.filter (fun e => e.2.launch == h.launch && e.2.team / gang == h.team / gang && !s.teamOver e.2)).map (fun e => e.1)

/-- Whether every access of a group has performed and its stores have reached their completion times, but for what a fault
holds (11 R287). -/
def State.groupQuiet (s : State) (gid : Nat) (g : Group) : Bool :=
  g.held.all (fun h => h.lanes == 0#64 || g.behindFault h.id) && g.fences.isEmpty && g.gwPend.isEmpty && g.gw.toNat ≤ s.chipTime &&
  g.hostW == 0 && g.landings.all (fun l => l.due ≤ s.chipTime) &&
  !s.remote.any (fun a => a.gid == some gid) && !s.arrivals.any (fun a => a.gid == gid) &&
  !s.incs.any (fun e => e.2.any (fun x => x.gid == some gid))

/-- Whether command `id` of a matrix queue, which ran when its unit was told to halt, goes no further now (24 R417). -/
def State.finished (s : State) (core id : Nat) : Bool :=
  [4, 5, 6, 7].all (fun c =>
    !((s.headOf (qkey core c)).any (fun e => e.id == id)) || (s.runHead (qkey core c)).isNone)

/-- The matrix commands of a half that run now: the heads of its matrix queues that have begun or can (24 R417). -/
def State.runningMatrix (s : State) (hid core : Nat) : List Nat :=
  [4, 5, 6, 7].filterMap (fun c => (s.headOf (qkey core c)).bind (fun e =>
    if s.issuerHid e == some hid && e.fault.isNone && (e.done != 0 || (s.runHead (qkey core c)).isSome) then some e.id else none))

/-- A half told to halt: the matrix commands that run now complete (24 R417). -/
def State.finishRunning (s : State) (hid : Nat) : State :=
  s.updH hid (fun h => { h with finishing := s.runningMatrix hid h.core })

/-- Whether a half can be saved now: its groups and its tile context are quiet, no gate is closing, and no remote access of
its commands is under way (24 R417). -/
def State.halfQuiet (s : State) (hid : Nat) : Bool :=
  match KMap.look s.halves hid with
  | none => true
  | some h =>
    (s.gidsOf hid).all (fun gid => match KMap.look s.groups gid with
      | some g => s.groupQuiet gid g
      | none => true) &&
    (match h.tile with
      | none => true
      | some t => !t.closing && t.gw ≤ s.chipTime) &&
    h.finishing.all (s.finished h.core) &&
    s.remote.all (fun a => a.gid.isSome ||
      (a.hold != tileHold hid && ((s.entry a.hold).bind s.issuerHid) != some hid))

/-- A group as its record holds it (12 R295, 11 R287). -/
def Group.stored (g : Group) : Group :=
  let g := g.landAll.unpark
  let cut (b : Bx) : Bx := { b with limit := 0#32, leaf := none }
  { g with gw := 0#64, gwPend := [], recent := [], bx := KMap.mapv (fun _ b => cut b) g.bx }

/-- A tile context as its record holds it: what is in flight has landed (06 R167, 12 R297). -/
def Tile.stored (t : Tile) : Tile :=
  let cut (b : Bx) : Bx := { b with limit := 0#32, leaf := none }
  { t with
    xb := KMap.mapv (fun _ b => cut b) t.xb, lands := [], rem := [], gw := 0
    cfm := ((t.cfmNext.getLast?).map (fun e => e.2)).getD t.cfm, cfmNext := [] }

/-- The commands of a half that have not completed: queue code and entry; 64 and above for the time-sorted buffer, 1000 and
above for the fences in Loch queues (12 R298). -/
def State.residueOf (s : State) (hid core : Nat) : List (Nat × QEnt) :=
  let mine (e : QEnt) : Bool := s.issuerHid e == some hid
  let fence (e : QEnt) : Bool := match e.cmd with
    | .qfence _ _ => mine e
    | _ => false
  s.queues.flatMap (fun q => if q.1 / 32 == core then (q.2.filter mine).map (fun e => (q.1 % 32, e)) else []) ++
    (((KMap.look s.timed core).getD []).filter (fun e => mine e.2)).map (fun e => (64 + e.1, e.2)) ++
    s.loch.flatMap (fun q => (q.2.entries.filter fence).map (fun e => (1000 + q.1, e)))

/-- The commands of some halves numbered by their places in their queues, in which they are to come back (24 R419). -/
def State.numberQ (s : State) (hids : List Nat) : State :=
  let mine (e : QEnt) : Bool := (s.issuerHid e).any (fun x => hids.contains x)
  let num (q : List QEnt) : List QEnt := q.mapIdx (fun i e => if mine e then { e with pos := i + 1 } else e)
  let timed (q : List (Nat × QEnt)) : List (Nat × QEnt) :=
    q.mapIdx (fun i e => if mine e.2 then (e.1, { e.2 with pos := i + 1 }) else e)
  let loch (q : Loch) : Loch := { q with entries := num q.entries }
  { s with
    queues := KMap.mapv (fun _ q => num q) s.queues, timed := KMap.mapv (fun _ q => timed q) s.timed
    loch := KMap.mapv (fun _ q => loch q) s.loch }

/-- A half saved and taken from its quarter (24 R418), whose registers free (09 R227). -/
def State.saveHalf (s : State) (hid : Nat) : State :=
  match KMap.look s.halves hid with
  | none => s
  | some h =>
    let gids := s.gidsOf hid
    let gs : KMap Group := gids.filterMap (fun x => (KMap.look s.groups x).map (fun g => (x, g.stored)))
    let res := s.residueOf hid h.core
    let gone (e : QEnt) : Bool := res.any (fun r => r.2.id == e.id)
    let keep (q : Loch) : Loch := { q with entries := q.entries.filter (fun e => !gone e) }
    let q := h.core * 4 + h.quarter
    let reqs := ((KMap.look s.grow q).getD [])
    let x : Saved := ⟨hid, { h with tile := h.tile.map Tile.stored, finishing := [], leaving := 0 }, gs, res,
      reqs.filter (fun r => gids.contains r.1), s.time64, 0, true, 0⟩
    { ((s.frameState hid).freed q) with
      saved := s.saved ++ [x]
      halves := KMap.del s.halves hid
      groups := s.groups.filter (fun g => g.2.hid != hid)
      grow := KMap.put s.grow q (reqs.filter (fun r => !gids.contains r.1))
      queues := KMap.mapv (fun _ l => l.filter (fun e => !gone e)) s.queues
      loch := KMap.mapv (fun _ q => keep q) s.loch
      timed := KMap.mapv (fun _ l => l.filter (fun e => !gone e.2)) s.timed }.setRole h.core h.banks (fun _ => 0)

/-! ### A unit comes back (12 R299; 09 R228; 24 R419) -/

/-- A captured address space on the core where it is now. -/
def Space.onCore (c : Nat) (x : Space) : Space :=
  match x with
  | .virt cn _ => .virt cn c
  | x => x

/-- A side on a core. -/
def Side.onCore (c : Nat) (x : Side) : Side := { x with space := x.space.onCore c }

/-- A command on a core. -/
def Cmd.onCore (c : Nat) (x : Cmd) : Cmd :=
  match x with
  | .copy m sc a ds i => .copy m sc (a.onCore c) (ds.map (fun d => (d.1, d.2.onCore c))) i
  | .fill a q => .fill (a.onCore c) q
  | .ast a d z => .ast a (d.onCore c) z
  | .ald a d => .ald a (d.onCore c)
  | .trn a b p => .trn (a.onCore c) (b.onCore c) p
  | .vgmv a b d n => .vgmv (a.onCore c) (b.onCore c) (d.onCore c) n
  | x => x

/-- The queue code of a saved entry in quarter `q` with tile context `ti`: matrix queues and the rounds of a tile context
go with the quarter. -/
def movedCode (q ti code : Nat) : Nat :=
  if 4 ≤ code && code ≤ 7 then 4 + q else if 12 ≤ code && code < 20 then 12 + 2 * q + ti else code

/-- What the groups of context `cn` have observed on core `old` follows them to core `core`: its known rounds rise to theirs,
its leased copies and its copies of the context's round-managed lines go, a copy away from the home that served `old` no more
serves `core` no more, and what their commands have still to make visible is awaited there too (11 R264, R281, R287; 05 R142;
log entry 98). -/
def State.followCore (s : State) (cn launch old core : Nat) : State :=
  if old == core then s
  else
    -- a half that has come from elsewhere stands under 1024 and the core it had there
    let left := old % 1024
    let goes (c : L1Copy) : Bool := c.core == core && (match c.tag with
      | .lease _ => true
      | .round _ x _ => x == cn)
    let bar (c : L1Copy) : L1Copy :=
      if c.barred.contains left && !c.barred.contains core then { c with barred := c.barred ++ [core] } else c
    let s := { s with
      l1 := (s.l1.filter (fun c => !goes c)).map bar
      visible := s.visible ++ (s.visible.filter (fun (v : DoneCmd) => v.core == left && v.launch == launch)).map
        (fun (v : DoneCmd) => { v with core := core }) }
    (s.kr.filter (fun e => e.1 / 256 == old * 4096 + cn)).foldl (fun (s : State) e => s.raiseKr core cn (e.1 % 256) e.2) s

/-- A command that is back enters its queue before the new ones of its context and those that stood behind it (24 R419). -/
def backInto (e : QEnt) : List QEnt → List QEnt
  | [] => [e]
  | x :: t => if x.ctx == e.ctx && x.done == 0 && (x.pos == 0 || e.pos < x.pos) then e :: x :: t else x :: backInto e t

/-- A timed command that is back, likewise. -/
def timedBack (ch : Nat) (e : QEnt) : List (Nat × QEnt) → List (Nat × QEnt)
  | [] => [(ch, e)]
  | x :: t => if x.2.ctx == e.ctx && (x.2.pos == 0 || e.pos < x.2.pos) then (ch, e) :: x :: t else x :: timedBack ch e t

/-- A saved command back in its queue on core `core`; `k` is its code there (12 R298, 24 R419). -/
def State.enterBack (s : State) (core k : Nat) (e : QEnt) : State :=
  if 1000 ≤ k then
    let q := (KMap.look s.loch (k - 1000)).getD Loch.reset
    { s with loch := KMap.put s.loch (k - 1000) { q with entries := backInto e q.entries } }
  else if 64 ≤ k then
    { s with timed := KMap.put s.timed core (timedBack (k - 64) e (((KMap.look s.timed core).getD []))) }
  else { s with queues := KMap.put s.queues (qkey core k) (backInto e (s.queue (qkey core k))) }

/-- A saved half restored at a seat: banks, slots and tile context anew, the commands in their order, the requests at the tail;
the frame of an open gate names the new place (09 R217, R227, R228; 22 R404; 24 R419). -/
def State.restoreHalf (s : State) (x : Saved) (p : Seat) : State :=
  let h := x.half
  let moved := h.core != p.core || h.quarter != p.quarter
  let one : Word := if moved then 1#32 else 0#32
  let banks := (s.freeBanks p.core).take h.banks.length
  let ti := s.freeTile p.core p.quarter
  let tile (t : Tile) : Tile := { t with index := ti, migrations := t.migrations + one }
  let h' : Half := { h with
    core := p.core, quarter := p.quarter, banks := banks, tile := h.tile.map tile, start := s.chipTime, leaving := 0 }
  let slots := s.freeSlots p.core p.quarter
  let base := s.nextId
  let age (g : Group) : Nat :=
    if x.aged != 0 then g.age else base + (x.groups.filter (fun y => y.2.age < g.age)).length
  let slotOf (i : Nat) (g : Group) : Nat :=
    if g.holdsSlot then nthD slots ((x.groups.take i).filter (fun y => y.2.holdsSlot)).length 0 else g.slot
  let gs := (List.range x.groups.length).filterMap (fun i => (x.groups[i]?).map (fun e =>
    (e.1, ({ e.2 with slot := slotOf i e.2, migrations := e.2.migrations + one, age := age e.2 } : Group))))
  let enter (s : State) (r : Nat × QEnt) : State :=
    let e := { r.2 with cmd := r.2.cmd.onCore p.core }
    s.enterBack p.core (if 64 ≤ r.1 then r.1 else movedCode p.quarter ti r.1) e
  let q := p.core * 4 + p.quarter
  let s := if x.grow.isEmpty || !((KMap.look s.grow q).getD []).isEmpty then s else s.freed q
  let s := { s with
    nextId := base + x.groups.length
    saved := s.saved.filter (fun y => y.hid != x.hid)
    halves := KMap.put s.halves x.hid h'
    groups := gs.foldl (fun m (g : Nat × Group) => KMap.put m g.1 g.2) s.groups
    grow := if x.grow.isEmpty then s.grow else KMap.put s.grow q (((KMap.look s.grow q).getD []) ++ x.grow) }
  let s := ((x.residue.foldl enter s).followCore h.ctx h.launch h.core p.core).setRole p.core banks (fun b =>
    if (banks.take h.spadBanks).contains b then 1 else 2)
  if h.gate.isSome then s.locWrite ⟨x.hid, false, h.frameOff + 0xC⟩ (leBytes 2 (p.core * 8 + p.quarter * 2 + ti)) else s

/-- The waiters of a half whose object has changed its phase wake at once (10 R245, 24 R419). -/
def State.rewake (s : State) (hid : Nat) : State :=
  (s.liveGids hid).foldl (fun (s : State) gid => match (KMap.look s.groups gid).map (fun (g : Group) => g.sched) with
    | some (.blocked (.waitb h off par)) =>
      let p : LPlace := ⟨h, false, off⟩
      if (s.barObj p).phase != par then (s.acquirePhase gid).updG gid (fun g => g.phaseWake (s.barObj p).phase) else s
    | some (.blocked (.tryw h off par _ _)) =>
      let p : LPlace := ⟨h, false, off⟩
      if (s.barObj p).phase != par then (s.acquirePhase gid).updG gid (fun g => g.phaseWake (s.barObj p).phase) else s
    | _ => s) s

/-- The rounds of a half that have been counted while it was saved (24 R419). -/
def State.countedRounds (s : State) (hid : Nat) : List Nat :=
  (s.entries.filter (fun e => s.issuerHid e == some hid && e.done == 2 && (match e.cmd with
    | .round _ _ _ => true
    | _ => false))).map (fun e => e.id)

/-- What a half that is back may do at once: complete its rounds that have been counted, wake its waiters, open its gate,
release what it holds (10 R245, 12 R288, 09 R215, 24 R419). -/
def State.afterBack (s : State) (hid : Nat) : State :=
  let s := ((s.countedRounds hid).foldl (fun s id => s.roundDone id) s).lochCredit.rewake hid
  withTraps ((s.gateCheck hid).1.tryRelease hid, (s.gateCheck hid).2)

/-- The saved halves of a unit, in the order of its queue entry. -/
def State.savedOf (s : State) (u : PUnit) : List Saved := u.saved.filterMap (fun x => s.saved.find? (fun y => y.hid == x))

/-- Seats paired with the halves that take them. -/
def seatsFor (l : List Saved) (p : List Seat) : List (Seat × Saved) :=
  l.filterMap (fun x => (p.find? (fun t => t.team == x.half.team && t.half == x.half.half)).map (fun t => (t, x)))

/-- What a saved half needs. -/
def Saved.need (x : Saved) : Need := x.half.holds (x.groups.map (fun g => g.2))

/-! ### The queue (22 R401 to R403) -/

/-- The launch of a unit. -/
def State.launchOf (s : State) (u : PUnit) : Option Launch := KMap.look s.launches u.launch

/-- The priority of a unit. -/
def State.prioOf (s : State) (u : PUnit) : Nat := ((s.launchOf u).map (fun l => l.lr.prio)).getD 0

/-- Whether unit `a` stands before unit `b`: priority, start of the launch, team index. -/
def State.unitBefore (s : State) (a b : PUnit) : Bool :=
  if s.prioOf a != s.prioOf b then s.prioOf b < s.prioOf a
  else if a.launch != b.launch then a.launch < b.launch
  else a.first < b.first

/-- A unit put into its place. -/
def State.insertUnit (s : State) (u : PUnit) : List PUnit → List PUnit
  | [] => [u]
  | x :: t => if s.unitBefore u x then u :: x :: t else x :: s.insertUnit u t

/-- The units of a partition's queue in order, without those of halted contexts (22 R405). -/
def State.waiting (s : State) (part : Nat) : List PUnit :=
  let live (u : PUnit) : Bool := match s.launchOf u with
    | some l => !((KMap.look s.ctxs l.ctx).map (fun c => c.halted)).getD true
    | none => false
  (((KMap.look s.dist part).getD []).filter live).foldl (fun l u => s.insertUnit u l) []

/-- A unit taken from its queue. -/
def State.dropUnit (s : State) (part : Nat) (u : PUnit) : State :=
  { s with dist := KMap.put s.dist part (((KMap.look s.dist part).getD []).filter (fun x =>
      !(x.launch == u.launch && x.first == u.first))) }

/-- The seats at which a unit fits first, `none` where it fits nowhere; an evicted unit tries the quarters it left before
the others, and `out` excludes quarters (22 R402, R403; 09 R228). -/
def State.findSeats (s : State) (part : Nat) (u : PUnit) (out : List (Nat × Nat)) : Option (List Seat) :=
  match s.launchOf u with
  | none => none
  | some l =>
    let old := s.savedOf u
    let all := l.lr.positions u.first u.count (s.pairsOf part)
    let left : List Seat := old.map (fun x => ⟨x.half.team, x.half.half, x.half.core, x.half.quarter⟩)
    let mine (t : Seat) : Bool := (s.pairsOf part).contains (t.core / 2)
    let cand := if u.saved.isEmpty || !left.all mine then all else left :: all
    cand.find? (fun p =>
      !p.any (fun t => out.contains (t.core, t.quarter)) &&
      (if u.saved.isEmpty then s.fits (p.map (fun t => (t, l.lr.need)))
       else s.fits ((seatsFor old p).map (fun e => (e.1, e.2.need)))))

/-- A unit placed at seats: its teams start, or come back and take up what waited for them (22 R402, 09 R228). -/
def State.placeAt (s : State) (part : Nat) (u : PUnit) (p : List Seat) : State :=
  match s.launchOf u with
  | none => s
  | some l =>
    let s := s.dropUnit part u
    if u.saved.isEmpty then p.foldl (fun s t => s.startHalf u.launch l t) s
    else
      let s := (seatsFor (s.savedOf u) p).foldl (fun s e => s.restoreHalf e.2 e.1) s
      (u.saved.foldl State.afterBack s).applyHeld l.ctx

/-- The first blocking unit of a queue. -/
def blockingUnit (q : List PUnit) : Option PUnit := q.find? (fun u => u.blocking)

/-- Whether a unit may be placed while another blocks. -/
def State.mayPlace (s : State) (b : Option PUnit) (u : PUnit) : Bool :=
  match b with
  | none => true
  | some b => (b.launch == u.launch && b.first == u.first) || s.prioOf b < s.prioOf u

/-- The walk of a partition's queue: every unit that fits is placed, in order. -/
def State.walkDist (s : State) (part : Nat) : State :=
  let q := s.waiting part
  q.foldl (fun s u =>
    if s.mayPlace (blockingUnit (s.waiting part)) u then
      match s.findSeats part u [] with
      | some p => s.placeAt part u p
      | none => s
    else s) s

/-- Whether a walk would place a unit. -/
def State.canPlace (s : State) (part : Nat) : Bool :=
  let q := s.waiting part
  q.any (fun u => s.mayPlace (blockingUnit q) u && (s.findSeats part u []).isSome)

/-- DISTRIBUTOR_PLACE (22 R402). -/
def execDistributorPlace (part : Nat) (s : State) : Res :=
  if s.canPlace part then .next (s.walkDist part) else .fault (.notEnabled "unit")

/-! ### Units that leave their quarters -/

/-- The unit of a half as a queue entry. -/
def State.unitOf (s : State) (h : Half) (hids : List Nat) : PUnit :=
  let gang := max 1 (((s.lrOf h).map (fun r => r.gang)).getD 1)
  let teams := ((s.lrOf h).map (fun r => r.teams)).getD 1
  ⟨h.launch, h.team / gang * gang, min gang (teams - h.team / gang * gang), s.chipTime, false, hids⟩

/-- A quiet unit saved, its entry in its partition's queue (09 R227, R228). -/
def State.evictUnit (s : State) (hids : List Nat) : State :=
  match (hids.head?).bind (fun x => KMap.look s.halves x) with
  | none => s
  | some h =>
    let part := s.partOf h.ctx
    let u := s.unitOf h hids
    let s := hids.foldl State.saveHalf (s.numberQ hids)
    { s with dist := KMap.put s.dist part (((KMap.look s.dist part).getD []) ++ [u]) }

/-- A unit told to halt (09 R219 "stopped"); its matrix commands that run complete (24 R417). -/
def State.haltUnit (s : State) (hids : List Nat) (why : Nat) : State :=
  hids.foldl (fun s x => (s.finishRunning x).updH x (fun h => { h with leaving := why })) s

/-- The units that have a half in one of some quarters; a team that has exited is no part of one (22 R405). -/
def State.occupants (s : State) (qs : List (Nat × Nat)) : List (List Nat) :=
  (((s.halves.filter (fun h => !s.teamOver h.2 && qs.contains (h.2.core, h.2.quarter))).map (fun h =>
    s.unitHids h.2)).eraseDups).filter (fun u => !u.isEmpty)

/-- Whether every half of a unit can be saved now. -/
def State.unitQuiet (s : State) (hids : List Nat) : Bool := hids.all s.halfQuiet

/-! ### The arbiter's eviction (09 R227) -/

/-- Whether the arbiter of a quarter evicts: the head does not fit, and everything is blocked on `reggrow`, or the head has
waited 2^22 ticks with no register freed. -/
def State.arbiterDue (s : State) (q : Nat) : Bool :=
  let live := s.groups.filter (fun g => g.2.sched != .exited && s.quarterOf g.2 == q)
  let stuck := live.all (fun g => match g.2.sched with
    | .blocked (.reggrow _ _) => true
    | _ => false)
  let fits := match (KMap.look s.grow q).getD [] with
    | [] => true
    | (gid, amt, _) :: _ => match KMap.look s.groups gid with
      | none => true
      | some g => s.regsUsed q + amt * g.width ≤ regsOfQuarter
  !fits && (stuck || ((KMap.look s.growTime q).getD 0) + 2 ^ 22 ≤ s.chipTime)

/-- The youngest unit resident in a quarter, but for the one of the head request. -/
def State.youngest (s : State) (q : Nat) : Option (List Nat) :=
  let headHid := (((KMap.look s.grow q).getD []).head?).bind (fun r => (KMap.look s.groups r.1).map (fun g => g.hid))
  let headUnit := ((headHid.bind (fun x => KMap.look s.halves x)).map s.unitHids).getD []
  let here := s.halves.filter (fun h => !s.teamOver h.2 && h.2.core * 4 + h.2.quarter == q && !headUnit.contains h.1)
  (here.foldl (fun (b : Option (Nat × Half)) h => match b with
    | none => some h
    | some x => if x.2.start ≤ h.2.start then some h else b) none).map (fun h => s.unitHids h.2)

/-- The unit of a quarter that the arbiter has stopped and not saved yet. -/
def State.evictee (s : State) (q : Nat) : Option (List Nat) :=
  (s.halves.find? (fun h => !s.teamOver h.2 && h.2.core * 4 + h.2.quarter == q && h.2.leaving == 1)).map (fun h => s.unitHids h.2)

/-- The eviction under way in a quarter: the youngest unit halts, and is saved once it is quiet, whatever has freed since. -/
def State.arbiterStep (s : State) (q : Nat) : Option State :=
  match s.evictee q with
  | some u => if s.unitQuiet u then some (s.evictUnit u) else none
  | none => if s.arbiterDue q then (s.youngest q).map (fun u => s.haltUnit u 1) else none

/-- ARBITER_TIMEOUT (09 R227). -/
def execArbiterTimeout (core quarter : Nat) (s : State) : Res :=
  match s.arbiterStep (core * 4 + quarter) with
  | some s' => .next s'
  | none => .fault (.notEnabled "arbiter")

/-! ### Gathering (22 R403) -/

/-- The machine without some halves, to see what would be free. -/
def State.without (s : State) (hids : List Nat) : State :=
  { s with halves := s.halves.filter (fun h => !hids.contains h.1), groups := s.groups.filter (fun g => !hids.contains g.2.hid) }

/-- The units that the arbiters evict, or are about to: for gathering they are absent (22 R405). -/
def State.evicted (s : State) : List (List Nat) :=
  ((s.grow.map (fun e => e.1)).filterMap (fun q => match s.evictee q with
    | some u => some u
    | none => if s.arbiterDue q then s.youngest q else none)).eraseDups

/-- The position that gathering chooses for a blocking unit: where it fits once the occupants have left, all of them of no
higher priority, the fewest units first, then the lowest. -/
def State.gather (s : State) (part : Nat) (b : PUnit) : Option (List Seat × List (List Nat)) :=
  match s.launchOf b with
  | none => none
  | some l =>
    let old := s.savedOf b
    let cand := (l.lr.positions b.first b.count (s.pairsOf part)).filterMap (fun p =>
      let qs := p.map (fun t => (t.core, t.quarter))
      let gone := s.evicted
      let occ := (s.occupants qs).filter (fun u => !gone.contains u)
      let ended := (s.halves.filter (fun h => s.teamOver h.2 && qs.contains (h.2.core, h.2.quarter))).map (fun h => h.1)
      let s' := s.without (occ.flatMap id ++ gone.flatMap id ++ ended)
      let fit := if b.saved.isEmpty then s'.fits (p.map (fun t => (t, l.lr.need)))
        else s'.fits ((seatsFor old p).map (fun e => (e.1, e.2.need)))
      let low := occ.all (fun u => match (u.head?).bind (fun x => KMap.look s.halves x) with
        | some h => s.prioOf ⟨h.launch, 0, 0, 0, false, []⟩ ≤ s.prioOf b
        | none => true)
      if fit && low then some (p, occ) else none)
    cand.foldl (fun best c => match best with
      | none => some c
      | some x => if c.2.length < x.2.length then some c else best) none

/-- A quiet unit moved through Mere: to the first position outside some quarters where it fits, else evicted
(22 R403, R404). -/
def State.moveUnit (s : State) (hids : List Nat) (out : List (Nat × Nat)) : State :=
  match (hids.head?).bind (fun x => KMap.look s.halves x) with
  | none => s
  | some h =>
    let part := s.partOf h.ctx
    let u := s.unitOf h hids
    let s := s.evictUnit hids
    match s.findSeats part u out with
    | some p => s.placeAt part u p
    | none => s

/-- The first unit of a partition that has been passed over for 2^20 ticks and does not block yet. -/
def State.overdue (s : State) (part : Nat) : Option PUnit :=
  (s.waiting part).find? (fun u => !u.blocking && u.joined + 2 ^ 20 ≤ s.chipTime)

/-- A unit made blocking. -/
def State.setBlocking (s : State) (part : Nat) (u : PUnit) : State :=
  let upd (x : PUnit) : PUnit := if x.launch == u.launch && x.first == u.first then { x with blocking := true } else x
  { s with dist := KMap.put s.dist part (((KMap.look s.dist part).getD []).map upd) }

/-- The units of a partition that halt for a move. -/
def State.movers (s : State) (part : Nat) : List (List Nat) :=
  (((s.halves.filter (fun h => h.2.leaving == 2 && s.partOf h.2.ctx == part && !s.teamOver h.2)).map (fun h =>
    s.unitHids h.2)).eraseDups).filter (fun u => !s.evicted.contains u)

/-- What the distributor does for units that wait too long: one becomes blocking, the occupants of its position halt, and
each moves once it is quiet; `none` where nothing can happen. -/
def State.gatherStep (s : State) (part : Nat) : Option State :=
  match s.overdue part with
  | some u => some (s.setBlocking part u)
  | none =>
    let spot := (blockingUnit (s.waiting part)).bind (s.gather part)
    let idle := ((spot.map (fun x => x.2)).getD []).filter (fun u => u.all (fun x =>
      ((KMap.look s.halves x).map (fun h => h.leaving)) == some 0))
    if !idle.isEmpty then some (idle.foldl (fun s u => s.haltUnit u 2) s)
    else match (s.movers part).find? s.unitQuiet with
      | some u => some (s.moveUnit u (((spot.map (fun x => x.1)).getD []).map (fun t => (t.core, t.quarter))))
      | none => none

/-- UNIT_BLOCKING (22 R403). -/
def execUnitBlocking (part : Nat) (s : State) : Res :=
  match s.gatherStep part with
  | some s' => .next s'
  | none => .fault (.notEnabled "blocking unit")

end Sys2Proof.Machine
end

