-- ==== Sys2Proof/Machine/Digest.lean ====
section
/-! DEFINITION. Digest.lean: SHA-512 and RSASSA-PKCS1-v1_5 under RSA-4096, which 23 R407, R408, R410 and 27 R446 name; their
contents are those of FIPS 180-4 and PKCS #1 (log entry 12). -/
namespace Sys2Proof.Machine

/-- Whether a number is prime. -/
def isPrimeNum (n : Nat) : Bool := 2 ≤ n && (List.range n).all (fun d => d < 2 || n % d != 0)

/-- The first 80 primes. -/
def shaPrimes : List Nat := (List.range 410).filter isPrimeNum

/-- The largest root with `r ^ k ≤ x`, digit by digit from digit `n - 1` down. -/
def rootNum (k x : Nat) : Nat → Nat → Nat
  | 0, r => r
  | n + 1, r => rootNum k x n (if (r + 2 ^ n) ^ k ≤ x then r + 2 ^ n else r)

/-- The 80 round constants: fraction bits of cube roots of primes. -/
def shaK : List DWord := shaPrimes.map (fun p => BitVec.ofNat 64 (rootNum 3 (p * 2 ^ 192) 70 0))

/-- The initial state: fraction bits of square roots of the first 8 primes. -/
def shaInit : List DWord := (shaPrimes.take 8).map (fun p => BitVec.ofNat 64 (rootNum 2 (p * 2 ^ 128) 70 0))

/-- A number as `n` big-endian bytes. -/
def beBytes (n x : Nat) : List Byte := (leBytes n x).reverse
/-- The number of big-endian bytes. -/
def beNat (b : List Byte) : Nat := leNat b.reverse

/-- A message padded to whole blocks of 128 bytes. -/
def shaPad (m : List Byte) : List Byte :=
  m ++ [0x80#8] ++ List.replicate ((239 - m.length % 128) % 128) 0#8 ++ beBytes 16 (8 * m.length)

/-- The 80 words of a block's schedule. -/
def shaSchedule (b : List Byte) : List DWord :=
  (List.range 64).foldl (fun w i =>
    let x (k : Nat) := nthD w k 0#64
    let s0 := (x (i + 1)).rotateRight 1 ^^^ (x (i + 1)).rotateRight 8 ^^^ (x (i + 1) >>> 7)
    let s1 := (x (i + 14)).rotateRight 19 ^^^ (x (i + 14)).rotateRight 61 ^^^ (x (i + 14) >>> 6)
    w ++ [x i + s0 + x (i + 9) + s1])
    ((List.range 16).map (fun i => BitVec.ofNat 64 (beNat ((b.drop (8 * i)).take 8))))

/-- One round of the compression. -/
def shaRound (v : List DWord) (kw : DWord × DWord) : List DWord :=
  let x (k : Nat) := nthD v k 0#64
  let (a, b, c, e, f, g) := (x 0, x 1, x 2, x 4, x 5, x 6)
  let s1 := e.rotateRight 14 ^^^ e.rotateRight 18 ^^^ e.rotateRight 41
  let t1 := x 7 + s1 + ((e &&& f) ^^^ (~~~e &&& g)) + kw.1 + kw.2
  let s0 := a.rotateRight 28 ^^^ a.rotateRight 34 ^^^ a.rotateRight 39
  let t2 := s0 + ((a &&& b) ^^^ (a &&& c) ^^^ (b &&& c))
  [t1 + t2, a, b, c, x 3 + t1, e, f, g]

/-- One block. -/
def shaBlock (h : List DWord) (b : List Byte) : List DWord :=
  List.zipWith (· + ·) h ((shaK.zip (shaSchedule b)).foldl shaRound h)

/-- The SHA-512 digest of a message, 64 bytes. -/
def sha512 (m : List Byte) : List Byte :=
  let p := shaPad m
  ((List.range (p.length / 128)).foldl (fun h i => shaBlock h ((p.drop (128 * i)).take 128)) shaInit).flatMap
    (fun w => beBytes 8 w.toNat)

/-- `b ^ e mod n` by the binary digits of `e` from digit `k - 1` down. -/
def powMod (b e n : Nat) : Nat → Nat → Nat
  | 0, acc => acc
  | k + 1, acc =>
    let sq := acc * acc % n
    powMod b e n k (if bitOf e k then sq * b % n else sq)

/-- The encoded message of a SHA-512 digest: 512 bytes. -/
def pkcsEncode (digest : List Byte) : List Byte :=
  let info : List Byte := [0x30#8, 0x51#8, 0x30#8, 0x0D#8, 0x06#8, 0x09#8, 0x60#8, 0x86#8, 0x48#8, 0x01#8, 0x65#8, 0x03#8,
    0x04#8, 0x02#8, 0x03#8, 0x05#8, 0x00#8, 0x04#8, 0x40#8]
  [0x00#8, 0x01#8] ++ List.replicate 426 0xFF#8 ++ [0x00#8] ++ info ++ digest

/-- Whether a 512-byte signature over a digest verifies under a key of 516 bytes, modulus then exponent (23 R407,
24 R416). -/
def rsaVerify (key digest sig : List Byte) : Bool :=
  let n := beNat (key.take 512)
  let s := beNat sig
  s < n && beBytes 512 (powMod s (beNat (key.drop 512)) n 32 1) == pkcsEncode digest

end Sys2Proof.Machine
end

