-- ==== Sys2Proof/Machine/Loader.lean ====
section
/-! DEFINITION. Loader.lean: code objects (23 R406 to R408), the loader's checks (23 R409, 06 R159), and the bundles that it
builds for B0 (23 R410, 06 R161): each operation in a bundle of its own, its latency and delay slots filled with `cnop`, so
that the image does what the portable list says (06 R158). -/
namespace Sys2Proof.Machine

/-! ### The container (23 R406) -/

/-- A section of an object. -/
structure Section where
  kind : Nat
  off : Nat
  len : Nat
  deriving DecidableEq, Repr

/-- A number of `n` bytes at offset `o` of an object. -/
def objNum (b : List Byte) (o n : Nat) : Nat := leNat (sub b o n)

/-- The sections that the table lists. -/
def objSections (b : List Byte) : List Section :=
  (List.range (objNum b 8 4)).map (fun i =>
    ⟨objNum b (0x80 + 32 * i) 4, objNum b (0x80 + 32 * i + 8) 8, objNum b (0x80 + 32 * i + 16) 8⟩)

/-- The bytes of the section of a kind; none where there is no such section. -/
def objSection (b : List Byte) (kind : Nat) : List Byte :=
  match (objSections b).find? (fun s => s.kind == kind) with
  | some s => sub b s.off s.len
  | none => []

/-- Whether an object is signed. -/
def objSigned (b : List Byte) : Bool := bitOf (objNum b 6 2) 0

/-- The routines of the tile section: first index and length. -/
def objRoutines (b : List Byte) : List (Nat × Nat) :=
  let t := objSection b 3
  (List.range (objNum t 0 4)).map (fun i => (objNum t (4 + 8 * i) 4, objNum t (8 + 8 * i) 4))

/-- The operation words of the tile section. -/
def objOps (b : List Byte) : List DWord :=
  let t := objSection b 3
  let o := 4 + 8 * objNum t 0 4
  (List.range ((t.length - o) / 8)).map (fun i => BitVec.ofNat 64 (objNum t (o + 8 * i) 8))

/-- The layouts of an object. -/
def objLayouts (b : List Byte) : List Layout :=
  let t := objSection b 5
  (List.range (t.length / 64)).map (fun i => layoutOf (sub t (64 * i) 64))

/-- The maps of the maps section from offset `o` on, as raw entries; `none` where an entry is cut off. -/
def objMaps (t : List Byte) : Nat → Nat → Option (List (List Nat))
  | 0, _ => some []
  | f + 1, o =>
    if t.length ≤ o then some []
    else
      let n := objNum t o 4
      if t.length < o + 4 + 8 * n then none
      else (objMaps t f (o + 4 + 8 * n)).map (fun l => ((List.range n).map (fun i => objNum t (o + 4 + 8 * i) 8)) :: l)

/-- The raw maps of an object. -/
def objMapList (b : List Byte) : Option (List (List Nat)) := objMaps (objSection b 4) (objSection b 4).length 0

/-- A map entry with its layout record. -/
def mapEntOf (lays : List Layout) (x : Nat) : MapEnt :=
  ⟨bitsOf x 63 60, bitsOf x 59 52, bitsOf x 51 44, nthD lays (bitsOf x 31 0) ⟨0, 1, 0, [], []⟩⟩

/-- The kernels of an object: launch-record template and entry. -/
def objKernels (b : List Byte) : List (LaunchRec × Nat) :=
  let t := objSection b 6
  (List.range (objNum b 12 4)).map (fun i => (launchRecOf (sub t (320 * i) 256), objNum t (320 * i + 256) 8))

/-- Whether two sections overlap. -/
def Section.meets (a b : Section) : Bool := a.off < b.off + b.len && b.off < a.off + a.len

/-- Whether no two of a list of sections overlap or have one kind. -/
def sectionsApart : List Section → Bool
  | [] => true
  | s :: t => t.all (fun x => x.kind != s.kind && !s.meets x) && sectionsApart t

/-- The end of the part that sections may use: the signature follows in a signed object. -/
def objEnd (b : List Byte) : Nat := if objSigned b then b.length - 512 else b.length

/-- Whether routines stand back to back and cover `n` operations. -/
def routinesOk (n : Nat) (l : List (Nat × Nat)) : Bool :=
  (l.foldl (fun (a : Bool × Nat) r => (a.1 && r.1 == a.2 && 1 ≤ r.2, a.2 + r.2)) (true, 0)) == (true, n)

/-- Whether what is reserved in the launch-record template at `o` is zero (22 R396). -/
def templateOk (t : List Byte) (o : Nat) : Bool :=
  let w (k : Nat) : Nat := objNum t (o + k) 4
  bitsOf (w 0x14) 31 24 == 0 && bitsOf (w 0x14) 7 0 == 0 && bitsOf (w 0x1C) 31 16 == 0 && bitsOf (w 0x20) 23 21 == 0 &&
    bitsOf (w 0x24) 31 16 == 0 && objNum t (o + 0x44) 188 == 0

/-- Whether a NAME is padded with zeros: no byte follows a zero but zeros. -/
def nameOk (b : List Byte) : Bool := (b.dropWhile (fun x => x != 0#8)).all (fun x => x == 0#8)

/-- Whether the reserved bits of the layout image at `o` are zero (10 R247). -/
def layoutImageOk (t : List Byte) (o : Nat) : Bool := bitsOf (objNum t o 4) 31 9 == 0

/-- Layout and limits (23 R406); the image has been read whole, at its address aligned to 4096. -/
def objFormat (va size : Nat) (b : List Byte) : Bool :=
  let secs := objSections b
  let nsect := objNum b 8 4
  let nkern := objNum b 12 4
  let zero (o n : Nat) : Bool := objNum b o n == 0
  let lays := (objSection b 5).length / 64
  let code := (objSection b 1).length
  let tile := objSection b 3
  va % 4096 == 0 && 0x80 ≤ b.length && objNum b 0 4 == 0x584E5A45 && objNum b 4 2 == 1 && objNum b 6 2 < 2 &&
  1 ≤ nsect && nsect ≤ 64 && 1 ≤ nkern && nkern ≤ 4096 && objNum b 16 8 == size && size % 8 == 0 && zero 0x18 40 &&
  (!objSigned b || 640 ≤ b.length) && 0x80 + 32 * nsect ≤ objEnd b &&
  (List.range nsect).all (fun i => zero (0x80 + 32 * i + 4) 4 && zero (0x80 + 32 * i + 24) 8) &&
  secs.all (fun s => 1 ≤ s.kind && s.kind ≤ 7 && s.off % 8 == 0 && 0x80 + 32 * nsect ≤ s.off && s.off + s.len ≤ objEnd b) &&
  sectionsApart secs && (objSection b 5).length % 64 == 0 && code % 8 == 0 &&
  (objSection b 6).length == 320 * nkern &&
  (objKernels b).all (fun k => k.2 % 8 == 0 && k.2 < code) &&
  (List.range nkern).all (fun i => templateOk (objSection b 6) (320 * i) && nameOk (sub (objSection b 6) (320 * i + 264) 56)) &&
  (List.range lays).all (fun i => layoutImageOk (objSection b 5) (64 * i)) &&
  (tile.isEmpty || (4 + 8 * objNum tile 0 4 ≤ tile.length && (tile.length - 4 - 8 * objNum tile 0 4) % 8 == 0 &&
    routinesOk (objOps b).length (objRoutines b))) &&
  (match objMapList b with
    | none => false
    | some l => l.all (fun m => m.all (fun x =>
      bitsOf x 59 52 ≤ bitsOf x 51 44 && bitsOf x 43 32 == 0 && bitsOf x 31 0 < lays)))

/-- HASH as the object's bytes give it (23 R408). -/
def objHash (b : List Byte) : List Byte :=
  sha512 (sub b 0 0x40 ++ List.replicate 64 0#8 ++ (b.take (objEnd b)).drop 0x80)

/-- Whether an object's signature is good for a context (23 R407). -/
def Ctx.signatureOk (c : Ctx) (b : List Byte) : Bool :=
  if objSigned b then c.keys.any (fun k => rsaVerify k (sub b 0x40 64) (b.drop (b.length - 512))) else !c.signing

/-! ### Tile lists (06 R158, R159, R181) -/

/-- The offset and nullification of an operation of the jump layout. -/
def jumpOf (i : Instr) : Option (JFmt × Bool) :=
  match i with
  | .jmp f => some (f, false)
  | .jc f => some (f, false)
  | .jal f => some (f, false)
  | .loop f => some (f, true)
  | _ => none

/-- Where an operation of the jump layout at index `k` points. -/
def JFmt.target (f : JFmt) (k : Nat) : Int := (k : Int) + f.off.toInt

end Sys2Proof.Machine

namespace Sys2Proof.Machine

/-- The operations of a list, `none` where a word is illegal: its fields, not the values that an operation checks when it issues
(06 R152). -/
def decodeList (l : List DWord) : Option (List Instr) :=
  l.mapM (fun w => match decodeTile w with
    | .ok i => if (i.check 256).any (fun c => c ≤ 2) then none else some i
    | .error _ => none)

/-- The body of a loop at index `k`: first and last operation. -/
def loopBody (k : Nat) (i : Instr) : Option (Nat × Nat) :=
  match jumpOf i with
  | some (f, true) => some (k + 1, (JFmt.target f k).toNat)
  | _ => none

/-- The loops of a list, by index. -/
def loopsOf (l : List Instr) : List (Nat × Nat × Nat) :=
  (List.range l.length).filterMap (fun k => (l[k]?).bind (fun i => (loopBody k i).map (fun b => (k, b))))

/-- Whether an operation at index `k` keeps the rules of a list: its offset stays inside, a loop's body is not empty and
lies inside every body that holds the loop, and no branch enters a body but at its start. -/
def opFits (n : Nat) (loops : List (Nat × Nat × Nat)) (k : Nat) (i : Instr) : Bool :=
  match jumpOf i with
  | none => true
  | some (f, isLoop) =>
    let t := JFmt.target f k
    f.nul == 0#2 && 0 ≤ t && t < n &&
    (if isLoop then
      1 ≤ f.off.toInt && loops.all (fun x => !(x.2.1 ≤ k && k ≤ x.2.2) || t.toNat ≤ x.2.2)
    else
      loops.all (fun x => !(x.2.1 < t.toNat && t.toNat ≤ x.2.2) || (x.2.1 ≤ k && k ≤ x.2.2)))

/-- The entry indices that the `gate` instructions of a code section name. -/
def gateEntries (code : List Byte) : List Nat :=
  (List.range (code.length / 8)).filterMap (fun k =>
    match decodeLane (BitVec.ofNat 64 (objNum code (8 * k) 8)) with
    | .ok (.gate f) => some (f.imm.toNat % 2 ^ 20)
    | _ => none)

/-! ### Bundles (06 R161, R163, R182) -/

/-- The latency of an operation's results (07 R211). -/
def latencyOf (i : Instr) : Nat :=
  match i with
  | .cmul _ | .vperm _ => 3
  | .cld _ | .vcvt _ | .tskip _ => 4
  | .vld _ | .vldb _ => 5
  | .vred _ => 6
  | .vcas _ => 10
  | .cadd _ | .csub _ | .cand _ | .cor _ | .cxor _ | .cshl _ | .cshr _ | .csar _ | .cmov _ | .cmovi _ | .ccmp _
  | .cgets _ | .csets _ | .vbcast _ | .vsel _ | .jal _ => 2
  | _ => 1

/-- The word of `cnop`. -/
def cnopWord : DWord := 0x0000000000000001#64

/-- The slot that an operation word stands in: its class, E0 for class E. -/
def headerOf (w : DWord) : DWord := 1#64 <<< (fld w 8 3)

/-- The bundles of `cnop` behind an operation at index `k`: two delay slots behind a branch, the rest of its latency, and,
where bodies end, three, so that the decision of a loop is taken after the operation has executed, with one more for each body
around the innermost: each body has an end bundle of its own, so that skipping an inner body with a count of 0 leads to the
end of the outer one (07 R180, R182). A `jal` that ends a body has, where its link points, a `jmp` with its delay slots to
what follows the body, since the list goes on there outside of it (07 R178, R181). -/
def padsOf (loops : List (Nat × Nat × Nat)) (k : Nat) (i : Instr) : Nat :=
  let branch := match i with
    | .jmp _ | .jc _ | .jal _ | .jr _ => 2
    | _ => 0
  let ends := loops.countP (fun x => x.2.2 == k)
  match i with
  | .jal _ => if ends == 0 then 2 else 5 + ends
  | _ => max (max branch (latencyOf i - 1)) (if ends == 0 then 0 else 3) + (ends - 1)

/-- Word of the pad number `j`, from 0 on, behind operation `i` with `n` pads. -/
def padWord (i : Instr) (n j : Nat) : DWord :=
  match i with
  | .jal _ => if j == 2 && 5 ≤ n then BitVec.ofNat 20 (2 * (n - 2)) ++ 0x10#44 else cnopWord
  | _ => cnopWord

/-- The image offset of each operation's bundle, and of the end. -/
def bundleOffsets (loops : List (Nat × Nat × Nat)) (l : List Instr) : List Nat :=
  ((List.range l.length).foldl (fun (a : List Nat × Nat) k =>
    (a.1 ++ [a.2], a.2 + 16 * (1 + ((l[k]?).map (padsOf loops k)).getD 0))) ([], 0)).1

/-- The offset of the end bundle of the body that the loop at index `j` closes with operation `k`: the innermost ends first. -/
def lastBundle (offs : List Nat) (loops : List (Nat × Nat × Nat)) (l : List Instr) (j k : Nat) : Nat :=
  let around := loops.countP (fun x => x.2.2 == k && x.1 < j)
  nthD offs k 0 + 16 * (((l[k]?).map (padsOf loops k)).getD 0 - around)

/-- The bundled offset of a jump or loop, in words from its own header (06 R161). -/
def bundledOff (offs : List Nat) (loops : List (Nat × Nat × Nat)) (l : List Instr) (k : Nat) (f : JFmt) (isLoop : Bool) : Int :=
  let t := (JFmt.target f k).toNat
  let x := if isLoop then lastBundle offs loops l k t else nthD offs t 0
  ((x : Int) - nthD offs k 0) / 8

/-- An operation's word in its bundle: OFF20 counts words (06 R161). -/
def bundledWord (offs : List Nat) (loops : List (Nat × Nat × Nat)) (l : List Instr) (k : Nat) (w : DWord) : DWord :=
  match (l[k]?).bind jumpOf with
  | none => w
  | some (f, isLoop) => BitVec.ofInt 20 (bundledOff offs loops l k f isLoop) ++ w.setWidth 44

/-- The words of an image, and the list index of each bundle's header. -/
def bundleList (ops : List DWord) (l : List Instr) : List DWord × List (Nat × Nat) :=
  let loops := loopsOf l
  let offs := bundleOffsets loops l
  let ws := (List.range l.length).flatMap (fun k =>
    let w := bundledWord offs loops l k (nthD ops k 0#64)
    let pads (i : Instr) : List DWord :=
      (List.range (padsOf loops k i)).flatMap (fun j => [1#64, padWord i (padsOf loops k i) j])
    [headerOf w, w] ++ ((l[k]?).map pads).getD [])
  let ix := (List.range l.length).flatMap (fun k =>
    (List.range (1 + ((l[k]?).map (padsOf loops k)).getD 0)).map (fun j => (nthD offs k 0 + 16 * j, k)))
  (ws, ix)

/-- Whether every bundled offset is within reach (06 R161). -/
def reachOk (l : List Instr) : Bool :=
  let loops := loopsOf l
  let offs := bundleOffsets loops l
  (List.range l.length).all (fun k => match (l[k]?).bind jumpOf with
    | none => true
    | some (f, isLoop) =>
      -(2 ^ 19) ≤ bundledOff offs loops l k f isLoop && bundledOff offs loops l k f isLoop < 2 ^ 19)

/-- The checks of 06 R159 on an object's tile lists and entries; the operations. -/
def objTile (b : List Byte) : Option (List Instr) :=
  match decodeList (objOps b) with
  | none => none
  | some l =>
    let loops := loopsOf l
    let rs := objRoutines b
    if (List.range l.length).all (fun k => ((l[k]?).map (opFits l.length loops k)).getD true) &&
        (gateEntries (objSection b 1)).all (fun e => rs.any (fun r => r.1 == e)) && reachOk l then some l
    else none

/-- KEY under the map in force (23 R410). -/
def State.imageKey (s : State) (hash : List Byte) : DWord :=
  BitVec.ofNat 64 (leNat ((sha512 (hash ++ leBytes 4 Config.stepping.toNat ++
    leBytes 8 (Config.mapDigest s.ibmir.map).toNat)).take 8))

/-- The loaded image of an object with operations `l`. -/
def State.objImage (s : State) (b : List Byte) (l : List Instr) : Image :=
  let hash := sub b 0x40 64
  let r := bundleList (objOps b) l
  let lays := objLayouts b
  ⟨hash, s.imageKey hash, r.1, r.2, (objRoutines b).map (fun r => r.1),
    ((objMapList b).getD []).map (fun m => m.map (mapEntOf lays)), objKernels b,
    (((objSections b).find? (fun s => s.kind == 1)).map (fun s => s.off)).getD 0, Config.bundleVa (s.imageKey hash)⟩

/-- The image bytes, checked in the order of 23 R409: the status, or the operations; FULL is the context's matter. -/
def Ctx.loadCheck (c : Ctx) (va size : Nat) (b : List Byte) : Except Nat (List Instr) :=
  if !objFormat va size b then .error 1
  else if objHash b != sub b 0x40 64 then .error 2
  else if !c.signatureOk b then .error 3
  else match objTile b with
    | none => .error 4
    | some l => .ok l

/-- A handle for an image in a context: the one that it has, counted once more, or the lowest free one of 256
(23 R409, R410). -/
def State.takeHandle (s : State) (cn k va : Nat) : Option (Nat × State) :=
  match KMap.look s.ctxs cn with
  | none => none
  | some c =>
    match c.handles.find? (fun h => h.2.1 == k) with
    | some h => some (h.1, s.updC cn (fun c => { c with handles := KMap.put c.handles h.1 (k, h.2.2.1, h.2.2.2 + 1) }))
    | none =>
      let h := KMap.freeKey c.handles 256 0
      if 256 ≤ h then none
      else some (h, s.updC cn (fun c => { c with handles := KMap.put c.handles h (k, va, 1) }))

/-- A code object at `va` of `size` bytes loaded into a context (23 R409, R410): the status and the handle. An object that
cannot be read breaks the layout. -/
def State.loadObject (s : State) (cn va size : Nat) : (Nat × Nat) × State :=
  match s.homeOf cn with
  | none => ((6, 415), s)
  | some k =>
    match (if size < 0x80 then .error (.ill 6) else k.bytes va size) with
    | .error _ => ((1, 0), s)
    | .ok b =>
      match k.c.loadCheck va size b with
      | .error e => ((e, 0), s)
      | .ok l =>
        let hash := sub b 0x40 64
        let (id, s') := match s.images.find? (fun m => m.2.hash == hash) with
          | some m => (m.1, s)
          | none => (s.nextId, { s with nextId := s.nextId + 1, images := KMap.put s.images s.nextId (s.objImage b l) })
        match s'.takeHandle cn id va with
        | none => ((5, 0), s)
        | some (h, s'') => ((0, h), s'')

/-- UNLOAD of a handle: the count falls, and the handle frees at zero (23 R411); whether there is such a handle. -/
def State.unloadHandle (s : State) (cn h : Nat) : Bool × State :=
  match (KMap.look s.ctxs cn).bind (fun c => KMap.look c.handles h) with
  | none => (false, s)
  | some (k, va, n) =>
    let upd (c : Ctx) : Ctx := { c with
      handles := if n ≤ 1 then KMap.del c.handles h else KMap.put c.handles h (k, va, n - 1) }
    (true, (s.updC cn upd).sweepImages)

end Sys2Proof.Machine
end

