-- ==== Sys2Proof/Machine/Memory.lean ====
section
/-! DEFINITION. Memory.lean: the lane memory instructions (05 R124 to R135) and `xlat` (04 R91). -/
namespace Sys2Proof.Machine

/-- LD. -/
def execLd (f : MFmt) (s : State) : Res := memIssue (.ld f) s
/-- ST. -/
def execSt (f : MFmt) (s : State) : Res := memIssue (.st f) s
/-- LDB. -/
def execLdb (f : MFmt) (s : State) : Res := memIssue (.ldb f) s
/-- LDACQ. -/
def execLdacq (f : MFmt) (s : State) : Res := memIssue (.ldacq f) s
/-- STREL: a store behind a fence at its scope. -/
def execStrel (f : MFmt) (s : State) : Res := memIssue (.strel f) s
/-- ATOM. -/
def execAtom (f : MFmt) (s : State) : Res := memIssue (.atom f) s
/-- RED. -/
def execRed (f : MFmt) (s : State) : Res := memIssue (.red f) s
/-- ATOMC. -/
def execAtomc (f : MFmt) (s : State) : Res := memIssue (.atomc f) s
/-- CKOUT. -/
def execCkout (f : MFmt) (s : State) : Res := memIssue (.ckout f) s
/-- CKIN. -/
def execCkin (f : MFmt) (s : State) : Res := memIssue (.ckin f) s

/-- A prefetch of the line at `va` into the L1, or with `llc` into a slice of the LLC, which holds a copy of its own of a
line of a round-managed page only; one that would fault or is not aligned to the line does nothing (05 R130, R123;
11 R279). -/
def State.prefetch (s : State) (core cn hint va : Nat) (llc : Bool) : State :=
  if isLocal va || va % 128 != 0 then s
  else
    let r := s.translate core cn va .read
    match r.1 with
    | .ok l =>
      let pa := l.pa va
      if l.so || l.rem || isRegSpace pa || s.poisoned pa 1 then r.2
      else if llc then
        if l.rounds then (r.2.fetchLine Config.llcCore cn 0 l pa 1).2 else r.2
      else (r.2.fetchLine core cn hint l pa 1).2
    | .error _ => s

/-- PRF: into the L1 under a fresh lease, or into the LLC (05 R130). It never waits: where a memory instruction would have
to wait behind an earlier one, it does nothing (05 R126). -/
def execPrf (f : MFmt) (s : State) : Res :=
  lane (.prf f) f.hd s (fun _ g s =>
    let vas := (g.enabled s.stamp f.hd).map (fun j => (g.laneVa s.stamp f j).toNat)
    .ok (if s.memStalls g f.ac.toNat 1 vas then s
      else vas.foldl (fun s' va =>
        s'.prefetch (s.coreOf g) (s.ctxOf g) (f.hint.toNat % 4) va (f.sub != 0#4)) s) [])

/-- XLAT: `bxN` filled from the TLB or the tables, with no fault; the granted LIMIT to gD (04 R91). -/
def execXlat (f : MFmt) (s : State) : Res :=
  lane (.xlat f) f.hd s (fun gid g s =>
    let va := g.rgPair s.stamp f.a + f.off.signExtend 64
    let n := f.bx.toNat
    let old := (KMap.look g.bx n).getD Bx.invalid
    let r := s.fillBx (s.coreOf g) (s.ctxOf g) va old
    .ok (r.2.updG gid (fun x => { x with bx := KMap.put x.bx n { r.1 with vbase := old.vbase } }))
      ((kb n, va) :: wG f.d r.1.limit))

/-! ### The tag table (05 R135, 10 R242) -/

/-- The recency order of a set, least recent first. -/
def Half.order (h : Half) (set : Nat) : List Nat := (KMap.look h.tagOrder set).getD [0, 1, 2, 3]

/-- A way made most recent. -/
def State.touchWay (s : State) (hid set way : Nat) : State :=
  s.updH hid (fun h => { h with tagOrder := KMap.put h.tagOrder set ((h.order set).filter (fun w => w != way) ++ [way]) })

/-- The tag of slot `x`. -/
def State.tagAt (s : State) (hid : Nat) (h : Half) (x : Nat) : Word :=
  BitVec.ofNat 32 (leNat (s.locBytes ⟨hid, false, h.tagOff + 4 * x⟩ 4))

/-- One lookup: the slot or all ones, and the victim (05 R135). DESIGN CHOICE (log entry 102): the victim is given as a slot
number, 4 × set + way, and the least recently used way is judged before the access makes its own way most recent. -/
def State.lookup (s : State) (hid : Nat) (key : Word) : (Word × Word) × State :=
  match KMap.look s.halves hid with
  | none => ((0#32, 0#32), s)
  | some h =>
    let none32 : Word := 0xFFFFFFFF#32
    let set := key.toNat % (h.tagEnt / 4)
    let ways := List.range 4
    let tag (w : Nat) := s.tagAt hid h (4 * set + w)
    let hit := if key == none32 then none else ways.find? (fun w => tag w == key)
    let victim := match ways.find? (fun w => tag w == none32) with
      | some w => w
      | none => nthD (h.order set) 0 0
    let v : Word := BitVec.ofNat 32 (4 * set + victim)
    match hit with
    | some w => ((BitVec.ofNat 32 (4 * set + w), v), s.touchWay hid set w)
    | none => ((none32, v), s)

/-- The tag of a slot set (05 R135). -/
def State.setTag (s : State) (hid x : Nat) (key : Word) : State :=
  match KMap.look s.halves hid with
  | none => s
  | some h => (s.locWrite ⟨hid, false, h.tagOff + 4 * x⟩ (leBytes 4 key.toNat)).touchWay hid (x / 4) (x % 4)

/-- The frame of `lkup` and `tagset`: the table exists, the counter has room; `body` acts in the lanes given. -/
def tagOp (i : Instr) (f : MFmt) (s : State) (bad poison : Nat → Group → Nat → Bool)
    (body : Nat → Group → State → List Nat → State) : Res :=
  lane i f.hd s (fun gid g s =>
    match KMap.look s.halves g.hid with
    | none => .gone s
    | some h =>
      if h.tagEnt == 0 then illegal i g 7
      else if s.memStalls g 0 0 [] || g.wc.get 3 == 255#8 then .gone (s.blockG gid f.hd .issue)
      else
        let en := g.enabled s.stamp f.hd
        let wrong := en.filter (fun j => bad h.tagEnt g j)
        if !wrong.isEmpty then
          let s' := s.takeTrap gid (illegalRec 6 (encode i) g.pc) []
          .gone (if s.ignores gid then body gid g s' (en.filter (fun j => !wrong.contains j)) else s')
        else if en.any (poison h.tagEnt g) then .gone (s.groupFatal gid 0x30 g.pc)
        else .ok (body gid g s en) [])

/-- LKUP. -/
def execLkup (f : MFmt) (s : State) : Res :=
  let st := s.stamp
  let pois (e : Nat) (g : Group) (j : Nat) : Bool :=
    let off := ((KMap.look s.halves g.hid).map (fun h => h.tagOff)).getD 0
    s.locPoisoned ⟨g.hid, false, off + 16 * ((g.rv st f.a j).toNat % (e / 4))⟩ 16
  tagOp (.lkup f) f s (fun _ _ _ => false) pois (fun gid g s en =>
    let r : State × Writes := en.foldl (fun a j =>
      let x := a.1.lookup g.hid (g.rv s.stamp f.a j)
      (x.2, a.2 ++ wV f.d j x.1.1 ++ wV (f.d + 1#8) j x.1.2)) (s, [])
    r.1.updG gid (fun x => x.issue (some 3) r.2))

/-- TAGSET. -/
def execTagset (f : MFmt) (s : State) : Res :=
  let st := s.stamp
  tagOp (.tagset f) f s (fun e g j => e ≤ (g.rv st f.d j).toNat) (fun _ _ _ => false) (fun gid g s en =>
    (en.foldl (fun a j => a.setTag g.hid (g.rv st f.d j).toNat (g.rv st f.a j)) s).updG gid
      (fun x => x.issue (some 3) []))

/-! ### Rounds and fences -/

/-- ROUND: a fence at its scope, then an increment of the region on its way to the home (05 R133, 20 R369). -/
def execRound (f : MFmt) (s : State) : Res :=
  lane (.round f) f.hd s (fun gid g s =>
    let x := (g.rg s.stamp f.d).toNat
    let valid := match (KMap.look s.ctxs (s.ctxOf g)).bind (fun c => KMap.look c.regions x) with
      | some r => r.v
      | none => false
    if 256 ≤ x then illegal (.round f) g 6
    else if !valid then illegal (.round f) g 7
    else .ok (s.issueFence gid f.scope.toNat (.round x)) [])

/-- FENCE (05 R131). -/
def execFence (f : MFmt) (s : State) : Res :=
  lane (.fence f) f.hd s (fun gid _ s => .ok (s.issueFence gid f.scope.toNat .nothing) [])

/-- QFENCE (05 R132): a fence entry in every named queue. -/
def execQfence (f : MFmt) (s : State) : Res :=
  lane (.qfence f) f.hd s (fun gid g s =>
    let m := f.off.toNat
    let lq := (g.rg s.stamp f.d).toNat
    match KMap.look s.halves g.hid with
    | none => .gone s
    | some h =>
      let ks := maskQueues h.core h.quarter m lq
      if bitOf m 8 && 128 ≤ lq then illegal (.qfence f) g 6
      else if s.cloveFull h.core ks then .gone (s.blockG gid f.hd .issue)
      else .ok (s.enterFence ks h.ctx h.launch (.group gid) f.scope.toNat g.pc.toNat) [])

end Sys2Proof.Machine
end

