-- ==== Sys2Proof/Machine/StateImage.lean ====
section
/-! DEFINITION. StateImage.lean: the bytes of the common state image (12 R294 to R298), as they stand in the image area of a
context once an image does not fit Mere or is spilled (24 R418). -/
namespace Sys2Proof.Machine

/-- Bytes filled with zeros up to a multiple of 256. -/
def pad256 (b : List Byte) : List Byte := b ++ List.replicate ((256 - b.length % 256) % 256) 0#8

/-- 32-bit entries of a register file in order. -/
def words32 (r : Regs 32) (k n : Nat) : List Byte := (r.slice k n).flatMap (fun x => leBytes 4 x.toNat)

/-- 64-bit entries of a register file in order. -/
def words64 (r : Regs 64) (k n : Nat) : List Byte := (r.slice k n).flatMap (fun x => leBytes 8 x.toNat)

/-- Translation registers 0 to `n - 1`, their LIMIT stored as zero (01 R21). -/
def bxBytes (m : KMap Bx) (n : Nat) : List Byte :=
  (List.range n).flatMap (fun i =>
    let b := (KMap.look m i).getD Bx.invalid
    leBytes 8 b.vbase.toNat ++ leBytes 8 (b.attr.toNat * 2 ^ 24 + b.perm.toNat * 2 ^ 28))

/-- A fault word of four words; zeros for none. -/
def faultBytes (f : Option FaultRec) : List Byte :=
  match f with
  | none => List.replicate 32 0#8
  | some f => leBytes 8 f.w0.toNat ++ leBytes 8 f.w1.toNat ++ leBytes 8 f.w2.toNat ++ leBytes 8 f.w3.toNat

/-- The state code of a group, in the row order of 09 R219. DESIGN CHOICE (log entry 123): a group that was ready when its unit
was saved has the code of ready. -/
def Group.stateCode (g : Group) : Nat :=
  if g.stopped then 5
  else if g.fault.isSome then 4
  else match g.sched with
    | .ready => 0
    | .marker => 1
    | .counter _ _ => 2
    | .blocked _ => 3
    | .parked => 4
    | .exited => 6

/-- Retry counts, 2 bits a level, group level lowest. -/
def retryBits (r : Regs 8) : Nat := ((List.range 4).map (fun l => (r.get l).toNat % 4 * 4 ^ l)).foldl (· + ·) 0

/-- A held entry (12 R296). -/
def HeldI.bytes (h : HeldI) : List Byte :=
  leBytes 8 h.pc.toNat ++ leBytes 8 (encode h.instr).toNat ++ leBytes 8 h.lanes.toNat ++ leBytes 8 0 ++
  words64 h.va 0 64 ++ (h.data.slice 0 64).flatMap (fun x => leBytes 16 x.toNat) ++ List.replicate 224 0#8

/-- The held instructions that an image stores, the faulting one first (12 R296). -/
def Group.heldOut (g : Group) : List HeldI :=
  let l := g.held.filter (fun h => h.lanes != 0#64)
  match l.find? (fun h => g.fault.map (fun f => f.at_) == some h.pc) with
  | some h => h :: l.filter (fun x => x.id != h.id)
  | none => l

/-- The window offset by which half `half` of a team, with hid `hid`, names byte `off` of half `h` (10 R237). -/
def windowOff (hid half h off : Nat) : Nat := if h == hid then off else 0x10000000 + 0x1000000 * (1 - half) + off

/-- The record of a group of half number `half` (12 R295), its held entries at `heldOff`. -/
def Group.recordBytes (g : Group) (half heldOff grow : Nat) : List Byte :=
  let wait : Nat := match g.sched with
    | .blocked (.waitb h off p) => windowOff g.hid half h off + b2n p * 2 ^ 32
    | .blocked (.tryw h off p _ _) => windowOff g.hid half h off + b2n p * 2 ^ 32
    | _ => 0
  let nh := g.heldOut.length
  leBytes 8 g.pc.toNat ++
  leBytes 8 (g.stateCode + g.slot * 2 ^ 8 + g.n / 8 * 2 ^ 16 + grow / 8 * 2 ^ 24 + g.watch.toNat * 2 ^ 32) ++
  leBytes 8 g.em.toNat ++ leBytes 8 g.live.toNat ++ leBytes 4 g.fm.toNat ++ leBytes 4 g.migrations.toNat ++
  leBytes 8 g.latchT.toNat ++ leBytes 8 g.latchG.toNat ++ leBytes 8 (retryBits g.retries) ++ words64 g.k 0 7 ++ leBytes 8 0 ++
  words32 g.g 0 64 ++ bxBytes g.bx 8 ++ faultBytes g.fault ++ leBytes 8 (((g.fault.map (fun f => f.at_)).getD 0#64).toNat) ++
  leBytes 8 (((g.fault.map (fun f => f.mask)).getD 0#64).toNat) ++ leBytes 8 wait ++ leBytes 4 nh ++
  leBytes 4 (if nh == 0 then 0 else heldOff) ++ List.replicate 192 0#8 ++ words32 g.fx 0 64 ++
  (List.range g.n).flatMap (fun r => words32 g.v (kv r 0) g.width)

/-- The tile-context record (12 R297). -/
def Tile.recordBytes (t : Tile) : List Byte :=
  let level (l : Nat) : List Byte := match KMap.look t.loops l with
    | some x => leBytes 4 x.start ++ leBytes 4 x.end_ ++ leBytes 8 0
    | none => List.replicate 16 0#8
  let active := ((List.range 4).map (fun l => b2n (KMap.look t.loops l).isSome * 2 ^ l)).foldl (· + ·) 0
  words32 t.c 0 32 ++ words64 t.ap 0 8 ++ bxBytes t.xb 4 ++ words32 t.lc 0 4 ++ words32 t.sd 0 16 ++
  leBytes 4 t.cfm.toNat ++ leBytes 4 t.cfx.toNat ++ leBytes 4 t.batch.toNat ++ leBytes 4 t.doneBatch.toNat ++
  leBytes 8 t.pc ++ leBytes 8 t.npc ++ leBytes 8 t.nnpc ++
  leBytes 8 (b2n t.an0 + 2 * b2n t.an1 + active * 4 + t.grant * 64) ++ (List.range 4).flatMap level ++
  words64 t.t 0 16 ++ (List.range 8).flatMap (fun q => leBytes 4 (((KMap.look t.q q).map (fun x => x.ring)).getD 0#32).toNat) ++
  leBytes 8 t.latchT.toNat ++ List.replicate 408 0#8 ++ t.w.slice 0 16384 ++ words32 t.acc 0 (8192 * t.grant)

/-- A layout record as 64 bytes (10 R247). -/
def Layout.bytes (l : Layout) : List Byte :=
  leBytes 4 (l.fmt + l.ndim * 16 + l.tord * 128) ++ (List.range 5).flatMap (fun j => leBytes 4 (nthD l.size j 0)) ++
    (List.range 5).flatMap (fun j => leBytes 8 (BitVec.ofInt 64 (nthD l.stride j 0)).toNat)

/-- OP of a command: the opcode of its lane instruction or tile operation. -/
def Cmd.op (c : Cmd) (tile cast : Bool) : Nat :=
  match c with
  | .copy _ _ _ _ idx => (if tile then 0x69 else 0xC0) + (if idx.isSome then 1 else if cast then 2 else 0)
  | .fill _ _ => 0x6C
  | .mma zero _ _ _ _ _ => if zero then 0x62 else 0x61
  | .ast _ _ _ => 0x63
  | .ald _ _ => 0x64
  | .amask _ _ _ _ => 0x65
  | .sdrop _ _ => 0x6D
  | .trn _ _ _ => 0x67
  | .vgmv _ _ _ _ => 0x68
  | .qfence _ _ => if tile then 0x70 else 0x9F
  | .round _ _ _ => 0x72
  | .loch _ _ _ _ _ _ => 0

/-- The source and the first destination of a command. -/
def Cmd.sides (c : Cmd) : Option Side × Option Side :=
  match c with
  | .copy _ _ a ds _ => (some a, (ds.head?).map (fun d => d.2))
  | .fill a _ => (some a, none)
  | .ast _ d _ => (none, some d)
  | .ald _ a => (some a, none)
  | .trn d a _ => (some a, some d)
  | .vgmv d a _ _ => (some a, some d)
  | _ => (none, none)

/-- QUEUE of a residue entry by its code: 64 and above in the time-sorted buffer, 1000 and above in a Loch queue. DESIGN CHOICE
(log entry 124): a `round` of a tile, which enters no queue, has the code of the matrix queue. -/
def residueQueue (code : Nat) : Nat := if 1000 ≤ code then 8 else queueCode (code % 64)

/-- A residue entry of half `hid`, number `half` of its team (12 R298). -/
def QEnt.residueBytes (e : QEnt) (hid half code : Nat) : List Byte :=
  let tile := match e.issuer with
    | .tile _ => true
    | .group _ => false
  let par : Nat × Nat × Nat × List Nat := match e.cmd with
    | .copy m sc _ ds i =>
      (m, sc, if e.cast then (ds.map (fun d => d.1)).foldl (fun a b => a ||| 2 ^ b) 0 else 0, i.getD [])
    | _ => (0, 0, 0, [])
  let base (x : Option Side) : Nat := (x.map (fun a => a.base)).getD 0
  let lay (x : Option Side) : List Byte := match x with
    | some a => a.lay.bytes
    | none => List.replicate 64 0#8
  let src := e.cmd.sides.1
  let dst := e.cmd.sides.2
  let bar : Nat := match e.bar with
    | none => 0xFFFFFFFF
    | some (h, off) => if h == 0 then off else windowOff hid half h off
  leBytes 8 (e.cmd.op tile e.cast + b2n tile * 2 ^ 8 + residueQueue code * 2 ^ 9 + par.1 * 2 ^ 13 + bar * 2 ^ 32) ++
  leBytes 8 e.time.toNat ++ leBytes 8 (base src) ++ leBytes 8 (base dst) ++ leBytes 16 (packCoords e.coords) ++ leBytes 4 e.fm.toNat ++
  leBytes 4 par.2.1 ++ leBytes 8 (par.2.2.1 % 256 + par.2.2.2.length * 2 ^ 16) ++ faultBytes e.fault ++ leBytes 8 e.opindex ++
  List.replicate 24 0#8 ++ lay src ++ lay dst ++ par.2.2.2.flatMap (leBytes 4)

/-- The group records with their held entries, from image offset `off` on. -/
def groupRecords (x : Saved) : Nat → List (Nat × Group) → List Byte × List Byte
  | _, [] => ([], [])
  | held, (gid, g) :: rest =>
    let grow := ((x.grow.find? (fun r => r.1 == gid)).map (fun r => r.2.1)).getD 0
    let mine := pad256 (g.recordBytes (x.half.half % 2) held grow)
    let h := g.heldOut.flatMap (fun i => pad256 i.bytes)
    let r := groupRecords x (held + h.length) rest
    (mine ++ r.1, h ++ r.2)

/-- The bytes of a saved half's image; `key` is that of its loaded image. -/
def Saved.bytes (x : Saved) (key : DWord) : List Byte :=
  let h := x.half
  let size := (groupRecords x 0 x.groups).1.length
  let gr := groupRecords x (256 + size) x.groups
  let t := pad256 ((h.tile.map Tile.recordBytes).getD [])
  let res := x.residue.flatMap (fun r => pad256 (r.2.residueBytes x.hid (x.half.half % 2) r.1))
  let orders := (List.range (h.tagEnt / 4)).map (fun s =>
    BitVec.ofNat 8 (((List.range 4).map (fun i => nthD (h.order s) i 0 * 4 ^ i)).foldl (· + ·) 0))
  let loc := h.spad.slice 0 (16384 * h.spadBanks) ++ h.tob.slice 0 (16384 * h.tobBanks) ++ orders
  let ctxOff := 256 + gr.1.length + gr.2.length
  let resOff := ctxOff + t.length
  let locOff := resOff + res.length
  let pend := h.pending.isSome
  let frame := if h.gate.isSome then h.spad.slice h.frameOff 0xC0 else List.replicate 0xC0 0#8
  frame ++ leBytes 4 256 ++ leBytes 4 x.groups.length ++ leBytes 4 (if h.tile.isSome then ctxOff else 0) ++
    leBytes 4 x.residue.length ++ leBytes 4 resOff ++ leBytes 4 locOff ++ leBytes 4 loc.length ++
    leBytes 4 (b2n h.gate.isSome + 2 * b2n pend + 4 * (h.half % 2)) ++ leBytes 8 x.time.toNat ++
    leBytes 8 (if h.gate.isSome then key.toNat else 0) ++ List.replicate 16 0#8 ++ gr.1 ++ gr.2 ++ t ++ res ++ pad256 loc

/-- The image of a saved half. -/
def State.imageBytes (s : State) (x : Saved) : List Byte :=
  x.bytes (((KMap.look s.launches x.half.launch).bind (fun l => KMap.look s.images l.image)).map (fun m => m.key) |>.getD 0#64)

/-- The images and context records of a partition's contexts that Mere holds, in bytes. -/
def State.mereUsed (s : State) (part : Nat) : Nat :=
  ((s.saved.filter (fun x => x.inMere && s.partOf x.half.ctx == part)).map (fun x => (s.imageBytes x).length)).foldl (· + ·) 0 +
    ((s.ctxs.filter (fun c => c.2.part == part)).map (fun c =>
      ((c.2.record.filter (fun r => r.inMere)).map (fun r => r.len)).getD 0)).foldl (· + ·) 0

/-- Whether Mere holds more images of a partition than its share of slices (24 R413, R418). -/
def State.mereOver (s : State) (part : Nat) : Bool :=
  ((KMap.look s.parts part).map (fun p => p.mere * 2 ^ 21)).getD 0 < s.mereUsed part

/-- What stands in the image area of context `cn`: offsets and lengths (24 R418). -/
def State.inArea (s : State) (cn : Nat) (c : Ctx) : List (Nat × Nat) :=
  (s.saved.filter (fun y => !y.inMere && y.half.ctx == cn)).map (fun y => (y.off, (s.imageBytes y).length)) ++
    ((c.record.filter (fun r => !r.inMere)).map (fun r => (r.off, r.len))).toList

/-- The lowest offset at which `n` bytes overlap nothing that stands in an image area. -/
def lowestFree (l : List (Nat × Nat)) (n : Nat) : Nat :=
  let cand := 0 :: l.map (fun x => x.1 + x.2)
  let free := cand.filter (fun o => l.all (fun x => o + n ≤ x.1 || x.1 + x.2 ≤ o))
  free.foldl (fun a o => min a o) (cand.foldl (fun a o => max a o) 0)

/-- Bytes written to a context's image area at an offset, as far as the area reaches. -/
def State.toArea (s : State) (c : Ctx) (off : Nat) (b : List Byte) : State :=
  if c.imgLen < off + b.length then s else s.homeWrite none (c.imgBase + off) b

/-- A saved half's image written to its context's image area, where nothing stands (24 R418). -/
def State.spillImage (s : State) (hid : Nat) : State :=
  match s.saved.find? (fun x => x.hid == hid) with
  | none => s
  | some x =>
    match KMap.look s.ctxs x.half.ctx with
    | none => s
    | some c =>
      let b := s.imageBytes x
      let off := lowestFree (s.inArea x.half.ctx c) b.length
      let upd (y : Saved) : Saved := if y.hid == hid then { y with inMere := false, off := off } else y
      { s with saved := s.saved.map upd }.toArea c off b

/-- The context record of a halted context moved from Mere to its image area; its contents are those of Config, since the spec
gives them no layout (24 R418). -/
def State.spillRecord (s : State) (cn : Nat) : State :=
  match KMap.look s.ctxs cn with
  | none => s
  | some c => match c.record with
    | none => s
    | some r =>
      if !r.inMere then s
      else
        let off := lowestFree (s.inArea cn c) r.len
        (s.updC cn (fun c => { c with record := some { r with inMere := false, off := off } })).toArea c off
          ((List.range r.len).map (fun i => Config.recordByte s.stamp cn i))

/-- Images of a context moved out of Mere while they do not fit its partition's share, the last first, and then its record. -/
def State.fitMere (s : State) (part cn : Nat) : State :=
  let s := ((s.saved.filter (fun x => x.inMere && x.half.ctx == cn)).map (fun x => x.hid)).reverse.foldl (fun s hid =>
    if s.mereOver part then s.spillImage hid else s) s
  if s.mereOver part then s.spillRecord cn else s

end Sys2Proof.Machine
end

