-- ==== Sys2Proof/Machine/Partition.lean ====
section
/-! DEFINITION. Partition.lean: partition descriptors (24 R413), the creation of contexts (24 R416, 18 R348, 20 R367), the
commands of a partition's block (24 R415), halting, images and restore (24 R417 to R420), and migration (24 R421, R422). -/
namespace Sys2Proof.Machine

/-! ### Partition descriptors (24 R413) -/

/-- The descriptor of four words, the first at offset 0. -/
def partOf (w0 w1 w2 w3 : DWord) : Partition :=
  ⟨w1.setWidth 32 ++ w0, bitsOf w3.toNat 25 16, bitsOf w3.toNat 9 0, bitsOf w2.toNat 41 32, bitsOf w2.toNat 9 0⟩

/-- Whether two partitions share a pair or their HBM shares overlap. -/
def Partition.clashes (a b : Partition) : Bool :=
  a.pairs &&& b.pairs != 0 ||
    (a.hbmBase < b.hbmBase + b.hbmLen && b.hbmBase < a.hbmBase + a.hbmLen && a.hbmLen != 0 && b.hbmLen != 0)

/-- Whether Ibmir refuses descriptor `p` for partition `n`, or the partition holds a context. -/
def State.partRefused (s : State) (n : Nat) (p : Partition) : Bool :=
  let others := s.parts.filter (fun e => e.1 != n)
  let sum (f : Partition → Nat) : Nat := f p + (others.map (fun e => f e.2)).foldl (· + ·) 0
  others.any (fun e => e.2.clashes p) || 768 < p.hbmBase + p.hbmLen || 768 < sum (fun x => x.llc + x.mere) ||
    192 < sum (fun x => x.mere) || s.ctxs.any (fun c => c.2.part == n)

/-- A host request for a descriptor, outside the window of a firmware update. -/
def State.setPartition (s : State) (n : Nat) (p : Partition) : State :=
  if 8 ≤ n || !s.ibmir.ready || s.ibmir.recovery || s.partRefused n p then s
  else { s with parts := KMap.put s.parts n p }

/-- PARTITION_DESCRIPTOR_WRITE: accepted or refused; held during the window of an update (27 R448). -/
def execPartitionDescriptorWrite (part : Nat) (w0 w1 w2 w3 : DWord) (s : State) : Res :=
  if s.ibmir.update.isSome then
    .next { s with ibmir := { s.ibmir with held := s.ibmir.held ++ [.partition part w0 w1 w2 w3] } }
  else .next (s.setPartition part (partOf w0 w1 w2 w3))

/-! ### Creation (24 R416) -/

/-- Whether physical bytes can be read as a record: they are memory, and good. -/
def State.plain (s : State) (pa n : Nat) : Bool := pa + n ≤ 2 ^ 52 && !isRegSpace pa && !s.poisoned pa n

/-- A Tarn configuration record (18 R348), `none` where it breaks a limit. -/
def State.tarnAt (s : State) (pa : Nat) : Option TarnCfg :=
  let u (o n : Nat) : Nat := s.memNat (pa + o) n
  let shape := u 0x34 4
  let t : TarnCfg := ⟨u 0 8, u 8 8, u 0x10 8, u 0x18 8, u 0x20 8, u 0x28 4, u 0x2C 4, u 0x30 4, bitsOf shape 31 16,
    bitsOf shape 15 8, bitsOf shape 7 0, u 0x38 4, u 0x40 8, u 0x48 8, u 0x50 4, u 0x58 8, u 0x60 8, u 0x68 8, u 0x70 8,
    u 0x78 4⟩
  if s.plain pa 0x80 && t.seqbase % 64 == 0 && t.retbase % 8 == 0 && 1 ≤ t.nseq && t.nseq ≤ 65536 && 1 ≤ t.npage &&
      t.npage ≤ 2 ^ 20 && (t.rows == 16 || t.rows == 32 || t.rows == 64) && 1 ≤ t.maxblk && t.maxblk * t.rows ≤ 2 ^ 24 &&
      t.elem % 32 == 0 && 32 ≤ t.elem && t.elem ≤ 1024 && t.defenc ≤ 1 && u 0x3C 4 == 0 && 1 ≤ t.nframe0 &&
      t.nframe0 ≤ 2 ^ 20 && u 0x54 4 == 0 && t.nframe1 ≤ 2 ^ 20 && u 0x7C 4 == 0 && t.nullframe < t.nframe0
  then some t else none

/-- Entry `j` of a round-region table (20 R367), `none` where it breaks a rule; the counters are mapped by context `c`. -/
def State.regionAt (s : State) (c : Ctx) (pa j : Nat) : Option Region :=
  let lo := s.memNat (pa + 16 * j) 8
  let hi := s.memNat (pa + 16 * j + 8) 8
  let va := bitsOf hi 56 0
  let r : Region := ⟨BitVec.ofNat 64 va, bitOf lo 63, bitOf lo 12, bitsOf lo 11 8⟩
  if bitsOf hi 63 57 != 0 || bitsOf lo 62 13 != 0 || bitsOf lo 7 0 != 0 then none
  else if !r.v then some r
  else match s.walkCtx c va with
    | .ok l => if l.rem || !isDevice (l.pa va) || l.rnd then none else some r
    | .error _ => none

/-- The valid entries of a round-region table; no table is no region. -/
def State.regionsAt (s : State) (c : Ctx) (pa : Nat) : Option (KMap Region) :=
  if pa == 0 then some []
  else if !s.plain pa 4096 then none
  else (List.range 256).foldlM (fun m j => (s.regionAt c pa j).map (fun r => if r.v then KMap.put m j r else m)) []

/-- Whether B0 has what a feature profile claims (23 R412). -/
def profileOk (p : List Nat) : Bool :=
  nthD p 1 0 ≤ 1 && nthD p 2 0 < 64 && nthD p 3 0 ≤ 64 && nthD p 4 0 ≤ 8 && nthD p 5 0 ≤ 4 && nthD p 6 0 ≤ 28

/-- The streams of a mask. -/
def streamsOf (mask : Nat) : List Nat := (List.range 128).filter (fun i => bitOf mask i)

/-- The context of the creation record at `pa` for partition `part`, or the rule that refuses it. -/
def State.newCtx (s : State) (part pa : Nat) : Except Nat Ctx :=
  let u (o n : Nat) : Nat := s.memNat (pa + o) n
  let keyWord := u 0x38 8
  let nkeys := bitsOf keyWord 3 1
  let prof := (List.range 64).map (fun i => s.memNat (u 0x48 8 + 4 * i) 4)
  let streams := streamsOf (u 0x28 16)
  let c : Ctx := {
    part := part, troot := u 0 8, tarn := none, pins := [], kicks := [], requant := [], regions := [], winBase := u 0x18 8
    winCount := u 0x20 4, mergedev := u 0x24 4, streams := streams, signing := bitOf keyWord 0
    keys := (List.range nkeys).map (fun i => s.memBytes (u 0x40 8 + 516 * i) 516)
    profile := Regs.setSlice [] 0 ((prof.take 7).map (BitVec.ofNat 32)), imgBase := u 0x50 8, imgLen := u 0x58 8
    layouts := [], handles := [], events := []
    fq := ⟨0#64, 0, 0, 0#64, 0#64, 0#32, 0#32, 0#32, 0#32, [], []⟩, halted := false, killed := false, waitSave := []
    record := none, agents := [] }
  if s.ibmir.recovery then .error 446
  else if (KMap.look s.parts part).isNone then .error 413
  else if !s.plain pa 256 || u 0x60 160 != 0 || c.troot % 2 ^ 21 != 0 || !s.tableOk c c.troot (2 ^ 21) || 4 < nkeys ||
      4096 < c.winCount || keyWord / 16 != 0 || (nkeys == 0 && u 0x40 8 != 0) || u 0x40 8 % 8 != 0 ||
      !s.plain (u 0x40 8) (516 * nkeys) || u 0x48 8 % 256 != 0 || !s.plain (u 0x48 8) 256 || !profileOk prof ||
      c.imgBase % 2 ^ 21 != 0 || Config.hbmBytes < c.imgBase + c.imgLen ||
      streams.any (fun n => (KMap.look s.streams n).isSome) then .error 416
  else
    let tarn := if u 8 8 == 0 then some none else (s.tarnAt (u 8 8)).map some
    match tarn, s.regionsAt c (u 0x10 8) with
    | none, _ => .error 348
    | _, none => .error 367
    | some t, some r => .ok { c with tarn := t, regions := r }

/-- A stream of a new context (22 R381). -/
def Stream.fresh (cn : Nat) : Stream := ⟨cn, 0, 0, 0, false, false, 0#64, 0#64, 0, 0, []⟩

/-- A context under the lowest free number, with its streams; the number, `none` where none is free. -/
def State.addCtx (s : State) (c : Ctx) : Option (Nat × State) :=
  let n := KMap.freeKey s.ctxs 4096 0
  if 4096 ≤ n then none
  else some (n, { s with
    ctxs := KMap.put s.ctxs n c
    streams := c.streams.foldl (fun m x => KMap.put m x (Stream.fresh n)) s.streams
    ibmir := { s.ibmir with contextsMade := true } })

/-! ### Commands (24 R415) -/

/-- The completion word of a command: tag, result, status. -/
def State.reply (s : State) (c : PCmd) (status result : Nat) : State :=
  { s with cmdDone := KMap.put s.cmdDone c.part (BitVec.ofNat 64 (status % 256 + result % 2 ^ 32 * 2 ^ 16 + c.tag.toNat * 2 ^ 48)) }

/-- The contexts of a partition. -/
def State.ctxsOf (s : State) (part : Nat) : List Nat := (s.ctxs.filter (fun c => c.2.part == part)).map (fun c => c.1)

/-- Whether a command names a context of its partition. -/
def State.names (s : State) (c : PCmd) : Bool := (s.ctxsOf c.part).contains c.ctx

/-! ### Halting (24 R417) -/

/-- The halves of a context that hold resources. -/
def State.hidsOf (s : State) (cn : Nat) : List Nat :=
  (s.halves.filter (fun h => h.2.ctx == cn && !h.2.released)).map (fun h => h.1)

/-- Whether a context is halted. -/
def State.isHalted (s : State) (cn : Nat) : Bool := ((KMap.look s.ctxs cn).map (fun c => c.halted)).getD false

/-- A context told to halt; its matrix commands that run complete. -/
def State.haltCtx (s : State) (cn : Nat) : State :=
  if s.isHalted cn then s
  else ((s.hidsOf cn).foldl State.finishRunning s).updC cn (fun c => { c with halted := true })

/-- Whether nothing of a context is under way that an image cannot hold. -/
def State.ctxQuiet (s : State) (cn : Nat) : Bool :=
  s.unitQuiet (s.hidsOf cn) && !s.remote.any (fun a => a.ctx == cn)

/-- What Tarn does with a context's requantisation at its halt (24 R420, 18 R360). -/
def State.haltTarn (s : State) (cn : Nat) : State :=
  if Config.requantDropped s.stamp then s.updC cn (fun c => { c with requant := [] }) else s

/-! ### Images and restore (24 R418 to R420) -/

/-- Whether a context's record stands, since it has been halted and saved. -/
def State.recorded (s : State) (cn : Nat) : Bool := (KMap.look s.ctxs cn).any (fun c => c.record.isSome)

/-- A quiet context saved: an image of each unit and the context record, in the image area where Mere cannot hold them; one that
has been saved stays as it is (24 R418, R420). -/
def State.saveCtx (s : State) (cn : Nat) : State :=
  if s.recorded cn then s
  else
    let s := ((s.hidsOf cn).foldl State.saveHalf (s.numberQ (s.hidsOf cn))).haltTarn cn
    (s.updC cn (fun c => { c with record := some ⟨Config.recordLen s.stamp cn, true, 0⟩ })).fitMere (s.partOf cn) cn

/-- The saved halves of a context by placement unit, as queue entries; those that stand in a queue left out. -/
def State.savedUnits (s : State) (cn : Nat) : List PUnit :=
  let queued := s.dist.flatMap (fun q => q.2.flatMap (fun u => u.saved))
  let mine := s.saved.filter (fun x => x.half.ctx == cn && !queued.contains x.hid)
  let unit (x : Saved) : PUnit := s.unitOf x.half []
  let keys := (mine.map (fun x => ((unit x).launch, (unit x).first))).eraseDups
  keys.filterMap (fun k =>
    let l := mine.filter (fun x => (unit x).launch == k.1 && (unit x).first == k.2)
    (l.head?).map (fun x => { unit x with saved := l.map (fun y => y.hid) }))

/-- The saved groups of a context get ages at the young end, in their old order (24 R419). -/
def State.ageSaved (s : State) (cn : Nat) : State :=
  let all := (s.saved.filter (fun x => x.half.ctx == cn)).flatMap (fun x => x.groups.map (fun g => g.2.age))
  let rank (a : Nat) : Nat := s.nextId + (all.filter (fun b => b < a)).length
  let fresh (x : Saved) : Saved :=
    { x with groups := KMap.mapv (fun _ g => { g with age := rank g.age }) x.groups, aged := s.stamp + 1 }
  { s with
    nextId := s.nextId + all.length
    saved := s.saved.map (fun x => if x.half.ctx == cn then fresh x else x) }

/-- Looks again at everything that units which are back may wait for. -/
def State.recheck (s : State) (cn : Nat) : State := (((s.wakeEvents cn).predCheck).drainCheck).lochCredit

/-- A halted context goes on: its units rejoin the queue and are placed where they fit (24 R419). -/
def State.resumeCtx (s : State) (cn : Nat) : State :=
  let part := s.partOf cn
  let s := s.updC cn (fun c => { c with halted := false, record := none })
  let mine (u : PUnit) : Bool := ((s.launchOf u).map (fun l => l.ctx)) == some cn
  let again (u : PUnit) : PUnit := if mine u then { u with joined := s.chipTime, blocking := false } else u
  let q := ((KMap.look s.dist part).getD []).map again ++ s.savedUnits cn
  (((({ s with dist := KMap.put s.dist part q }).ageSaved cn).walkDist part).applyHeld cn).recheck cn

/-- Every image of a context in Mere, and its record, moved to the image area (24 R418). -/
def State.spillCtx (s : State) (cn : Nat) : State :=
  (((s.saved.filter (fun x => x.inMere && x.half.ctx == cn)).map (fun x => x.hid)).foldl State.spillImage s).spillRecord cn

/-! ### Leaving (24 R416) -/

/-- What is left of a context when its number frees: translations, known rounds, its streams and status. -/
def State.forget (s : State) (cn : Nat) : State :=
  { s with
    ctxs := KMap.del s.ctxs cn
    streams := s.streams.filter (fun x => x.2.ctx != cn)
    tlb := s.tlb.filter (fun t => t.ctx != cn)
    remTlb := s.remTlb.filter (fun t => t.ctx != cn)
    kr := s.kr.filter (fun e => e.1 / 256 % 4096 != cn)
    incs := s.incs.filter (fun e => e.1 / 256 != cn)
    bcasts := s.bcasts.filter (fun b => b.ctx != cn)
    requantStatus := KMap.del s.requantStatus cn
    attached := s.attached.filter (fun x => x != cn) }

/-- A halted context destroyed: everything of it discarded, its number free. -/
def State.destroyCtx (s : State) (cn : Nat) : State := ((s.purge cn).forget cn).sweepImages

/-! ### Migration (24 R421, R422) -/

/-- The images that a context names: those of its handles and of its launches. -/
def State.imagesOf (s : State) (cn : Nat) : List Nat :=
  ((((KMap.look s.ctxs cn).map (fun c => c.handles.map (fun h => h.2.1))).getD []) ++
    (s.launches.filter (fun l => l.2.ctx == cn)).map (fun l => l.2.image)).eraseDups

/-- A saved half as it goes along: a round whose increment has not reached its counter is to be sent anew. -/
def Saved.leaving (x : Saved) : Saved :=
  let back (e : QEnt) : QEnt := match e.cmd with
    | .round _ _ _ => if e.done == 1 then { e with done := 0 } else e
    | _ => e
  { x with residue := x.residue.map (fun r => (r.1, back r.2)) }

/-- What a halted context takes along (24 R421). -/
def State.packCtx (s : State) (cn device part : Nat) : Option Migration :=
  let mine (u : PUnit) : Bool := ((s.launchOf u).map (fun l => l.ctx)) == some cn
  (KMap.look s.ctxs cn).map (fun c =>
    { origin := c.part, source := cn, device := device, part := part, ctx := c
      streams := s.streams.filter (fun x => x.2.ctx == cn), launches := s.launches.filter (fun l => l.2.ctx == cn)
      units := (s.dist.flatMap (fun q => q.2)).filter mine
      saved := (s.saved.filter (fun x => x.half.ctx == cn)).map Saved.leaving
      works := (KMap.look s.works cn).getD []
      marks := (s.poison.filter (fun l => l / 2 ^ 64 == cn + 1)).map (fun l => l - workLine cn 0)
      kr := s.kr.filter (fun e => e.1 / 256 % 4096 == cn)
      keys := (s.saved.filter (fun x => x.half.ctx == cn && x.half.gate.isSome)).filterMap (fun x =>
        (s.imageOf x.half).map (fun i => (x.hid, i.key)))
      hashes := (s.imagesOf cn).filterMap (fun k => (KMap.look s.images k).map (fun i => (k, i.hash)))
      from_ := Config.deviceNumber.toNat, base := 0, top := s.nextId, answer := none })

/-- A context that has gone: its working copies have gone with it, and no twin is touched. -/
def State.leaveCtx (s : State) (cn : Nat) : State := ({ s with works := KMap.del s.works cn }).destroyCtx cn

/-- A captured address space under a new context number. -/
def Space.under (cn : Nat) (x : Space) : Space :=
  match x with
  | .virt _ core => .virt cn core
  | x => x

/-- A side under a new context number. -/
def Side.under (cn : Nat) (x : Side) : Side := { x with space := x.space.under cn }

/-- A command under a new context number. -/
def Cmd.under (cn : Nat) (x : Cmd) : Cmd :=
  match x with
  | .copy m sc a ds i => .copy m sc (a.under cn) (ds.map (fun d => (d.1, d.2.under cn))) i
  | .fill a q => .fill (a.under cn) q
  | .ast a d z => .ast a (d.under cn) z
  | .ald a d => .ald a (d.under cn)
  | .trn a b p => .trn (a.under cn) (b.under cn) p
  | .vgmv a b d n => .vgmv (a.under cn) (b.under cn) (d.under cn) n
  | x => x

/-- A saved half under a new context number, on no core of this partition, so that its return counts as a migration (24 R422);
what it has observed stands under that core's number and 1024. -/
def Saved.under (cn : Nat) (x : Saved) : Saved :=
  { x with
    half := { x.half with ctx := cn, core := if x.half.core < 1024 then 1024 + x.half.core else x.half.core }
    residue := x.residue.map (fun r => (r.1, { r.2 with ctx := cn, cmd := r.2.cmd.under cn }))
    inMere := true, off := 0 }

/-- The stream that takes over from stream `n`: the new mask's streams in order, for the old ones in order. -/
def Migration.streamMap (m : Migration) (new : List Nat) (n : Nat) : Nat :=
  match (List.range m.streams.length).find? (fun i => (m.streams[i]?).map (fun x => x.1) == some n) with
  | some i => nthD new i 0
  | none => n

/-- Whether a package comes from another device. -/
def Migration.foreign (m : Migration) : Bool := m.from_ != Config.deviceNumber.toNat

/-- The image here of what the package calls image `k`: the same one, or the one with its object's HASH (23 R411). -/
def State.imageHere (s : State) (m : Migration) (k : Nat) : Option Nat :=
  if m.foreign then
    (KMap.look m.hashes k).bind (fun h => (s.images.find? (fun i => i.2.hash == h)).map (fun i => i.1))
  else if (KMap.look s.images k).isSome then some k else none

/-- The merge agents of the working copies that a package brings: a check-in goes to where the check-out was (20 R375). -/
def Migration.agents (m : Migration) : KMap Nat :=
  (m.works.filter (fun e => e.1 < 2 ^ 40)).foldl (fun t e =>
    let dev := if isDevice (e.1 * 4096) then m.from_ else m.ctx.mergedev
    KMap.put t e.1 ((KMap.look m.ctx.agents e.1).getD (4096 * dev + m.source))) []

/-- The context that a package becomes under the creation record `c`: everything of it but what the record gives anew
(24 R421, R422). -/
def State.ctxHere (s : State) (m : Migration) (c : Ctx) (st : Nat → Nat) : Ctx :=
  let turned (r : FQRec) : FQRec := if r.source == 2 then { r with unit := st r.unit } else r
  { m.ctx with
    part := c.part, troot := c.troot, tarn := c.tarn, regions := c.regions, winBase := c.winBase, winCount := c.winCount
    mergedev := c.mergedev, streams := c.streams, signing := c.signing, keys := c.keys, imgBase := c.imgBase
    imgLen := c.imgLen, halted := true, waitSave := m.saved.map (fun x => x.time), agents := m.agents
    handles := m.ctx.handles.filterMap (fun h => (s.imageHere m h.2.1).map (fun k => (h.1, (k, h.2.2))))
    fq := { m.ctx.fq with recs := m.ctx.fq.recs.map turned } }

/-- A package taken in as context `cn` of the creation record `c` (24 R421, R422); what its context has in this device's caches,
and on its way to its cores, goes on under the new number (20 R372). -/
def State.unpack (s : State) (m : Migration) (cn : Nat) (c : Ctx) : State :=
  let st := m.streamMap c.streams
  let streams := m.streams.foldl (fun t (x : Nat × Stream) => KMap.put t (st x.1) { x.2 with ctx := cn }) s.streams
  let launches := m.launches.foldl (fun t (l : Nat × Launch) =>
    KMap.put t l.1 { l.2 with ctx := cn, stream := st l.2.stream, image := (s.imageHere m l.2.image).getD 0 }) s.launches
  let core (k : Nat) : Nat := k / (4096 * 256)
  let kr := m.kr.foldl (fun t e => (t.set (krKey (core e.1) cn (e.1 % 256)) e.2).set
    (krKey (if core e.1 < 1024 then 1024 + core e.1 else core e.1) cn (e.1 % 256)) e.2) s.kr
  let moved (u : PUnit) : Bool := (KMap.look m.launches u.launch).isSome
  let dist : KMap (List PUnit) := KMap.mapv (fun _ q => q.filter (fun u => !moved u)) s.dist
  let mine (x : Nat) : Bool := !m.foreign && x == m.source
  let pin (p : PinSet) : PinSet := if mine p.ctx then { p with ctx := cn, stream := st p.stream } else p
  let copy (c : L1Copy) : L1Copy := match c.tag with
    | .round t x y => if mine x then { c with tag := .round t cn y } else c
    | .lease _ => c
  let bcast (b : Bcast) : Bcast := if mine b.ctx then { b with ctx := cn } else b
  { s with
    dist := KMap.put dist c.part (((KMap.look dist c.part).getD []) ++ m.units), pins := s.pins.map pin
    ctxs := KMap.put s.ctxs cn (s.ctxHere m c st), streams := streams, launches := launches
    saved := s.saved ++ m.saved.map (Saved.under cn)
    works := if m.works.isEmpty then s.works else KMap.put s.works cn m.works
    poison := s.poison ++ m.marks.map (fun l => workLine cn 0 + l)
    l1 := s.l1.map copy, bcasts := s.bcasts.map bcast, kr := kr }

/-- Whether the images of a package restore here: their objects are loaded, and one with an open gate restores only where
the loaded image's key matches its KEY (12 R299). -/
def State.keysMatch (s : State) (m : Migration) : Bool :=
  m.launches.all (fun l => (s.imageHere m l.2.image).isSome) &&
  m.saved.all (fun x => !x.half.gate.isSome ||
    (match ((KMap.look m.launches x.half.launch).bind (fun l => s.imageHere m l.image)).bind (KMap.look s.images) with
      | some i => KMap.look m.keys x.hid == some (s.imageKey i.hash)
      | none => false))

/-- MIGIN's checks: the new context, or the rule that refuses it. -/
def State.checkIn (s : State) (m : Migration) (part pa : Nat) : Except Nat Ctx :=
  match s.newCtx part pa with
  | .error e => .error e
  | .ok c =>
    if c.streams.length < m.streams.length then .error 416
    else if !(m.ctx.profile.all (fun e => c.profile.get e.1 == e.2)) then .error 412
    else if !s.keysMatch m then .error 299
    else .ok c

/-! ### One command (24 R415) -/

/-- What a running command comes to. -/
inductive CmdAns where
  /-- it has completed -/
  | done (s : State)
  /-- it goes on, and something has happened -/
  | more (s : State)
  /-- it waits -/
  | wait (s : State)

/-- A command that has completed with a status and a result. -/
def doneWith (s : State) (c : PCmd) (status result : Nat) : CmdAns := .done (s.reply c status result)

/-- The contexts that a PREEMPT names. -/
def State.victims (s : State) (c : PCmd) : List Nat := if c.w1.getLsbD 0 then s.ctxsOf c.part else [c.ctx]

/-- CREATE. -/
def State.cmdCreate (s : State) (c : PCmd) : CmdAns :=
  match s.newCtx c.part c.w1.toNat with
  | .error e => doneWith s c 6 e
  | .ok x => match s.addCtx x with
    | none => doneWith s c 6 416
    | some (n, s') => doneWith s' c 0 n

/-- DESTROY: the context halts, and is discarded once it is quiet. -/
def State.cmdDestroy (s : State) (c : PCmd) : CmdAns :=
  let h := s.haltCtx c.ctx
  if !s.names c then doneWith s c 7 0
  else if h.ctxQuiet c.ctx then doneWith ((h.saveCtx c.ctx).destroyCtx c.ctx) c 0 0
  else .wait h

/-- LOAD. -/
def State.cmdLoad (s : State) (c : PCmd) : CmdAns :=
  if !s.names c then doneWith s c 7 0
  else
    let r := s.loadObject c.ctx c.w1.toNat c.w2.toNat
    doneWith r.2 c r.1.1 r.1.2

/-- UNLOAD. -/
def State.cmdUnload (s : State) (c : PCmd) : CmdAns :=
  let r := s.unloadHandle c.ctx c.w1.toNat
  if !s.names c || !r.1 then doneWith s c 7 0 else doneWith r.2 c 0 0

/-- PREEMPT: the contexts halt, and their images are written once all are quiet; those that were halted stay as they are
(24 R417, R420). -/
def State.cmdPreempt (s : State) (c : PCmd) : CmdAns :=
  let v := (s.victims c).filter (fun x => !s.recorded x)
  let h := v.foldl State.haltCtx s
  if !c.w1.getLsbD 0 && !s.names c then doneWith s c 7 0
  else if v.all h.ctxQuiet then doneWith (v.foldl State.saveCtx h) c 0 0
  else .wait h

/-- RESUME. -/
def State.cmdResume (s : State) (c : PCmd) : CmdAns :=
  if !s.names c || !s.isHalted c.ctx then doneWith s c 7 0 else doneWith (s.resumeCtx c.ctx) c 0 0

/-- SPILL. -/
def State.cmdSpill (s : State) (c : PCmd) : CmdAns :=
  if !s.names c || !s.isHalted c.ctx then doneWith s c 7 0 else doneWith (s.spillCtx c.ctx) c 0 0

/-- MIGOUT, once the target has the objects: the context halts, and leaves when it is quiet; on this device it waits for
MIGIN. -/
def State.migHalt (s : State) (c : PCmd) (here : Bool) : CmdAns :=
  let h := s.haltCtx c.ctx
  if !h.ctxQuiet c.ctx then .wait h
  else
    let h := h.saveCtx c.ctx
    match h.packCtx c.ctx c.w1.toNat c.w2.toNat with
    | none => doneWith s c 7 0
    | some m =>
      let h := { h with migLoad := h.migLoad.filter (fun x => !(x.1 == c.part && x.2.1 == c.ctx)) }
      .more (if here then { h with migIn := h.migIn ++ [m] } else { h with migOut := h.migOut ++ [m] })

/-- MIGOUT's request that the target device load the context's objects (23 R411). -/
def State.askLoads (s : State) (c : PCmd) : State :=
  let hashes := (s.imagesOf c.ctx).filterMap (fun k => (KMap.look s.images k).map (fun i => i.hash))
  { s with
    outbox := s.outbox ++ hashes.map (fun h => .load c.w1.toNat c.w2.toNat h)
    migLoad := s.migLoad ++ [(c.part, c.ctx, c.w1.toNat, hashes.isEmpty)] }

/-- MIGOUT: the target loads the objects, which this device has for its own partitions; then the context halts and goes to its
target; a refusal resumes it (24 R421). -/
def State.cmdMigout (s : State) (c : PCmd) : CmdAns :=
  let here := c.w1.toNat == Config.deviceNumber.toNat
  match s.migIn.find? (fun m => !m.foreign && m.origin == c.part && m.source == c.ctx) with
  | some m =>
    let s' := { s with migIn := s.migIn.erase m }
    (match m.answer with
      | none => .wait s
      | some 0 => doneWith s' c 0 0
      | some r => doneWith (s'.resumeCtx c.ctx) c 6 r)
  | none =>
  match s.migOut.find? (fun m => m.origin == c.part && m.source == c.ctx && m.answer.isNone) with
  | some m =>
    let s' (r : Nat) : State := { s with migOut := s.migOut.map (fun x => if x == m then { x with answer := some r } else x) }
    (match Config.migAnswer s.stamp c.ctx with
      | none => .wait s
      | some 0 => doneWith ((s' 0).leaveCtx c.ctx) c 0 0
      | some r => doneWith ((s' r).resumeCtx c.ctx) c 6 r)
  | none =>
    if !s.names c then doneWith s c 7 0
    else if here && (c.w2.toNat == c.part || (KMap.look s.parts c.w2.toNat).isNone) then doneWith s c 6 421
    else if here then s.migHalt c true
    else match s.migLoad.find? (fun x => x.1 == c.part && x.2.1 == c.ctx) with
      | none => .more (s.askLoads c)
      | some x =>
        if x.2.2.2 then s.migHalt c false
        else
          let rest := s.migLoad.filter (fun y => y != x)
          match Config.migLoads s.stamp c.ctx with
          | none => .wait s
          | some 0 => .more { s with migLoad := rest ++ [(x.1, x.2.1, x.2.2.1, true)] }
          | some r => doneWith { s with migLoad := rest } c 6 r

/-- The package that MIGIN's second argument names: bits 11:0 are the context that it was, 14:12 its partition there and 31:16
the device that it leaves (24 R415; log entry 119). -/
def State.packageFor (s : State) (c : PCmd) : Option Migration :=
  s.migIn.find? (fun m => m.part == c.part && m.answer.isNone && m.source == bitsOf c.w2.toNat 11 0 &&
    m.origin == bitsOf c.w2.toNat 14 12 && m.from_ == bitsOf c.w2.toNat 31 16)

/-- A package answered; one from another device is gone with its answer, and so are the images that were kept for it. -/
def State.answerIn (s : State) (m : Migration) (r : Nat) : State :=
  if m.foreign then
    { s with
      migIn := s.migIn.erase m
      migLoad := s.migLoad.filter (fun x => !(x.1 == 8 && ((KMap.look s.images x.2.1).any (fun (i : Image) =>
        m.hashes.any (fun h => h.2 == i.hash))))) }.sweepImages
  else { s with migIn := s.migIn.map (fun x => if x == m then { x with answer := some r } else x) }

/-- MIGIN: the package that it names is taken in, or refused (24 R421). -/
def State.cmdMigin (s : State) (c : PCmd) : CmdAns :=
  match s.packageFor c with
  | none => doneWith s c 6 421
  | some m =>
    match s.checkIn m c.part c.w1.toNat with
    | .error e => doneWith (s.answerIn m e) c 6 e
    | .ok x => match s.addCtx x with
      | none => doneWith (s.answerIn m 416) c 6 416
      | some (n, s') =>
        let t := s'.unpack m n x
        let t := (if m.foreign then t else t.leaveCtx m.source).answerIn m 0
        doneWith ((t.resumeCtx n).fitMere c.part n) c 0 n

/-! ### Migrations from other devices (23 R411, 24 R421) -/

/-- An object that a context of another device is to bring along is loaded, under this device's key. -/
def State.objectLoad (s : State) (i : Image) : State :=
  match s.images.find? (fun x => x.2.hash == i.hash) with
  | some x => { s with migLoad := s.migLoad ++ [(8, x.1, 0, true)] }
  | none =>
    { s with
      nextId := s.nextId + 1
      images := KMap.put s.images s.nextId
        { i with key := s.imageKey i.hash, bundleVa := Config.bundleVa (s.imageKey i.hash) }
      migLoad := s.migLoad ++ [(8, s.nextId, 0, true)] }

/-- Whether a package may arrive: it is for a partition of this device, unanswered, its objects are loaded, and its numbers,
from `base` to below `top`, are new here. -/
def State.mayArrive (s : State) (m : Migration) : Bool :=
  let fresh (x : Nat) : Bool := m.base ≤ x && x < m.top
  m.foreign && m.device == Config.deviceNumber.toNat && (KMap.look s.parts m.part).isSome && m.answer.isNone &&
    m.base == s.nextId && m.launches.all (fun l => fresh l.1 && (s.imageHere m l.2.image).isSome) &&
    m.ctx.handles.all (fun h => (s.imageHere m h.2.1).isSome) &&
    m.saved.all (fun x => fresh x.hid && x.groups.all (fun g => fresh g.1) && x.residue.all (fun r => fresh r.2.id))

/-- A context of another device arrives. -/
def State.package (s : State) (m : Migration) : Option State :=
  if s.mayArrive m then some { s with migIn := s.migIn ++ [m], nextId := max s.nextId m.top } else none

/-- A command of opcode `op`; any other OP is ILLEGAL and does nothing. -/
def State.cmdRun (s : State) (op : Nat) (c : PCmd) : CmdAns :=
  match op with
  | 1 => s.cmdCreate c
  | 2 => s.cmdDestroy c
  | 3 => s.cmdLoad c
  | 4 => s.cmdUnload c
  | 5 => s.cmdPreempt c
  | 6 => s.cmdResume c
  | 7 => s.cmdSpill c
  | 8 => s.cmdMigout c
  | 9 => s.cmdMigin c
  | _ => doneWith s c 7 0

/-- The first entry of a partition's commands. -/
def State.cmdHead (s : State) (part : Nat) : Option (Nat × PCmd) := s.cmdHeld.find? (fun e => e.2.part == part)

/-- A partition's commands run, one after another, until one waits. -/
def State.cmdLoop : Nat → Nat → State → State
  | 0, _, s => s
  | f + 1, part, s =>
    match s.cmdHead part with
    | none => s
    | some e =>
      match s.cmdRun e.1 e.2 with
      | .done s' => State.cmdLoop f part { s' with cmdHeld := s'.cmdHeld.erase e }
      | .more s' => s'
      | .wait s' => s'

/-- The running command of a partition goes on; `none` where it waits, or the window of a firmware update holds all
(27 R448). -/
def State.cmdContinue (s : State) (part : Nat) : Option State :=
  match s.cmdHead part with
  | none => none
  | some e =>
    if s.ibmir.update.isSome then none
    else match s.cmdRun e.1 e.2 with
      | .wait s' => if s'.ctxs == s.ctxs then none else some s'
      | _ => some (s.cmdLoop s.cmdHeld.length part)

/-- A write of word 0 of a command block: the command starts, or is held (24 R415, 27 R448). -/
def State.cmdWrite (s : State) (op : Nat) (c : PCmd) : State :=
  let busy := (s.cmdHead c.part).isSome || s.ibmir.update.isSome
  let s := { s with cmdHeld := s.cmdHeld ++ [(op, c)] }
  if busy then s else s.cmdLoop s.cmdHeld.length c.part

/-- A command as an event. -/
def cmdEvent (op : Nat) (c : PCmd) (s : State) : Res :=
  if 8 ≤ c.part then .fault (.noAgent "partition") else .next (s.cmdWrite op c)

/-- CREATE (24 R416). -/
def execCreate (c : PCmd) (s : State) : Res := cmdEvent 1 c s
/-- DESTROY (24 R416). -/
def execDestroy (c : PCmd) (s : State) : Res := cmdEvent 2 c s
/-- LOAD (23 R409). -/
def execLoad (c : PCmd) (s : State) : Res := cmdEvent 3 c s
/-- UNLOAD (23 R411). -/
def execUnload (c : PCmd) (s : State) : Res := cmdEvent 4 c s
/-- PREEMPT (24 R417). -/
def execPreempt (c : PCmd) (s : State) : Res := cmdEvent 5 c s
/-- RESUME (24 R419). -/
def execResume (c : PCmd) (s : State) : Res := cmdEvent 6 c s
/-- SPILL (24 R418). -/
def execSpill (c : PCmd) (s : State) : Res := cmdEvent 7 c s
/-- MIGOUT (24 R421). -/
def execMigout (c : PCmd) (s : State) : Res := cmdEvent 8 c s
/-- MIGIN (24 R421). -/
def execMigin (c : PCmd) (s : State) : Res := cmdEvent 9 c s

/-- Whether chip time exceeds every SAVETIME that a migrated context waits for. -/
def Ctx.savePassed (c : Ctx) (now : Nat) : Bool := !c.waitSave.isEmpty && c.waitSave.all (fun t => t.toNat < now)

/-- SAVETIME_PASSED: a migrated context's first group may issue (24 R421). -/
def execSavetimePassed (ctx : Nat) (s : State) : Res :=
  match KMap.look s.ctxs ctx with
  | none => .fault (.noAgent "context")
  | some c =>
    if c.savePassed s.chipTime then .next (s.updC ctx (fun c => { c with waitSave := [] }))
    else .fault (.notEnabled "savetime")

end Sys2Proof.Machine
end

