-- ==== Sys2Proof/Machine/Handover.lean ====
section
/-! DEFINITION. Handover.lean: shootdowns (17 R338 to R340), handovers (17 R341), and the CXL link as the device sees it
(25 R423 to R425; 26 R440). -/
namespace Sys2Proof.Machine

/-! ### Shootdowns -/

/-- The context of word 1 of a slot. -/
def shootCtx (what : DWord) : Nat := bitsOf what.toNat 43 32

/-- Whether a range of addresses meets the range of a slot: a length of 0 is the whole space (17 R338). -/
def shootHits (base what : DWord) (lo hi : Nat) : Bool :=
  let b := base.toNat / 65536 * 65536
  let n := bitsOf what.toNat 31 0
  n == 0 || (lo < b + n * 65536 && b < hi)

/-- A translation register whose range meets the slot's loses its LIMIT (01 R22). -/
def Bx.shot (base what : DWord) (b : Bx) : Bx :=
  if b.limit != 0#32 && shootHits base what b.vbase.toNat (b.vbase.toNat + b.limit.toNat) then { b with limit := 0#32 } else b

/-- The value that landing `idx` gives register `key`: what the next write of it finds, or the newest one. -/
def Group.wroteVal (g : Group) (idx key : Nat) : DWord :=
  (((g.landings.drop (idx + 1)).findSome? (fun l => l.olds.find? (fun o => o.1 == key))).map (fun o => o.2)).getD (g.cur key)

/-- The `xlat` at landing `idx`, still in flight, lands with LIMIT 0 where the slot covers its address (04 R91). -/
def Group.cutXlat (base what : DWord) (g : Group) (idx : Nat) : Group :=
  match g.landings[idx]? with
  | none => g
  | some l =>
    match l.olds.find? (fun o => 40000 ≤ o.1 && o.1 < 50000), l.olds.find? (fun o => 20000 ≤ o.1 && o.1 < 30000) with
    | some b, some d =>
      let va := (g.wroteVal idx b.1).toNat
      if shootHits base what va (va + max 1 (g.wroteVal idx d.1).toNat) then
        match slipUnder d.1 0#64 (g.landings.drop (idx + 1)) with
        | some r => { g with landings := g.landings.take (idx + 1) ++ r.2 }
        | none => g.wr d.1 0#64
      else g
    | _, _ => g

/-- Every agent acts on a slot that has started: TLB entries and translations of peers go, registers lose their LIMIT, and
so does an `xlat` in flight (17 R339, 04 R91). -/
def State.shootNow (s : State) (slot : Nat) (base what : DWord) : State :=
  let cn := shootCtx what
  let cut (m : KMap Bx) : KMap Bx := KMap.mapv (fun _ b => b.shot base what) m
  let gids := (s.halves.filter (fun h => h.2.ctx == cn)).flatMap (fun h => s.gidsOf h.1)
  let shot (x : Group) : Group :=
    let x := iterate x.landings.length (fun i x => x.cutXlat base what i) x
    { x with bx := cut x.bx }
  let s := gids.foldl (fun s g => s.updG g shot) s
  let tile (h : Half) : Half :=
    if h.ctx == cn then { h with tile := h.tile.map (fun t => { t with xb := cut t.xb }) } else h
  let what := what &&& ~~~0x0000F00000000000#64
  { s with
    halves := KMap.mapv (fun _ h => tile h) s.halves
    tlb := s.tlb.filter (fun t => !(t.ctx == cn && shootHits base what t.leaf.va (t.leaf.va + t.leaf.size)))
    remTlb := s.remTlb.filter (fun t => t.ctx != cn)
    regs := (s.regs.set (0x2000 + 2 * slot) base).set (0x2001 + 2 * slot) what
    shoot := KMap.put s.shoot slot (base, what) }

/-- Word 0 of a slot as the writes that are held for it leave it. -/
def State.shootBase (s : State) (slot : Nat) : DWord :=
  ((s.shootHeld.reverse.find? (fun h => h.1 == slot)).map (fun h => h.2.1)).getD (s.regs.get (0x2000 + 2 * slot))

/-- A write of word 1 of a slot: a shootdown starts, or is held until the slot's own has completed (17 R338). -/
def State.shootWrite (s : State) (slot : Nat) (base what : DWord) : State :=
  if (KMap.look s.shoot slot).isSome then { s with shootHeld := s.shootHeld ++ [(slot, base, some what)] }
  else s.shootNow slot base what

/-- A write of word 0 of a slot, which is held too while the slot's shootdown has not completed (17 R338). -/
def State.shootWrite0 (s : State) (slot : Nat) (base : DWord) : State :=
  if (KMap.look s.shoot slot).isSome then { s with shootHeld := s.shootHeld ++ [(slot, base, none)] }
  else { s with regs := s.regs.set (0x2000 + 2 * slot) base }

/-- The writes held for a slot whose shootdown has completed, up to one that starts another. -/
def State.shootNext (slot : Nat) : List (Nat × DWord × Option DWord) → State → State
  | [], s => s
  | h :: t, s =>
    if h.1 == slot then
      match h.2.2 with
      | some what => ({ s with shootHeld := s.shootHeld.erase h }).shootNow slot h.2.1 what
      | none => State.shootNext slot t { s with
          shootHeld := s.shootHeld.erase h, regs := s.regs.set (0x2000 + 2 * slot) h.2.1 }
    else State.shootNext slot t s

/-- SHOOTDOWN. -/
def execShootdown (slot : Nat) (base what : DWord) (s : State) : Res :=
  if 16 ≤ slot then .fault (.noAgent "slot") else .next (s.shootWrite slot base what)

/-- Whether every access of a context that has translated has performed (17 R339, step 3). -/
def State.allPerformed (s : State) (cn : Nat) : Bool :=
  !s.remote.any (fun a => a.ctx == cn)

/-- A slot's shootdown ends: its tag in the completion register, the held writes are made. -/
def State.shootEnd (s : State) (slot : Nat) (what : DWord) : State :=
  let s := { s with
    shoot := KMap.del s.shoot slot
    shootDone := KMap.put s.shootDone slot (BitVec.ofNat 64 (bitsOf what.toNat 63 48))
    remTlb := s.remTlb.filter (fun t => t.ctx != shootCtx what) }
  State.shootNext slot s.shootHeld s

/-- SHOOTDOWN_COMPLETE: every agent has acknowledged. -/
def execShootdownComplete (slot : Nat) (s : State) : Res :=
  match KMap.look s.shoot slot with
  | none => .fault (.noAgent "shootdown")
  | some x => if s.allPerformed (shootCtx x.2) then .next (s.shootEnd slot x.2) else .fault (.notEnabled "shootdown")

/-! ### Handovers (17 R341, 22 R390) -/

/-- A write of word 1 of the kick block: the L1 copies of the range go, and the event counts one more. -/
def State.handover (s : State) (base what : DWord) : State :=
  let s := { s with regs := (s.regs.set 0x4000 base).set 0x4001 (what &&& 0x0FFF0FFFFFFFFFFF#64) }
  let cn := bitsOf what.toNat 43 32
  match KMap.look s.ctxs cn with
  | none => s
  | some c =>
    (s.dropRange c (base.toNat / 65536 * 65536) (bitsOf what.toNat 31 0 * 65536)).signal cn (bitsOf what.toNat 59 48)
      (fun v => v + 1#32)

/-- HANDOVER_KICK. -/
def execHandoverKick (base what : DWord) (s : State) : Res := .next (s.handover base what)

/-! ### The CXL link (25 R423 to R425) -/

/-- Whether an HDM decoder holds `n` bytes from `pa`: there is one for each partition, and it covers the partition's HBM share
(25 R423, 24 R413). -/
def State.hdm (s : State) (pa n : Nat) : Bool :=
  1 ≤ n && s.parts.any (fun p => p.2.hbmBase * 2 ^ 30 ≤ pa && pa + n ≤ (p.2.hbmBase + p.2.hbmLen) * 2 ^ 30)

/-- CXL_MEM_READ: the host reads device memory at the line's home, and may hold the line from then on; poison goes to the
host as it stands (26 R438). It waits where the host has been asked for the line (11 R260). -/
def execCxlMemRead (pa n : Nat) (s : State) : Res :=
  if !s.hdm pa n then .fault (.noAgent "device memory")
  else if (linesOf pa n).any (fun l => s.homeBusy (l * 128)) then .fault (.notEnabled "host")
  else
    let new := (linesOf pa n).filter (fun l => Config.hostHolds s.stamp l && !s.hostLines.contains l)
    .next { s with hostLines := s.hostLines ++ new }

/-- CXL_MEM_WRITE: a host write performs at the home slice, after an increment in progress of the counter that it writes (20
R369); the host may go on holding the line. -/
def execCxlMemWrite (pa : Nat) (bytes : List Byte) (s : State) : Res :=
  if !s.hdm pa bytes.length then .fault (.noAgent "device memory")
  else if s.incAt pa bytes.length then .fault (.notEnabled "increment")
  else .next { s.homeWrite none pa bytes with hostLines := s.hostLines }

/-- The host writes poison to device memory: the lines are poisoned (25 R423, 26 R438). -/
def hostPoison (pa n : Nat) (s : State) : Res :=
  if !s.hdm pa n then .fault (.noAgent "device memory") else .next (s.mark (linesOf pa n))

/-- HOST_SNOOP: the LLC answers a snoop of a host line; memory holds every write that has performed (25 R423). -/
def execHostSnoop (pa : Nat) (s : State) : Res :=
  if isDevice pa || isRegSpace pa then .fault (.noAgent "host memory") else .next s

/-- The host, or an I/O agent through it, writes `bytes` to its own memory at `pa`, with the snoop that the write makes
(11 R259; 25 R423, R424). -/
def hostWrite (pa : Nat) (bytes : List Byte) (s : State) : Res :=
  if (List.range bytes.length).any (fun k => isDevice (pa + k) || isRegSpace (pa + k)) then .fault (.noAgent "host memory")
  else .next { s.homeWrite none pa bytes with hostLines := s.hostLines }

/-- HOST_LINK_LOST: fatal to every context (25 R423, 26 R435). -/
def execHostLinkLost (s : State) : Res :=
  .next ((s.ctxs.map (fun c => c.1)).foldl (fun s cn => s.fatal cn 0x33 (fatalRec 0x33 0#64)) s)

/-- The host has answered for a line: it holds it no more, and the accesses that waited there perform in the order of their
arrival; the engines and contexts that wait go on in their own steps (11 R260, 25 R425). -/
def State.backAnswer (s : State) (line : Nat) : State :=
  { s with backInv := s.backInv.erase line, hostLines := s.hostLines.filter (fun l => l != line) }.retryAt line

/-- BACK_INVALIDATION_ANSWER. -/
def execBackInvalidationAnswer (idx : Nat) (s : State) : Res :=
  match s.backInv[idx]? with
  | none => .fault (.noAgent "snoop")
  | some line => .next (s.backAnswer line)

end Sys2Proof.Machine
end

