-- ==== Sys2Proof/Machine/Fabric.lean ====
section
/-! DEFINITION. Fabric.lean: fabric ports (25 R427, R428), the answers to this device's accesses (17 R344, R345; 25 R429), and the
loss of a peer and the handshake (17 R345, R346). -/
namespace Sys2Proof.Machine

/-! ### Ports (25 R427) -/

/-- Port `n` changed. -/
def State.updP (s : State) (n : Nat) (f : Port → Port) : State := { s with ports := KMap.put s.ports n (f (s.port n)) }

/-- A write of a port's words: it retrains. -/
def State.portWrite (s : State) (n : Nat) (w0 w1 : DWord) : State := s.updP n (fun p => { p with training := some (w0, w1) })

/-- PORT_CONFIG; held during the window of a firmware update (27 R448). -/
def execPortConfig (port : Nat) (w0 w1 : DWord) (s : State) : Res :=
  if 8 ≤ port then .fault (.noAgent "port")
  else if s.ibmir.update.isSome then
    let off := 0x60000 + 0x20 * port
    .next { s with ibmir := { s.ibmir with held := s.ibmir.held ++ [.write off w0, .write (off + 8) w1] } }
  else .next (s.portWrite port w0 w1)

/-- The fields of a port after it has retrained; SEQ starts again when Loch mode is set anew (25 R431). -/
def Port.set (p : Port) (w0 w1 : DWord) : Port :=
  let x := w0.toNat
  { p with
    mode := bitsOf x 1 0, pfc := bitOf x 2, off := bitsOf x 15 8, etype := bitsOf x 31 16, shift := bitsOf x 36 32
    mask := loWord w1, training := none, seq := if bitsOf x 1 0 == 2 && p.mode != 2 then 0#64 else p.seq }

/-- PORT_RETRAINED: the written settings take effect. -/
def execPortRetrained (port : Nat) (s : State) : Res :=
  match (s.port port).training with
  | some (w0, w1) => .next (s.updP port (fun p => p.set w0 w1))
  | none => .fault (.notEnabled "port")

/-! ### Answers -/

/-- An answer to a held instruction has come: once all have, the lanes that waited behind them perform, or it is done, or parks
its group on what a peer refused (05 R121, R123; 17 R335). -/
def State.answered (s : State) (gid id : Nat) : State :=
  match s.heldOp gid id with
  | none => s
  | some (g, h, _) =>
    if s.awaits gid id then s
    else if h.lanes &&& ~~~h.lost != 0#64 && !g.behindFault id && !g.fenced id then (s.performHeld gid id 0#64).afterLand gid
    else (s.heldOver gid id).afterLand gid

/-- A lane that a peer refused, or whose data is lost, is unfinished again. -/
def State.laneBack (s : State) (gid id lane : Nat) (r : FaultRec) : State :=
  let upd (x : HeldI) : HeldI :=
    if x.id == id then { x with
      lanes := x.lanes ||| (1#64 <<< lane), lost := x.lost ||| (1#64 <<< lane), bad := lowerBad x.bad (some (lane, r)) }
    else x
  s.updG gid (fun x => { x with held := x.held.map upd })

/-- What a lane's answer writes to registers. -/
def HeldI.answerWrites (h : HeldI) (lane : Nat) (b : List Byte) : Writes :=
  match memOp h.instr with
  | none => []
  | some op =>
    let f := op.f
    match op.kind with
    | .store => []
    | .atomic ret => if ret then wV f.d lane (BitVec.ofNat 32 (leNat b)) else []
    | .cas => if op.size == 4 then wV f.d lane (BitVec.ofNat 32 (leNat b)) else wVPair f.d lane (BitVec.ofNat 64 (leNat b))
    | .ckout => wV f.d lane ((nthD b 0 0#8).setWidth 32)
    | .ckin => wV f.d lane ((nthD b 0 0#8).setWidth 32)
    | _ => loadWrites f.sub.toNat f.d lane (leNat b)

/-- The instruction that a remote access of a group belongs to. -/
def State.heldOf (s : State) (gid id : Nat) : Option (Group × HeldI) :=
  (KMap.look s.groups gid).bind (fun g => (g.held.find? (fun h => h.id == id)).map (fun h => (g, h)))

/-- A working copy of a block, with its poisoned lines (11 R284, 26 R438). -/
def State.putWork (s : State) (cn blk : Nat) (b : List Byte) (bad : List Nat) : State :=
  { s with works := KMap.put s.works cn (KMap.put ((KMap.look s.works cn).getD []) blk (Regs.setSlice [] 0 b)) }.mark
    (bad.map (fun k => workLine cn (blk * 32 + k)))

/-- The block that a check-out or check-in of this device names here (11 R284). -/
def RemAcc.ownBlock (a : RemAcc) : Nat := (if namesBlock a.kind then a.va.toNat else 2 ^ 52 + a.lva) / 4096

/-- A lane's access has performed at the peer: its results arrive, and a checked-out block has its working copy; a block of host
memory that is checked out or in has no leased copy here any more (11 R261, R285; 20 R376). -/
def State.laneDone (s : State) (gid : Nat) (a : RemAcc) (b : List Byte) : State :=
  match s.heldOf gid a.hold with
  | none => s
  | some (_, h) =>
    let blk := a.ownBlock
    let s := if (a.kind == .checkout || a.kind == .hostOut) && nthD b 0 1#8 == 0#8 then
      s.putWork a.ctx blk (sub b 1 4096) ((b.drop 4097).map (fun x => x.toNat)) else s
    let s := if namesBlock a.kind then s.unlease blk else s
    (s.updG gid (fun x => x.arrived a.hold (h.answerWrites a.lane b))).answered gid a.hold

/-- The fault word of a remote access that failed. -/
def RemAcc.failRec (a : RemAcc) (code cause level : Nat) (w2 at_ : DWord) : FaultRec :=
  { transRec code cause level (remoteAcc a.kind) true a.lva at_ 0#64 with w2 := w2 }

/-- The side of a command that a remote access is of: the destination of a write; of `vgmv`'s reads, those of x stand under keys
of their own (10 R256, 16 R324). -/
def Cmd.sideOf (c : Cmd) (key : Nat) : Option Side :=
  if 2 ^ 61 ≤ key then c.sides.2
  else match c with
    | .vgmv _ src x _ => some (if 2 ^ 40 ≤ key && key < 2 ^ 41 then x else src)
    | _ => c.sides.1

/-- A remote access of an engine command failed: the command stops at the element, as at a fault of its own (10 R256,
25 R429). -/
def State.failEnt (s : State) (a : RemAcc) (cause : Nat) : State :=
  match s.entry a.hold with
  | none => s
  | some e =>
    let q := ((s.entryKey e.id).map queueCode).getD 0
    let handle := ((e.cmd.sideOf a.lane).map (fun x => x.handle)).getD 0
    if e.fault.isSome || e.skip != 0 then s
    else s.cmdFault e (engineRec codeCopyFault q cause a.lva (2 ^ 61 ≤ a.lane) handle 0 e.coords e.opindex)

/-- A remote access of an `xfer` failed: it goes back to the byte, and asks for service (22 R383). -/
def State.failXfer (s : State) (a : RemAcc) (r : FaultRec) : State :=
  let n := (a.hold - 2 ^ 41) / 2 ^ 32
  let idx := a.hold % 2 ^ 32
  match s.insOf n idx with
  | none => s
  | some e =>
    let back (w : SWait) : SWait := match w with
      | .xfer src dst len fill sc off gw =>
        .xfer src dst len fill sc (if remoteWrites a.kind then min off (a.lane - dst) else off) gw
      | w => w
    let s' := s.updIns n idx (fun e => { e with wait := back e.wait, fault := true })
    if e.fault then s' else s'.record a.ctx 0 2 n idx (streamPlace n) { r with at_ := e.va }

/-- A remote access of a tile context failed: one that the bundle at `pc` waits for under its key; a store of a bundle that has
issued is a fault of its own (12 R291, 17 R344). -/
def State.failTile (s : State) (a : RemAcc) (r : FaultRec) (code cause : Nat) : State :=
  let hid := a.hold - 2 ^ 40
  if a.stores then s.tileFault hid ⟨1, 0, 0, 0, r, 2⟩ true
  else s.updT hid (fun t => { t with rem := KMap.put t.rem (failKey a.lane) (BitVec.ofNat 64 (code + 256 * cause)) })

/-- A check-in that the peer has refused is not made: the working copy stands again. -/
def State.keepWork (s : State) (a : RemAcc) : State :=
  match a.kind with
  | .checkin b bad => s.putWork a.ctx a.ownBlock b bad
  | .hostIn b bad => s.putWork a.ctx a.ownBlock b bad
  | _ => s

/-- A remote access has failed at the peer, or is lost: its issuer learns of it. -/
def State.failAcc (s : State) (a : RemAcc) (code cause level : Nat) (w2 : DWord) : State :=
  match a.gid with
  | some gid =>
    (match s.heldOf gid a.hold with
      | none => s
      | some (_, h) => (((s.keepWork a).laneBack gid a.hold a.lane (a.failRec code cause level w2 h.pc)).answered gid a.hold))
  | none =>
    if 2 ^ 60 ≤ a.hold then
      s.updG (a.hold - 2 ^ 60) (fun g =>
        { g with rem := KMap.put (KMap.put g.rem (2 ^ 62 + 1) w2) (2 ^ 62) (BitVec.ofNat 64 (code + 256 * cause + 65536 * level)) })
    else if 2 ^ 41 ≤ a.hold then s.failXfer a (a.failRec code cause level w2 0#64)
    else if 2 ^ 40 ≤ a.hold then s.failTile a (a.failRec code cause level w2 0#64) code cause
    else s.failEnt a (if code == 0x13 then 0 else cause)

/-- Poison in an answer reaches its consumer (26 R438). -/
def State.poisonAcc (s : State) (a : RemAcc) : State :=
  match a.gid with
  | some gid => s.groupFatal gid 0x30 (((s.heldOf gid a.hold).map (fun x => x.2.pc)).getD 0#64)
  | none =>
    if 2 ^ 60 ≤ a.hold then
      s.groupFatal (a.hold - 2 ^ 60) 0x30 (((KMap.look s.groups (a.hold - 2 ^ 60)).map (fun g => g.pc)).getD 0#64)
    else if 2 ^ 41 ≤ a.hold then s.fatal a.ctx 0x30 (fatalRec 0x30 0#64) 2 ((a.hold - 2 ^ 41) / 2 ^ 32)
    else if 2 ^ 40 ≤ a.hold then
      -- the bytes that a store is to overwrite are kept for the order of commands, and no one consumes them
      (if oldKey 0 ≤ a.lane && a.lane < failKey 0 then s.failTile a (fatalRec 0x30 0#64) 0x30 0
       else s.fatal a.ctx 0x30 (fatalRec 0x30 0#64) 1 (a.hold - 2 ^ 40) (s.tilePlace (a.hold - 2 ^ 40)))
    else s.failEnt a 5

/-- A remote access has performed: its answer reaches who waits for it; a unit of a command whose writes are all acknowledged is
done (10 R246). -/
def State.goodAcc (s : State) (a : RemAcc) (b : List Byte) : State :=
  let v : DWord := BitVec.ofNat 64 (leNat (b.take 8))
  match a.gid with
  | some gid => s.laneDone gid a b
  | none =>
    if 2 ^ 60 ≤ a.hold then s.updG (a.hold - 2 ^ 60) (fun g => { g with rem := KMap.put g.rem a.lva v })
    else if 2 ^ 41 ≤ a.hold then
      let n := (a.hold - 2 ^ 41) / 2 ^ 32
      if remoteWrites a.kind then s
      else s.updIns n (a.hold % 2 ^ 32) (fun e => { e with buf := KMap.put e.buf a.lane v })
    else if 2 ^ 40 ≤ a.hold then
      (if a.stores then s else s.updT (a.hold - 2 ^ 40) (fun t => { t with rem := KMap.put t.rem a.lane v }))
    else if remoteWrites a.kind then (if s.unacked a.hold then s else s.updEnt a.hold QEnt.acked)
    else s.updEnt a.hold (fun e => { e with buf := KMap.put e.buf a.lane v })

/-- The page that an answer names goes into the remote translation cache (17 R345). -/
def State.learnPage (s : State) (a : RemAcc) (i : PageInfo) : State :=
  match (KMap.look s.ctxs a.ctx).map (fun c => s.walkCtx c a.lva) with
  | some (.ok l) =>
    if !l.rem then s
    else
      let same (t : RemPage) : Bool := t.ctx == a.ctx && t.window == l.frame && t.peer == a.peer && t.info.page == i.page
      { s with remTlb := ⟨a.ctx, l.frame, a.peer, a.gen, i⟩ :: s.remTlb.filter (fun t => !same t) }
  | _ => s

/-- The peer's answer to access `seq`; one that is not awaited in this generation is dropped. What waited for the link to take
one more goes on (17 R346). -/
def State.peerAnswer (s : State) (peer seq gen : Nat) (fault : Option (Nat × Nat)) (b : List Byte) (page : Option PageInfo) :
    State :=
  match s.remote.find? (fun a => a.seq == seq && a.peer == peer && a.gen == gen && (s.peerOf peer).gen.toNat == gen) with
  | none => s
  | some a =>
    let s := { s with remote := s.remote.erase a }
    let s := (page.map (s.learnPage a)).getD s
    let s := match fault with
      | none => s.goodAcc a b
      | some (5, _) => s.poisonAcc a
      | some (c, l) => s.failAcc a 0x10 c l 0#64
    s.retryAt (linkPlace peer)

/-! ### The loss of a peer (17 R345, R346) -/

/-- Word 2 of PEER_LOST: peer, number of stores and atomics reported, lost generation (17 R336). -/
def lostWord (peer count gen : Nat) : DWord := BitVec.ofNat 64 (peer + count * 2 ^ 16 + gen * 2 ^ 32)

/-- A result that no rule gives: that of an atomic which is reported, or of a check-in or an atomic whose result the handshake
does not name (17 R346). -/
def State.anyResult (s : State) (a : RemAcc) : List Byte :=
  match a.kind with
  | .checkin _ _ => [(Config.openWord s.stamp (2 * a.seq)).setWidth 8 &&& 1#8]
  | .hostIn _ _ => [(Config.openWord s.stamp (2 * a.seq)).setWidth 8 &&& 1#8]
  | _ => leBytes 8 (pairWord (Config.openWord s.stamp (2 * a.seq)) (Config.openWord s.stamp (2 * a.seq + 1))).toNat

/-- A report of stores and atomics of one group, the oldest first: PEER_LOST with a mask of zero, for the group's next issue; a
group that has exited leaves it in the fault queue only. -/
def State.reportLost (s : State) (gid cause outcome : Nat) (l : List RemAcc) : State :=
  match KMap.look s.groups gid, l with
  | some g, a :: _ =>
    let pc := ((s.heldOf gid a.hold).map (fun x => x.2.pc)).getD g.pc
    let r0 := a.failRec 0x13 cause 7 (lostWord a.peer l.length a.gen) pc
    let r := { r0 with w0 := r0.w0 ||| BitVec.ofNat 64 (outcome * 2 ^ 23) }
    let lost (s : State) (a : RemAcc) : State :=
      let s := { s with remote := s.remote.erase a }
      match s.heldOf gid a.hold with
      | none => s
      | some (_, h) => (s.updG gid (fun x => x.arrived a.hold (h.answerWrites a.lane (s.anyResult a)))).answered gid a.hold
    let s := l.foldl lost s
    if g.sched == .exited then s.record (s.ctxOf g) 1 0 gid 0 (s.groupPlace g) r
    else s.updG gid (fun x => { x with reports := x.reports ++ [r] })
  | _, _ => l.foldl (fun s a => { s with remote := s.remote.erase a }) s

/-- The unacknowledged writes in `l` end unperformed or unknown: groups get one report each and generation, other agents a
fault. -/
def State.endWrites (s : State) (peer cause outcome : Nat) (l : List RemAcc) : State :=
  let keys := (l.filterMap (fun a => a.gid.map (fun g => (g, a.gen)))).eraseDups
  let s := keys.foldl (fun s k => s.reportLost k.1 cause outcome (l.filter (fun a => a.gid == some k.1 && a.gen == k.2))) s
  (l.filter (fun a => a.gid.isNone)).foldl (fun s a =>
    State.failAcc { s with remote := s.remote.erase a } a 0x13 cause 7 (lostWord peer 1 a.gen)) s

/-- Accesses that wait for data of a lost peer: the data never arrives. -/
def State.endReads (s : State) (peer cause : Nat) : State :=
  (s.remote.filter (fun a => a.peer == peer && !remoteWrites a.kind)).foldl (fun s a =>
    State.failAcc { s with remote := s.remote.erase a } a 0x13 cause 7 (lostWord peer 0 a.gen)) s

/-- The unacknowledged stores and atomics to a peer. -/
def State.writesTo (s : State) (peer : Nat) : List RemAcc := s.remote.filter (fun a => a.peer == peer && remoteWrites a.kind)

/-- A peer's generation advances: translations of the old one, and the peer's accesses that wait here, go before anything is
reported; what waits for data is lost (17 R345, R346). -/
def State.losePeer (s : State) (peer cause : Nat) : State :=
  let p := s.peerOf peer
  let old (x : Nat × FabricMsg) : Bool := match x.2 with
    | .request q _ _ _ _ _ _ => q == peer
    | _ => false
  let s := { s with
    peers := KMap.put s.peers peer { p with gen := p.gen + 1#32, up := false, cause := cause, since := s.chipTime }
    remTlb := s.remTlb.filter (fun t => t.peer != peer)
    asked := s.asked.filter (fun x => !old x), waits := s.waits.filter (fun w => w.2.1 != askedBase + peer) }
  s.endReads peer cause

/-- What this device has kept of the peer's accesses in its old generation goes. -/
def State.forgetPeer (s : State) (peer : Nat) : State :=
  { s with peers := KMap.put s.peers peer { s.peerOf peer with lastSeq := 0, performed := [], wrote := [] } }

/-- LINK_FAILURE: no path remains, or an access has been unacknowledged for 2^26 ticks. -/
def execLinkFailure (peer : Nat) (s : State) : Res :=
  if 4096 ≤ peer then .fault (.noAgent "peer")
  else if !(s.peerOf peer).up then .fault (.notEnabled "peer")
  else .next ((s.losePeer peer 3).retryAt (linkPlace peer))

/-- PEER_RESET: nothing in flight has performed. -/
def execPeerReset (peer : Nat) (down : Bool) (s : State) : Res :=
  if 4096 ≤ peer then .fault (.noAgent "peer")
  else
    let cause := b2n down
    let s := (s.losePeer peer cause).forgetPeer peer
    .next ((s.endWrites peer cause 0 (s.writesTo peer)).retryAt (linkPlace peer))

/-- A peer reached again: this device sends its part of the handshake, and begins anew (17 R346). -/
def State.peerUp (s : State) (peer : Nat) : State :=
  let p := s.peerOf peer
  (({ s with peers := KMap.put s.peers peer { p with up := true } }.send s.chipTime
    (.frame (Config.portOfPeer peer).toNat (.handshake peer p.lastSeq p.performed))).forgetPeer peer).retryAt (linkPlace peer)

/-- The result that a handshake gives a write that has performed. -/
def State.lateResult (s : State) (results : List (Nat × DWord)) (a : RemAcc) : List Byte :=
  match results.find? (fun r => r.1 == a.seq) with
  | some r => leBytes 8 r.2.toNat
  | none => s.anyResult a

/-- The writes of a peer that may not know that they have performed here, each in its context's fault queue (17 R346). -/
def State.listWrites (s : State) (peer : Nat) : State :=
  let p := s.peerOf peer
  let word (va : Nat) : FaultRec :=
    let r := transRec 0x13 3 7 .write false va 0#64 0#64
    { r with w0 := r.w0 ||| BitVec.ofNat 64 (2 ^ 23), w2 := lostWord peer 1 (p.gen - 1#32).toNat }
  (p.wrote.foldl (fun s w => s.record w.1 1 5 0 0 0#64 (word w.2)) s).forgetPeer peer

/-- The reconciliation with a peer whose link has failed comes too late: this device's writes may have performed there, and the
peer's may have here (17 R346). -/
def State.unreconciled (s : State) (peer : Nat) : State := (s.endWrites peer 3 1 (s.writesTo peer)).listWrites peer

/-- LINK_RECONNECT: after a link failure the handshake tells which writes performed: these complete late with their results,
and the others are reported; 2^26 ticks after the failure it is too late for that (17 R346). -/
def execLinkReconnect (peer lastSeq : Nat) (results : List (Nat × DWord)) (s : State) : Res :=
  let p := s.peerOf peer
  if 4096 ≤ peer then .fault (.noAgent "peer")
  else if p.up then .fault (.notEnabled "peer")
  else if 2 ≤ p.cause && p.since + 2 ^ 26 ≤ s.chipTime then .next ((s.unreconciled peer).peerUp peer)
  else
    let l := s.writesTo peer
    let s := (l.filter (fun a => a.seq ≤ lastSeq)).foldl (fun s a =>
      State.goodAcc { s with remote := s.remote.erase a } a (s.lateResult results a)) s
    .next ((s.endWrites peer 2 0 (l.filter (fun a => lastSeq < a.seq))).peerUp peer)

/-- LINK_NOT_RESTORED: 2^26 ticks after its failure a link is still down: its writes may have performed. -/
def execLinkNotRestored (peer : Nat) (s : State) : Res :=
  let p := s.peerOf peer
  if p.up || p.cause < 2 || ((s.writesTo peer).isEmpty && p.wrote.isEmpty) || s.chipTime < p.since + 2 ^ 26 then
    .fault (.notEnabled "link")
  else .next ((s.unreconciled peer).retryAt (linkPlace peer))

/-- FABRIC_FRAME: a frame at a port in fabric mode; at any other it is discarded. -/
def execFabricFrame (port : Nat) (msg : FabricMsg) (s : State) : Res :=
  if 8 ≤ port then .fault (.noAgent "port")
  else if (s.port port).works != some 1 then .next s
  else
    match msg with
    | .request peer seq gen cn va kind via => .next (s.request port peer seq gen cn va.toNat kind via)
    | .answer peer seq gen fault b page => .next (s.peerAnswer peer seq gen fault b page)
    | .handshake peer lastSeq results =>
      if 4096 ≤ peer || (s.peerOf peer).up then .next s else execLinkReconnect peer lastSeq results s

end Sys2Proof.Machine
end

