-- ==== Sys2Proof/Machine/Fp.lean ====
section
/-! DEFINITION. Fp.lean: FP32 arithmetic (04 R92 to R95), packed forms (R96, R97), dot products (R98, R99, 02 R54, R55,
R57), conversion and packing (R100 to R102), and the special functions (R103, R104). -/
namespace Sys2Proof.Machine

/-- An FP32 form of one to three sources. -/
def fpR (i : Instr) (f : RFmt) (s : State) (op : FEnv → FV → FV → FV → Nat × Word) : Res :=
  laneOp i f.hd s (fun g st j =>
    let v := g.env f
    wRes g f.d j (op v (fltSrc v fp32 f.ma (g.rv st f.a j).toNat) (fltSrc v fp32 f.mb (g.rv st f.b j).toNat)
      (fltSrc v fp32 f.mc (g.rv st f.c j).toNat)))

/-- FADD. -/
def execFadd (f : RFmt) (s : State) : Res := fpR (.fadd f) f s (fun v a b _ => fAdd v fp32 a b)
/-- FSUB. -/
def execFsub (f : RFmt) (s : State) : Res := fpR (.fsub f) f s (fun v a b _ => fAdd v fp32 a b.neg)
/-- FMUL. -/
def execFmul (f : RFmt) (s : State) : Res := fpR (.fmul f) f s (fun v a b _ => fMul v fp32 a b)
/-- FMA. -/
def execFma (f : RFmt) (s : State) : Res := fpR (.fma f) f s (fun v a b c => fFma v fp32 a b c)

/-- A minimum or maximum of packed or single elements of format `ff` (04 R93). -/
def minMaxR (i : Instr) (f : RFmt) (s : State) (ff : FFmt) (max : Bool) : Res :=
  laneOp i f.hd s (fun g st j =>
    let w := ff.width
    let a := elemsOf w (g.rv st f.a j)
    let b := elemsOf w (g.rv st f.b j)
    wRes g f.d j (packRes w ((List.range (32 / w)).map (fun k =>
      fMinMax (g.env f) ff max (fltMods ff f.ma.1 f.ma.2 (nthD a k 0)) (fltMods ff f.mb.1 f.mb.2 (nthD b k 0))))))

/-- FMIN. -/
def execFmin (f : RFmt) (s : State) : Res := minMaxR (.fmin f) f s fp32 false
/-- FMAX. -/
def execFmax (f : RFmt) (s : State) : Res := minMaxR (.fmax f) f s fp32 true
/-- FSET. -/
def execFset (f : RFmt) (s : State) : Res :=
  laneOp (.fset f) f.hd s (fun g st j =>
    let v := g.env f
    wPred g f.d j (fCompare f.sub.toNat (fltSrc v fp32 f.ma (g.rv st f.a j).toNat)
      (fltSrc v fp32 f.mb (g.rv st f.b j).toNat)))
/-- FRND. -/
def execFrnd (f : RFmt) (s : State) : Res := fpR (.frnd f) f s (fun v a _ _ => fRound v fp32 a)
/-- FCLASS. -/
def execFclass (f : RFmt) (s : State) : Res :=
  laneOp (.fclass f) f.hd s (fun g st j => wV f.d j (BitVec.ofNat 32 (fClass (g.rv st f.a j).toNat)))

/-- A packed floating-point form of format `ff` (02 R53). -/
def packR2 (i : Instr) (f : RFmt) (s : State) (ff : FFmt) (op : FEnv → FFmt → FV → FV → FV → Nat × Word) : Res :=
  laneOp i f.hd s (fun g st j =>
    let v := g.env f
    let w := ff.width
    let src (m : Bool × Bool) (r : BitVec 8) (k : Nat) := fltSrc v ff m (elem (g.rv st r j).toNat w k)
    wRes g f.d j (packRes w ((List.range (32 / w)).map (fun k =>
      op v ff (src f.ma f.a k) (src f.mb f.b k) (src f.mc f.c k)))))

/-- The 16-bit format of SUB (04 R96). -/
def fmt16 (f : RFmt) : FFmt := if f.sub == 0#4 then fp16 else bf16
/-- The 8-bit floating-point format of SUB (04 R97). -/
def fmt8 (f : RFmt) : FFmt := if f.sub == 0#4 then e4m3 else e5m2

/-- HADD2. -/
def execHadd2 (f : RFmt) (s : State) : Res := packR2 (.hadd2 f) f s (fmt16 f) (fun v ff a b _ => fAdd v ff a b)
/-- HMUL2. -/
def execHmul2 (f : RFmt) (s : State) : Res := packR2 (.hmul2 f) f s (fmt16 f) (fun v ff a b _ => fMul v ff a b)
/-- HFMA2. -/
def execHfma2 (f : RFmt) (s : State) : Res := packR2 (.hfma2 f) f s (fmt16 f) fFma
/-- HMIN2. -/
def execHmin2 (f : RFmt) (s : State) : Res := minMaxR (.hmin2 f) f s (fmt16 f) false
/-- HMAX2. -/
def execHmax2 (f : RFmt) (s : State) : Res := minMaxR (.hmax2 f) f s (fmt16 f) true

/-- A packed 8-bit integer form, s8 or n8 (04 R97). -/
def packI4 (i : Instr) (f : RFmt) (s : State) (op : Int → Int → Int) : Res :=
  laneOp i f.hd s (fun g st j =>
    let sg := f.sub == 2#4
    let src (m : Bool × Bool) (r : BitVec 8) (k : Nat) :=
      intMods 8 sg m.1 m.2 (intVal 8 sg (elem (g.rv st r j).toNat 8 k))
    wV f.d j (BitVec.ofNat 32 (packElems 8 ((List.range 4).map (fun k =>
      deliverInt 8 sg f.cl.toNat (op (src f.ma f.a k) (src f.mb f.b k)))))))

/-- PADD4. -/
def execPadd4 (f : RFmt) (s : State) : Res :=
  if f.sub.toNat < 2 then packR2 (.padd4 f) f s (fmt8 f) (fun v ff a b _ => fAdd v ff a b)
  else packI4 (.padd4 f) f s (fun a b => a + b)
/-- PMUL4. -/
def execPmul4 (f : RFmt) (s : State) : Res :=
  if f.sub.toNat < 2 then packR2 (.pmul4 f) f s (fmt8 f) (fun v ff a b _ => fMul v ff a b)
  else packI4 (.pmul4 f) f s (fun a b => a * b)
/-- PMAX4. -/
def execPmax4 (f : RFmt) (s : State) : Res :=
  if f.sub.toNat < 2 then minMaxR (.pmax4 f) f s (fmt8 f) true
  else packI4 (.pmax4 f) f s (fun a b => if a < b then b else a)

/-- A floating-point dot product of elements of format `ff` added to an FP32 accumulator, the products scaled by `2^k`
(02 R55, R57); `bad` says that a scale byte is 0xFF. -/
def fltDot (v : FEnv) (ff : FFmt) (a b : List Nat) (acc : FV) (k : Int) (bad : Bool) : Nat × Word :=
  let av := a.map (decodeF ff false)
  let bv := b.map (decodeF ff false)
  let ops := av ++ bv ++ [acc]
  if bad then deliver v fp32 (.nan ops true)
  else deliver v fp32 (dotFV v.rm ((av.map (FV.scale k)).zip bv) [acc] ops)

/-- DOT4 and DOT8 with floating-point elements (04 R98). -/
def dotF (i : Instr) (f : RFmt) (s : State) (ff : FFmt) : Res :=
  laneOp i f.hd s (fun g st j =>
    let v := g.env f
    let els (m : Bool × Bool) (r : BitVec 8) := (elemsOf ff.width (g.rv st r j)).map (fltMods ff m.1 m.2)
    wRes g f.d j (fltDot v ff (els f.ma f.a) (els f.mb f.b) (fltSrc v fp32 f.mc (g.rv st f.c j).toNat) 0 false))

/-- DOT4 and DOT8 with integer elements of `b` bits (04 R98): the exact sum with C, as an s32. -/
def dotI (i : Instr) (f : RFmt) (s : State) (b : Nat) (sg : Bool) : Res :=
  laneOp i f.hd s (fun g st j =>
    let els (m : Bool × Bool) (r : BitVec 8) : List Int :=
      (elemsOf b (g.rv st r j)).map (fun x => intMods b sg m.1 m.2 (intVal b sg x))
    let p : Int := ((els f.ma f.a).zip (els f.mb f.b)).foldl (fun t e => t + e.1 * e.2) 0
    wV f.d j (intRes true f.cl.toNat (intSrc true f.mc (g.rv st f.c j) + p)))

/-- DOT4. -/
def execDot4 (f : RFmt) (s : State) : Res :=
  if f.sub.toNat < 2 then dotF (.dot4 f) f s (fmt8 f) else dotI (.dot4 f) f s 8 (f.sub == 2#4)
/-- DOT8. -/
def execDot8 (f : RFmt) (s : State) : Res :=
  if f.sub == 0#4 then dotF (.dot8 f) f s e2m1 else dotI (.dot8 f) f s 4 (f.sub == 1#4)

/-- DOT4S and DOT8S: the scale bytes come from lane b(j) of register C, zero where it is absent (02 R54). -/
def dotS (i : Instr) (f : RFmt) (s : State) (ff : FFmt) (blk : Nat) : Res :=
  laneOp i f.hd s (fun g st j =>
    let v := g.env f
    let b := j / blk * blk
    let sel := f.sub.toNat / 4
    let w := if g.live.getLsbD b then (g.rv st f.c b).toNat else 0
    let sa := elem w 8 sel
    let sb := elem w 8 (sel ^^^ 1)
    let els (m : Bool × Bool) (r : BitVec 8) := (elemsOf ff.width (g.rv st r j)).map (fltMods ff m.1 m.2)
    wRes g f.d j (fltDot v ff (els f.ma f.a) (els f.mb f.b) (fltSrc v fp32 (false, false) (g.rv st f.d j).toNat)
      (scaleExp sa + scaleExp sb) (sa == 255 || sb == 255)))

/-- DOT4S. -/
def execDot4s (f : RFmt) (s : State) : Res :=
  dotS (.dot4s f) f s (if f.sub.getLsbD 0 then e5m2 else e4m3) 8
/-- DOT8S. -/
def execDot8s (f : RFmt) (s : State) : Res := dotS (.dot8s f) f s e2m1 4

/-- The settings of a conversion: RO and SC of the word, `.sat` (04 R100). -/
def Group.cvtEnv (g : Group) (f : RFmt) (sat : Bool) : FEnv :=
  { (envOf g.fm).withMods f.fs.toNat f.sc.toInt 0 with sat := sat }

/-- CVT: one element converted into one element of D. -/
def execCvt (f : RFmt) (s : State) : Res :=
  laneOp (.cvt f) f.hd s (fun g st j =>
    let dst := f.c.toNat / 16
    let src := f.c.toNat % 16
    let x := elem (g.rv st f.a j).toNat (elemBits src) f.sub.toNat
    let r := convert (g.cvtEnv f (f.b.getLsbD 0)) dst src f.ma.1 f.ma.2 x
    wRes g f.d j (setElem (g.rv st f.d j).toNat (elemBits dst) (f.b.toNat / 2 % 8) r.1, r.2))

/-- CVTP: several elements of B:A converted. -/
def execCvtp (f : RFmt) (s : State) : Res :=
  laneOp (.cvtp f) f.hd s (fun g st j =>
    let dst := f.c.toNat / 16
    let src := f.c.toNat % 16
    let sb := elemBits src
    let db := elemBits dst
    let n := min (32 / db) (64 / sb)
    let x := (pairWord (g.rv st f.b j) (g.rv st f.a j)).toNat
    let v := g.cvtEnv f (f.sub.getLsbD 0)
    let r := (List.range n).map (fun k =>
      let m := if k * sb < 32 then f.ma else f.mb
      convert v dst src m.1 m.2 (elem x sb k))
    let d := (List.range n).foldl (fun d k => setElem d db k (nthD r k (0, 0#32)).1) (g.rv st f.d j).toNat
    wRes g f.d j (d, r.foldl (fun a e => a ||| e.2) 0#32))

/-- The element width of `pack` and `unpack` (04 R102). -/
def packWidth (f : RFmt) : Nat := match f.sub.toNat with | 0 => 16 | 1 => 8 | _ => 4

/-- PACK. -/
def execPack (f : RFmt) (s : State) : Res :=
  laneOp (.pack f) f.hd s (fun g st j =>
    let e := packWidth f
    let ev (r : BitVec 8) := (List.range (16 / e)).map (fun k => elem (g.rv st r j).toNat e (2 * k))
    wV f.d j (BitVec.ofNat 32 (packElems e (ev f.a ++ ev f.b))))
/-- UNPACK. -/
def execUnpack (f : RFmt) (s : State) : Res :=
  laneOp (.unpack f) f.hd s (fun g st j =>
    let e := packWidth f
    wVPair f.d j (BitVec.ofNat 64 (packElems (2 * e) (elemsOf e (g.rv st f.a j)))))

/-- A special function (04 R103). -/
def sfR (i : Instr) (f : RFmt) (s : State) (k : Nat) : Res :=
  laneOp i f.hd s (fun g st j =>
    let v := g.env f
    wRes g f.d j (specialFn k v (fltSrc v fp32 f.ma (g.rv st f.a j).toNat)))

/-- RCP. -/
def execRcp (f : RFmt) (s : State) : Res := sfR (.rcp f) f s 0
/-- RSQ. -/
def execRsq (f : RFmt) (s : State) : Res := sfR (.rsq f) f s 1
/-- SQRT. -/
def execSqrt (f : RFmt) (s : State) : Res := sfR (.sqrt f) f s 2
/-- EX2. -/
def execEx2 (f : RFmt) (s : State) : Res := sfR (.ex2 f) f s 3
/-- LG2. -/
def execLg2 (f : RFmt) (s : State) : Res := sfR (.lg2 f) f s 4
/-- SIN. -/
def execSin (f : RFmt) (s : State) : Res := sfR (.sin f) f s 5
/-- COS. -/
def execCos (f : RFmt) (s : State) : Res := sfR (.cos f) f s 6
/-- TANH. -/
def execTanh (f : RFmt) (s : State) : Res := sfR (.tanh f) f s 7

end Sys2Proof.Machine
end

