-- ==== Sys2Proof/Machine/Kv.lean ====
section
/-! DEFINITION. Kv.lean: Tarn (18 R348 to R360): its structures, allocation and pins, the seven
`kv…` instructions, and requantisation. An operation is a function that either answers the machine after all its changes or
the reason why nothing changes. -/
namespace Sys2Proof.Machine

/-- A Tarn unit at work, with its configuration. -/
structure Kv extends Home where
  t : TarnCfg
  deriving DecidableEq, Repr

/-! ### Writes at the home -/

/-- Bytes written at their home. -/
def Kv.write (k : Kv) (va : Nat) (b : List Byte) : Except HomeErr Kv := do
  let h ← k.toHome.write va b
  pure { k with toHome := h }

/-- A structure's number written. -/
def Kv.put (k : Kv) (va n x : Nat) : Except HomeErr Kv := k.write va (leBytes n x)

/-- The lines of a range marked as poisoned. -/
def Kv.mark (k : Kv) (va n : Nat) : Kv := { k with toHome := k.toHome.mark va n }

/-- Pool bytes copied. -/
def Kv.copyPool (k : Kv) (src dst n : Nat) : Except HomeErr Kv := do
  let h ← k.toHome.copyPool src dst n
  pure { k with toHome := h }

/-! ### Structures (18 R350, R351) -/

/-- A sequence entry. -/
structure KSeq where
  v : Bool
  nblk : Nat
  nextpos : Nat
  nrows : Nat
  live : Nat
  deriving DecidableEq, Repr

/-- A page descriptor. -/
structure KDesc where
  frame : Nat
  enc : Nat
  refcnt : Nat
  fill : Nat
  gen : Nat
  deriving DecidableEq, Repr

/-- The marker of a released block. -/
def hole : Nat := 0xFFFFFFFF

/-- The entry of sequence `q` as it stands. -/
def Kv.seq (k : Kv) (q : Nat) : Except HomeErr KSeq := do
  let a ← k.num (k.t.seqbase + 16 * q) 8
  let b ← k.num (k.t.seqbase + 16 * q + 8) 8
  pure ⟨bitOf a 0, bitsOf a 31 8, bitsOf a 63 32, bitsOf b 31 0, bitsOf b 63 32⟩

/-- The entry of sequence `q` written. -/
def Kv.putSeq (k : Kv) (q : Nat) (e : KSeq) : Except HomeErr Kv := do
  let k ← k.put (k.t.seqbase + 16 * q) 8 (b2n e.v + e.nblk * 2 ^ 8 + e.nextpos * 2 ^ 32)
  k.put (k.t.seqbase + 16 * q + 8) 8 (e.nrows + e.live * 2 ^ 32)

/-- The entry that an operation names (18 R354). -/
def Kv.named (k : Kv) (q : Nat) : Except HomeErr KSeq :=
  if k.t.nseq ≤ q then .error (.ill 6)
  else do
    let e ← k.seq q
    if e.v then pure e else .error (.ill 7)

/-- The fields of a descriptor's two words. -/
def descOf (a b : Nat) : KDesc := ⟨bitsOf a 19 0, b2n (bitOf a 20), bitsOf a 47 32, bitsOf a 54 48, bitsOf b 31 0⟩

/-- Descriptor `d`. -/
def Kv.desc (k : Kv) (d : Nat) : Except HomeErr KDesc := do
  let a ← k.num (k.t.descbase + 16 * d) 8
  let b ← k.num (k.t.descbase + 16 * d + 8) 8
  pure (descOf a b)

/-- Descriptor `d` written. -/
def Kv.putDesc (k : Kv) (d : Nat) (x : KDesc) : Except HomeErr Kv := do
  let k ← k.put (k.t.descbase + 16 * d) 8 (x.frame + x.enc * 2 ^ 20 + x.refcnt * 2 ^ 32 + x.fill * 2 ^ 48)
  k.put (k.t.descbase + 16 * d + 8) 8 x.gen

/-- Descriptor `d` as Tarn's allocation state knows it. -/
def Kv.peek (k : Kv) (d : Nat) : KDesc :=
  match k.raw (k.t.descbase + 16 * d) 16 with
  | .ok b => descOf (leNat (b.take 8)) (leNat (b.drop 8))
  | .error _ => ⟨0, 0, 0, 0, 0⟩

/-- An operation that allocates reads the count of every descriptor: one that cannot be read, or is poisoned, ends it
(18 R349, R352; log entry 118). -/
def Kv.scan (k : Kv) : Except HomeErr Unit :=
  (List.range k.t.npage).foldlM (fun _ d => do
    let _ ← k.desc d
    pure ()) ()

/-- The address of entry `j` of the block list of `q`. -/
def Kv.blkVa (k : Kv) (q j : Nat) : Nat := k.t.blkbase + 4 * (q * k.t.maxblk + j)

/-- Entry `j` of a block list; an index that no descriptor has is a hole. -/
def Kv.blk (k : Kv) (q j : Nat) : Except HomeErr Nat := do
  let x ← k.num (k.blkVa q j) 4
  pure (if k.t.npage ≤ x then hole else x)

/-- The first `n` entries of a block list. -/
def Kv.blks (k : Kv) (q n : Nat) : Except HomeErr (List Nat) := (List.range n).mapM (fun j => k.blk q j)

/-- The address of row word `r` of descriptor `d`. -/
def Kv.rowVa (k : Kv) (d r : Nat) : Nat := k.t.rowbase + 4 * (d * k.t.rows + r)

/-- The address of the bitmap of `q`. -/
def Kv.bitVa (k : Kv) (q : Nat) : Nat := k.t.retbase + q * k.t.maxblk * k.t.rows / 8

/-- Bits 0 to `n - 1` of the bitmap of `q` as a number. -/
def Kv.bits (k : Kv) (q n : Nat) : Except HomeErr Nat := do
  let x ← k.num (k.bitVa q) ((n + 7) / 8)
  pure (x % 2 ^ n)

/-- Bits 0 to `n - 1` of the bitmap of `q` written; the others of the last byte stay. -/
def Kv.putBits (k : Kv) (q n x : Nat) : Except HomeErr Kv := do
  let old ← if n % 8 == 0 then pure 0 else k.num (k.bitVa q + n / 8) 1
  k.put (k.bitVa q) ((n + 7) / 8) (old * 2 ^ (8 * (n / 8)) / 2 ^ n * 2 ^ n + x % 2 ^ n)

/-- Bit `r` of the bitmap of `q` written; no other byte is touched. -/
def Kv.putBit (k : Kv) (q r : Nat) (v : Bool) : Except HomeErr Kv := do
  let old ← k.num (k.bitVa q + r / 8) 1
  k.put (k.bitVa q + r / 8) 1 (old - b2n (bitOf old (r % 8)) * 2 ^ (r % 8) + b2n v * 2 ^ (r % 8))

/-! ### Allocation (18 R352, R353) -/

/-- The free descriptors, lowest first. -/
def Kv.freeDescs (k : Kv) : List Nat := (List.range k.t.npage).filter (fun d => (k.peek d).refcnt == 0)

/-- The free frames of an encoding, lowest first. -/
def Kv.freeFrames (k : Kv) (enc : Nat) : List Nat :=
  let used := ((List.range k.t.npage).map k.peek).filter (fun d => d.refcnt != 0 && d.enc == enc)
  let c := (KMap.look k.s.ctxs k.cn).getD k.c
  (List.range (if enc == 0 then k.t.nframe0 else k.t.nframe1)).filter (fun f =>
    !(enc == 0 && f == k.t.nullframe) && !used.any (fun d => d.frame == f) &&
      !c.requant.any (fun r => r.enc == enc && r.frame == f) && !c.pins.any (fun p => p.enc == enc && p.frame == f))

/-- A new descriptor with a new frame of `enc`; KV_FULL where there is none. -/
def Kv.alloc (k : Kv) (enc fill : Nat) (q : DWord) : Except HomeErr (Kv × Nat × KDesc) :=
  match k.freeDescs, k.freeFrames enc with
  | [], _ => .error (.full 0 q)
  | _, [] => .error (.full 1 q)
  | d :: _, f :: _ => do
    k.scan
    let x : KDesc := ⟨f, enc, 1, fill, 0⟩
    let k ← k.putDesc d x
    pure (k, d, x)

/-- A freed descriptor: a requantisation of it under way will find that it was freed (18 R360). -/
def Kv.freed (k : Kv) (d : Nat) : Kv :=
  { k with s := k.s.updC k.cn (fun c => { c with
    requant := c.requant.map (fun r => if r.desc == d then { r with refcnt := 0 } else r) }) }

/-- One sequence less holds descriptor `d`; a count of 0 stays (18 R349). -/
def Kv.dropDesc (k : Kv) (d : Nat) : Except HomeErr Kv :=
  if d == hole then pure k
  else do
    let x ← k.desc d
    let k ← k.putDesc d { x with refcnt := x.refcnt - 1 }
    pure (if x.refcnt == 1 then k.freed d else k)

/-- V of sequence entry `i`. -/
def Kv.validAt (k : Kv) (i : Nat) : Except HomeErr Bool := do
  let x ← k.num (k.t.seqbase + 16 * i) 1
  pure (bitOf x 0)

/-- The lowest-numbered sequence entry that is not valid, from `i` on. -/
def Kv.freeFrom (k : Kv) (q : DWord) : Nat → Nat → Except HomeErr Nat
  | 0, _ => .error (.full 2 q)
  | n + 1, i => do
    if (← k.validAt i) then k.freeFrom q n (i + 1) else pure i

/-- The lowest-numbered sequence entry that is not valid. -/
def Kv.freeSeq (k : Kv) (q : DWord) : Except HomeErr Nat := k.freeFrom q k.t.nseq 0

/-- Bytes of a key row or a value row in an encoding (18 R348). -/
def TarnCfg.rowLen (t : TarnCfg) (enc : Nat) : Nat := t.elem * (if enc == 0 then 2 else 1)
/-- The address of key row `r` of a frame. -/
def TarnCfg.keyVa (t : TarnCfg) (enc f r : Nat) : Nat :=
  (if enc == 0 then t.kbase0 else t.kbase1) + (f * t.rows + r) * t.rowLen enc
/-- The address of value row `r` of a frame. -/
def TarnCfg.valVa (t : TarnCfg) (enc f r : Nat) : Nat :=
  (if enc == 0 then t.vbase0 else t.vbase1) + (f * t.rows + r) * t.rowLen enc
/-- The address of the key scales of row `r` of an FP8 frame. -/
def TarnCfg.keyScale (t : TarnCfg) (f r : Nat) : Nat := t.skbase1 + (f * t.rows + r) * (t.elem / 32)
/-- The address of the value scales of row `r` of an FP8 frame. -/
def TarnCfg.valScale (t : TarnCfg) (f r : Nat) : Nat := t.svbase1 + (f * t.rows + r) * (t.elem / 32)

/-- Key, value and scale bytes of row `a` of frame `f` copied to row `b` of frame `f'`. -/
def Kv.copyRow (k : Kv) (enc f a f' b : Nat) : Except HomeErr Kv := do
  let k ← k.copyPool (k.t.keyVa enc f a) (k.t.keyVa enc f' b) (k.t.rowLen enc)
  let k ← k.copyPool (k.t.valVa enc f a) (k.t.valVa enc f' b) (k.t.rowLen enc)
  if enc == 0 then pure k
  else do
    let k ← k.copyPool (k.t.keyScale f a) (k.t.keyScale f' b) (k.t.elem / 32)
    k.copyPool (k.t.valScale f a) (k.t.valScale f' b) (k.t.elem / 32)

/-! ### The operations (18 R355 to R359) -/

/-- `kvnew` (18 R355): the new sequence. -/
def Kv.new (k : Kv) : Except HomeErr (Kv × Nat) := do
  let q ← k.freeSeq (BitVec.allOnes 64)
  let k ← k.putSeq q ⟨true, 0, 0, 0, 0⟩
  pure (k, q)

/-- `kvfork` (18 R355). -/
def Kv.fork (k : Kv) (q : Nat) : Except HomeErr (Kv × Nat) := do
  let e ← k.named q
  let bs ← k.blks q e.nblk
  let n ← k.freeSeq (BitVec.ofNat 64 q)
  let live := bs.filter (fun d => d != hole)
  let full ← live.mapM (fun d => do
    let x ← k.desc d
    pure (decide (65535 < x.refcnt + bs.count d)))
  if full.any id then .error (.full 5 (BitVec.ofNat 64 q))
  else do
    let bits ← k.bits q e.nrows
    let k ← k.putSeq n e
    let k ← (List.range e.nblk).foldlM (fun (k : Kv) j => do
      let x ← k.num (k.blkVa q j) 4
      k.put (k.blkVa n j) 4 x) k
    let k ← k.putBits n e.nrows bits
    let k ← live.foldlM (fun (k : Kv) d => do
      let x ← k.desc d
      k.putDesc d { x with refcnt := x.refcnt + 1 }) k
    pure (k, n)

/-- `kvfree` (18 R355). -/
def Kv.free (k : Kv) (q : Nat) : Except HomeErr Kv := do
  let e ← k.named q
  let bs ← k.blks q e.nblk
  let k ← bs.foldlM (fun (k : Kv) d => k.dropDesc d) k
  k.putSeq q { e with v := false }

/-- `kvapp` (18 R356): the word of the slot, and the row's position. -/
def Kv.app (k : Kv) (q tag : Nat) : Except HomeErr (Kv × Nat × Nat) := do
  let e ← k.named q
  let qd : DWord := BitVec.ofNat 64 q
  let opens := e.nrows % k.t.rows == 0
  let d0 ← if opens then pure hole else k.blk q (e.nblk - 1)
  if !opens && d0 == hole then .error (.ill 6)
  else do
    let x0 ← if opens then pure (⟨0, k.t.defenc, 0, 0, 0⟩ : KDesc) else k.desc d0
    let fresh := opens || 1 < x0.refcnt
    if fresh then k.scan else pure ()
    if fresh && k.freeDescs.isEmpty then .error (.full 0 qd)
    else if fresh && (k.freeFrames x0.enc).isEmpty then .error (.full 1 qd)
    else if opens && k.t.maxblk ≤ e.nblk then .error (.full 3 qd)
    else if 2 ^ 29 ≤ e.nextpos then .error (.full 4 qd)
    else do
      let (k, d, x) ←
        if opens then do
          let (k, d, x) ← k.alloc k.t.defenc 0 qd
          let k ← k.put (k.blkVa q e.nblk) 4 d
          pure (k, d, x)
        else if fresh then do
          let (k, d, x) ← k.alloc x0.enc x0.fill qd
          let k ← (List.range x0.fill).foldlM (fun (k : Kv) r => do
            let k ← k.copyRow x0.enc x0.frame r x.frame r
            let w ← k.num (k.rowVa d0 r) 4
            k.put (k.rowVa d r) 4 w) k
          let k ← k.dropDesc d0
          let k ← k.put (k.blkVa q (e.nblk - 1)) 4 d
          pure (k, d, x)
        else pure (k, d0, x0)
      let k ← k.put (k.rowVa d x.fill) 4 (tag % 8 * 2 ^ 29 + e.nextpos)
      let k ← k.putBit q e.nrows false
      let k ← k.putDesc d { x with fill := x.fill + 1 }
      let k ← k.putSeq q ⟨true, if opens then e.nblk + 1 else e.nblk, e.nextpos + 1, e.nrows + 1, e.live + 1⟩
      pure (k, x.enc * 2 ^ 26 + x.fill * 2 ^ 20 + x.frame, e.nextpos)

/-- `kvret` (18 R357): the rows retired. -/
def Kv.ret (k : Kv) (q tag : Nat) : Except HomeErr (Kv × Nat) := do
  let e ← k.named q
  let bs ← k.blks q e.nblk
  let bits ← k.bits q e.nrows
  let dead ← (List.range e.nrows).foldlM (fun (acc : List Nat) r => do
    let d := nthD bs (r / k.t.rows) hole
    if bitOf bits r || d == hole then pure acc
    else do
      let w ← k.num (k.rowVa d (r % k.t.rows)) 4
      pure (if w / 2 ^ 29 == tag then acc ++ [r] else acc)) []
  let bits := dead.foldl (fun b r => b + 2 ^ r) bits
  let k ← dead.foldlM (fun (k : Kv) r => k.putBit q r true) k
  let k ← k.putSeq q { e with live := e.live - dead.length }
  let k ← (List.range bs.length).foldlM (fun (k : Kv) j => do
    let d := nthD bs j hole
    if d == hole || !(List.range k.t.rows).all (fun r => bitOf bits (j * k.t.rows + r)) then pure k
    else do
      let x ← k.desc d
      if j + 1 == bs.length && x.fill < k.t.rows then pure k
      else do
        let k ← k.put (k.blkVa q j) 4 hole
        k.dropDesc d) k
  pure (k, dead.length)

/-- The pages of `kvcpt`: their encoding and rows, as descriptors and slots (18 R358). -/
def cptPages (rows : Nat) (l : List (Nat × Nat × Nat)) : List (Nat × List (Nat × Nat)) :=
  (l.foldl (fun (acc : List (Nat × List (Nat × Nat))) e =>
    match acc with
    | [] => [(e.1, [(e.2.1, e.2.2)])]
    | p :: t =>
      if p.1 == e.1 && p.2.length < rows then (p.1, p.2 ++ [(e.2.1, e.2.2)]) :: t
      else (e.1, [(e.2.1, e.2.2)]) :: p :: t) []).reverse

/-- The live rows of a sequence in logical order: the encoding of their page, its descriptor, and the slot. -/
def Kv.liveRows (k : Kv) (q : Nat) (e : KSeq) (bs : List Nat) : Except HomeErr (List (Nat × Nat × Nat)) := do
  let bits ← k.bits q e.nrows
  (List.range e.nrows).foldlM (fun (acc : List (Nat × Nat × Nat)) r => do
    let d := nthD bs (r / k.t.rows) hole
    if bitOf bits r || d == hole then pure acc
    else do
      let x ← k.desc d
      pure (acc ++ [(x.enc, d, r % k.t.rows)])) []

/-- `kvcpt` (18 R358): the new number of blocks. -/
def Kv.cpt (k : Kv) (q : Nat) : Except HomeErr (Kv × Nat) := do
  let e ← k.named q
  let qd : DWord := BitVec.ofNat 64 q
  let bs ← k.blks q e.nblk
  let rows ← k.liveRows q e bs
  let pages := cptPages k.t.rows rows
  let need (enc : Nat) : Nat := pages.countP (fun p => p.1 == enc)
  if pages.isEmpty then pure () else k.scan
  if k.freeDescs.length < pages.length then .error (.full 0 qd)
  else if (k.freeFrames 0).length < need 0 || (k.freeFrames 1).length < need 1 then .error (.full 1 qd)
  else do
    let (k, new) ← pages.foldlM (fun (a : Kv × List Nat) p => do
      let (k, d, x) ← a.1.alloc p.1 p.2.length qd
      let k ← (List.range p.2.length).foldlM (fun (k : Kv) i => do
        let o := nthD p.2 i (0, 0)
        let y ← k.desc o.1
        let k ← k.copyRow p.1 y.frame o.2 x.frame i
        let w ← k.num (k.rowVa o.1 o.2) 4
        k.put (k.rowVa d i) 4 w) k
      pure (k, a.2 ++ [d])) (k, [])
    let k ← bs.foldlM (fun (k : Kv) d => k.dropDesc d) k
    let k ← (List.range new.length).foldlM (fun (k : Kv) j => k.put (k.blkVa q j) 4 (nthD new j 0)) k
    let fills := pages.map (fun p => p.2.length)
    let nb := pages.length
    let nr := if nb == 0 then 0 else (nb - 1) * k.t.rows + nthD fills (nb - 1) 0
    let gaps := (List.range (nb - 1)).flatMap (fun j =>
      ((List.range k.t.rows).filter (fun r => nthD fills j 0 ≤ r)).map (fun r => j * k.t.rows + r))
    let k ← k.putBits q nr (gaps.foldl (fun b r => b + 2 ^ r) 0)
    let k ← k.putSeq q { e with nblk := nb, nrows := nr }
    pure (k, nb)

/-- What `kvmap` gives for block `j`: the frame with its encoding, and ENC with GEN; `none` beyond the list, and the null
frame for a hole (18 R359). -/
def Kv.mapBlk (k : Kv) (q : Nat) (e : KSeq) (j : Nat) : Except HomeErr (Option (Option (Nat × Nat) × Nat)) :=
  if e.nblk ≤ j then pure none
  else do
    let d ← k.blk q j
    if d == hole then pure (some (none, 0))
    else do
      let x ← k.desc d
      pure (some (some (x.enc, x.frame), x.enc * 2 ^ 31 + x.gen % 2 ^ 31))

/-- What `kvmap.pos` gives for logical row `r`. -/
def Kv.mapPos (k : Kv) (q : Nat) (e : KSeq) (r : Nat) : Except HomeErr Nat :=
  if e.nrows ≤ r then pure 0xFFFFFFFF
  else do
    let d ← k.blk q (r / k.t.rows)
    let b ← k.num (k.bitVa q + r / 8) 1
    if d == hole || bitOf b (r % 8) then pure 0xFFFFFFFF
    else do
      let w ← k.num (k.rowVa d (r % k.t.rows)) 4
      pure (w % 2 ^ 29)

/-- `kvmap`: the registers it writes and the frames it returns, in the lanes given (18 R359). -/
def Kv.map (k : Kv) (sub : Nat) (d : BitVec 8) (q first : Nat) (en : List Nat) :
    Except HomeErr (Writes × List (Nat × Nat)) := do
  let e ← k.named q
  en.foldlM (fun (a : Writes × List (Nat × Nat)) i => do
    if sub == 1 then
      let p ← k.mapPos q e (first + i)
      pure (a.1 ++ wV d i (BitVec.ofNat 32 p), a.2)
    else
      let m ← k.mapBlk q e (first + i)
      let frame : Nat := match m with
        | none => 0xFFFFFFFF
        | some (none, _) => k.t.nullframe
        | some (some f, _) => f.2
      let gen : Nat := match m with
        | none => 0xFFFFFFFF
        | some x => x.2
      let pins := match m with
        | some (some f, _) => if sub == 2 then [] else [f]
        | _ => []
      let w := if sub == 2 then wV d i (BitVec.ofNat 32 gen)
        else wV d i (BitVec.ofNat 32 frame) ++ (if sub == 3 then wV (d + 1#8) i (BitVec.ofNat 32 gen) else [])
      pure (a.1 ++ w, a.2 ++ pins)) ([], [])

/-! ### The instructions -/

/-- KV_FULL (26 R435). -/
def codeKvFull : Nat := 0x0B

/-- The checks of a Tarn instruction: those of the form, and those that its context's configuration and its sequence come
before (18 R354). -/
def kvLate (c : Nat) : Bool := c == 1 || c == 6

/-- A Tarn instruction: it acts as `fence.dev`, then the operation performs whole, and its results are counted on `wc3` until
the writes are visible at device scope; `seq` is the sequence it names (18 R354). -/
def kvOp (i : Instr) (f : YFmt) (s : State) (seq : Option (Group → Nat))
    (body : Nat → Group → Kv → Except HomeErr (Kv × Writes)) : Res :=
  laneIf (fun n => (i.check n).filter (fun c => !kvLate c)) i f.hd s (fun gid g s =>
    let cn := s.ctxOf g
    match (KMap.look s.ctxs cn).bind (fun c => c.tarn.map (fun t => (c, t))) with
    | none => illegal i g 7
    | some (c, t) =>
      if s.memStalls g 0 0 [] || !s.fenceDone gid g 6 none || g.wc.get 3 == 255#8 then
        .gone (s.blockG gid f.hd .issue)
      else
        let k : Kv := ⟨⟨s, cn, c, s.chipTime⟩, t⟩
        let trap (r : FaultRec) : Ans :=
          .gone ((s.acquireAt (s.coreOf g) 6).takeTrap gid r (i.ignoreWrites g (g.enabled s.stamp f.hd)))
        let done : Except HomeErr (Kv × Writes) := do
          match seq with
          | some q =>
            let _ ← k.named (q g)
            pure ()
          | none => pure ()
          match i.check g.n with
          | some x => .error (.ill x)
          | none => body gid g k
        match done with
        | .error (.ill x) => trap (illegalRec x (encode i) g.pc)
        | .error (.full x q) => trap (trapRec codeKvFull x q 0#64 0#64 g.pc)
        | .error (.trans va w x l) =>
          .gone (s.parkFault gid (transRec 0x10 x l (if w then .write else .read) false va g.pc g.em))
        | .error .poison => .gone (s.groupFatal gid 0x30 g.pc)
        | .error (.wait pa n w) => .gone ((if w then s.snoop pa n else s).blockG gid f.hd .issue)
        | .ok (k, w) =>
          let land (x : Group) : Group :=
            let y := { x with recent := [] }.issue (some 3) w
            { y with landings := (y.landings.dropLast) ++ (y.landings.getLast?.toList.map (fun l => { l with due := k.due })) }
          .ok ((k.s.acquireAt (s.coreOf g) 6).updG gid land) [])

/-- The sequence that an operation names in gA. -/
def kvSeq (f : YFmt) (s : State) : Option (Group → Nat) := some (fun g => (g.rg s.stamp f.a).toNat)

/-- KVNEW. -/
def execKvnew (f : YFmt) (s : State) : Res :=
  kvOp (.kvnew f) f s none (fun _ _ k => do
    let r ← k.new
    pure (r.1, wG f.d (BitVec.ofNat 32 r.2)))

/-- KVFORK. -/
def execKvfork (f : YFmt) (s : State) : Res :=
  kvOp (.kvfork f) f s (kvSeq f s) (fun _ g k => do
    let r ← k.fork (g.rg k.s.stamp f.a).toNat
    pure (r.1, wG f.d (BitVec.ofNat 32 r.2)))

/-- KVAPP. -/
def execKvapp (f : YFmt) (s : State) : Res :=
  kvOp (.kvapp f) f s (kvSeq f s) (fun _ g k => do
    let r ← k.app (g.rg k.s.stamp f.a).toNat f.imm.toNat
    pure (r.1, wG f.d (BitVec.ofNat 32 r.2.1) ++ wG (f.d + 1#8) (BitVec.ofNat 32 r.2.2)))

/-- The frames a `kvmap` returns pinned, and the group's earlier pins released (18 R353). -/
def State.pinFrames (s : State) (cn gid : Nat) (l : List (Nat × Nat)) : State :=
  let s := s.releasePins cn gid
  s.updC cn (fun c => { c with pins := c.pins ++ l.eraseDups.map (fun f => ⟨f.1, f.2, gid, s.nextId, false, []⟩) })

/-- KVMAP. -/
def execKvmap (f : YFmt) (s : State) : Res :=
  kvOp (.kvmap f) f s (kvSeq f s) (fun gid g k => do
    let st := k.s.stamp
    let r ← k.map f.sub.toNat f.d (g.rg st f.a).toNat (g.rg st f.b).toNat (g.enabled st f.hd)
    pure ({ k with s := k.s.pinFrames k.cn gid r.2 }, r.1))

/-- KVRET. -/
def execKvret (f : YFmt) (s : State) : Res :=
  kvOp (.kvret f) f s (kvSeq f s) (fun _ g k => do
    let r ← k.ret (g.rg k.s.stamp f.a).toNat f.imm.toNat
    pure (r.1, wG f.d (BitVec.ofNat 32 r.2)))

/-- KVFREE. -/
def execKvfree (f : YFmt) (s : State) : Res :=
  kvOp (.kvfree f) f s (kvSeq f s) (fun _ g k => do
    let r ← k.free (g.rg k.s.stamp f.a).toNat
    pure (r, []))

/-- KVCPT. -/
def execKvcpt (f : YFmt) (s : State) : Res :=
  kvOp (.kvcpt f) f s (kvSeq f s) (fun _ g k => do
    let r ← k.cpt (g.rg k.s.stamp f.a).toNat
    pure (r.1, wG f.d (BitVec.ofNat 32 r.2)))

/-! ### Requantisation (18 R360) -/

/-- One more request dropped. -/
def State.requantDrop (s : State) (cn : Nat) : State :=
  { s with requantStatus := KMap.put s.requantStatus cn (((KMap.look s.requantStatus cn).getD 0#64) + 1#64) }

/-- A requantised element of an FP8 row: element times 2^(e − 127), rounded to BF16 to nearest-even. -/
def fromFp8 (e x : Nat) : Nat :=
  let a := if e == 255 then FV.nan false true 0x400000 else (decodeF (fmtOf 3) false x).scale ((e : Int) - 127)
  (deliver (envOf 0#32) (fmtOf 2) (match a with
    | .nan _ _ _ => .nan [a] false
    | .inf s => .inf s
    | .num s m k => if m = 0 then .zero s else .num s m k)).1

/-- A row of bytes converted from FP8 with its scale bytes. -/
def rowFromFp8 (b scales : List Byte) : List Byte :=
  (List.range b.length).flatMap (fun i => leBytes 2 (fromFp8 (nthD scales (i / 32) 0#8).toNat (nthD b i 0#8).toNat))

/-- A BF16 row as FP8 bytes and scale bytes (02 R56). -/
def rowToFp8 (b : List Byte) : List Byte × List Byte :=
  let el (i : Nat) : Nat := leNat (sub b (2 * i) 2)
  let n := b.length / 2
  let e (j : Nat) : Nat := blockScale 3 2 ((List.range 32).map (fun i => el (32 * j + i)))
  ((List.range n).map (fun i => BitVec.ofNat 8 (convMode 0#32 2 3 2 (e (i / 32)) (el i))),
    (List.range (n / 32)).map (fun j => BitVec.ofNat 8 (e j)))

/-- A row converted between frames; poison of the source marks the destination (26 R438). -/
def Kv.convRow (k : Kv) (enc src srcScale dst dstScale : Nat) : Except HomeErr Kv := do
  let n := k.t.elem
  if enc == 1 then
    let b ← k.raw src (2 * n)
    let r := rowToFp8 b
    let k' ← k.write dst r.1
    let k' ← k'.write dstScale r.2
    pure (if k.bad src (2 * n) then (k'.mark dst n).mark dstScale (n / 32) else k')
  else
    let b ← k.raw src n
    let sc ← k.raw srcScale (n / 32)
    let k' ← k.write dst (rowFromFp8 b sc)
    pure (if k.bad src n || k.bad srcScale (n / 32) then k'.mark dst (2 * n) else k')

/-- A request checked, and the new frame written: `none` where it is dropped. -/
def Kv.requant (k : Kv) (d enc : Nat) : Except HomeErr (Option (Kv × Requant)) :=
  if k.t.npage ≤ d then pure none
  else do
    let x ← k.desc d
    if x.refcnt == 0 || x.fill != k.t.rows || x.enc == enc then pure none
    else do
      k.scan
      match k.freeFrames enc with
      | [] => pure none
      | f :: _ => do
        let t := k.t
        let k ← (List.range t.rows).foldlM (fun (k : Kv) r => do
          let k ← k.convRow enc (t.keyVa x.enc x.frame r) (t.keyScale x.frame r) (t.keyVa enc f r) (t.keyScale f r)
          k.convRow enc (t.valVa x.enc x.frame r) (t.valScale x.frame r) (t.valVa enc f r) (t.valScale f r)) k
        pure (some (k, ⟨d, enc, f, x.gen, x.refcnt, x.enc, x.frame⟩))

/-- A request that met a fault: counted, and reported as a notice (18 R349). -/
def State.requantFault (s : State) (cn : Nat) (e : HomeErr) : State :=
  let r : FaultRec := match e with
    | .trans va w c l => transRec 0x10 c l (if w then .write else .read) false va 0#64 0#64
    | _ => trapRec 0x30 0 0#64 0#64 0#64 0#64
  (s.requantDrop cn).record cn 1 4 0 0 0#64 r

/-- A kick word acts: it is dropped, its request is under way, or it waits behind those that wait (18 R360). -/
def State.requantKick (s : State) (cn : Nat) (c : Ctx) (t : TarnCfg) (w : Nat) : Except (Nat × Nat) State :=
  match (⟨⟨s, cn, c, s.chipTime⟩, t⟩ : Kv).requant (bitsOf w 19 0) (b2n (bitOf w 20)) with
  | .error (.wait pa n _) => .error (pa, n)
  | .error e => .ok (s.requantFault cn e)
  | .ok none => .ok (s.requantDrop cn)
  | .ok (some (k, r)) => .ok (k.s.updC cn (fun c => { c with requant := c.requant ++ [r] }))

/-- REQUANTISATION_KICK (18 R360): a write of a context's kick word. -/
def execRequantisationKick (cn : Nat) (word : DWord) (s : State) : Res :=
  match KMap.look s.ctxs cn with
  | none => .fault (.noAgent "context")
  | some c =>
    match c.tarn with
    | none => .next (s.requantDrop cn)
    | some t =>
      if word.extractLsb' 21 43 != 0#43 || c.killed then .next (s.requantDrop cn)
      else
        let later (s : State) : State := s.updC cn (fun c => { c with kicks := c.kicks ++ [word] })
        if !c.kicks.isEmpty then .next (later s)
        else
          match s.requantKick cn c t word.toNat with
          | .ok s' => .next s'
          | .error (pa, n) => .next (later (s.snoop pa n))

/-- The oldest requantisation of a context swaps its frame in, or is abandoned (18 R360); place and length where it waits at
its home. -/
def State.requantSwap (s : State) (cn : Nat) (c : Ctx) (t : TarnCfg) (r : Requant) (rest : List Requant) :
    Except (Nat × Nat) State :=
  let done (s : State) : State := s.updC cn (fun c => { c with requant := rest })
  let k : Kv := ⟨⟨s, cn, c, s.chipTime⟩, t⟩
  match k.desc r.desc with
  | .error (.wait pa n _) => .error (pa, n)
  | .error e => .ok ((done s).requantFault cn e)
  | .ok x =>
    if x.gen != r.gen || x.refcnt != r.refcnt || x.refcnt == 0 || x.frame != r.oldFrame || x.enc != r.oldEnc ||
        (c.halted && Config.requantDropped s.stamp) then .ok (done s)
    else
      match k.putDesc r.desc { x with frame := r.frame, enc := r.enc, gen := (x.gen + 1) % 2 ^ 32 } with
      | .error (.wait pa n _) => .error (pa, n)
      | .error e => .ok ((done s).requantFault cn e)
      | .ok k => .ok (done k.s)

/-- REQUANT_SWAP (18 R360): the oldest requantisation of a context swaps its frame in, or is abandoned; one of a halted
context may be abandoned as well (24 R420). With none under way the oldest kick that waits goes on. -/
def execRequantSwap (cn : Nat) (s : State) : Res :=
  match KMap.look s.ctxs cn with
  | none => .fault (.noAgent "context")
  | some c =>
    let r := match c.requant, c.kicks, c.tarn with
      | r :: rest, _, some t => some (s.requantSwap cn c t r rest)
      | [], w :: ws, some t =>
        let s' := s.updC cn (fun c => { c with kicks := ws })
        some (s'.requantKick cn { c with kicks := ws } t w.toNat)
      | _, _, _ => none
    match r with
    | some (.ok s') => .next s'
    | some (.error (pa, n)) =>
      if s.hostHas pa n && !s.homeBusy pa then .next (s.snoop pa n) else .fault (.notEnabled "requantisation")
    | none => .fault (.notEnabled "requantisation")

end Sys2Proof.Machine
end

