-- ==== Sys2Proof/Machine/Loch.lean ====
section
/-! DEFINITION. Loch.lean: Loch ingest (25 R430 to R434): matching, ring entries, and the binding of queues to barrier
objects. -/
namespace Sys2Proof.Machine

/-- Loch queue `n`. -/
def State.lochQ (s : State) (n : Nat) : Loch := (KMap.look s.loch n).getD Loch.reset

/-- Loch queue `n` changed. -/
def State.updLoch (s : State) (n : Nat) (f : Loch → Loch) : State := { s with loch := KMap.put s.loch n (f (s.lochQ n)) }

/-- The stream id of a frame: bytes OFF to OFF + 3, big-endian, masked and shifted; bytes beyond its end read as zero
(25 R430). -/
def Port.streamId (p : Port) (b : List Byte) : Nat :=
  let f : Word := BitVec.ofNat 32 ((List.range 4).foldl (fun a i => a * 256 + (nthD b (p.off + i) 0#8).toNat) 0)
  ((f &&& p.mask) >>> p.shift).toNat % 4096

/-- Whether a frame is one of IEEE 1588, which goes to Ibmir only (25 R427). -/
def isPtp (b : List Byte) : Bool := nthD b 12 0#8 == 0x88#8 && nthD b 13 0#8 == 0xF7#8

/-- Whether an entry is a frame's, and no fence. -/
def QEnt.frame (e : QEnt) : Bool :=
  match e.cmd with
  | .loch _ _ _ _ _ _ => true
  | _ => false

/-- Whether a ring has a slot left, the frames on their way counted (25 R433). -/
def Loch.room (q : Loch) : Bool := (q.tail - q.head).toNat + q.entries.countP QEnt.frame < q.nslot

/-- A matched frame delivered: an entry on its way into the ring, or an overflow; TIME rises from frame to frame of a port, as
SEQ does (25 R431, R433). -/
def State.deliverFrame (s : State) (port n sid : Nat) (b : List Byte) : State :=
  let q := s.lochQ n
  let seq := (s.port port).seq
  let time := max s.chipTime ((s.port port).last + 1)
  let s := s.updP port (fun p => { p with seq := p.seq + 1#64, last := time })
  if !q.room then s.updLoch n (fun q => { q with overflow := q.overflow + 1#32 })
  else
    let e : QEnt := ⟨s.nextId, q.ctx, 0, .group 0, 0#32, .loch port (BitVec.ofNat 64 time) seq sid b 0, none, s.time64, 0, none, 0, 0, false, 0, [],
      0, 0, 0#32, 0⟩
    { s with nextId := s.nextId + 1 }.updLoch n (fun q => { q with entries := q.entries ++ [e] })

/-- LOCH_FRAME: a frame with a good FCS at a port in Loch mode. -/
def execLochFrame (port : Nat) (bytes : List Byte) (s : State) : Res :=
  if 8 ≤ port then .fault (.noAgent "port")
  else
    let p := s.port port
    if p.works != some 2 || isPtp bytes then .next s
    else
      let sid := p.streamId bytes
      let e := p.table.get sid
      if !e.getLsbD 31 then .next (s.updP port (fun p => { p with unmatched := p.unmatched + 1#32 }))
      else .next (s.deliverFrame port (16 * port + e.toNat % 16) sid bytes)

/-- The bytes of an entry (25 R433) in a slot of `2^slotlog` bytes, and whether the frame is cut. -/
def entryBytes (port : Nat) (time seq : DWord) (sid slotlog : Nat) (b : List Byte) : List Byte × Bool :=
  let room := 2 ^ slotlog - 64
  let cut := room < b.length
  (leBytes 8 time.toNat ++ leBytes 8 seq.toNat ++ leBytes 2 b.length ++ leBytes 2 sid ++
    leBytes 4 (b2n cut + port * 2) ++ List.replicate 40 0#8 ++ b.take room, cut)

/-- The entry at the head of a queue is gone. -/
def Loch.pop (q : Loch) : Loch := { q with entries := q.entries.drop 1 }

/-- A ring entry that is visible: TAIL rises, and a bound queue has one more to credit (25 R433, R434). -/
def State.lochDone (s : State) (n : Nat) (cut : Bool) : State :=
  (s.updLoch n (fun q => { q.pop with
    tail := q.tail + 1#64, trunc := if cut then q.trunc + 1#32 else q.trunc
    held := if q.bind.isSome then q.held + 1 else q.held })).lochCredit

/-- An entry lost to a translation fault: counted, and reported to the queue's context (25 R432, 26 R442). -/
def State.lochLost (s : State) (n cn : Nat) (e : HomeErr) : State :=
  let s := s.updLoch n (fun q => { q.pop with faults := q.faults + 1#32 })
  match e with
  | .trans va _ c l => s.record cn 1 3 n 0 0#64 (transRec 0x10 c l .write false va 0#64 0#64)
  | _ => s

/-- Whether a frame that the port has delivered before entry `e` is still on its way into its ring (25 R431). -/
def State.lochBefore (s : State) (port : Nat) (e : QEnt) : Bool :=
  s.loch.any (fun q => q.2.entries.any (fun x => x.id < e.id && (match x.cmd with
    | .loch p _ _ _ _ _ => p == port
    | _ => false)))

/-- Whether a context has been killed, so that nothing of it goes on (26 R440). -/
def State.isKilled (s : State) (cn : Nat) : Bool := (KMap.look s.ctxs cn).any (fun c => c.killed)

/-- The entry at the head of queue `n` is written, after the frames before it, then completes when chip time has reached its
completion time; that of a killed context is discarded (25 R431, R433; 26 R440); `none` where nothing can happen. -/
def State.lochStep (s : State) (n : Nat) : Option State :=
  let q := s.lochQ n
  match q.entries with
  | [] => none
  | e :: rest =>
    match e.cmd with
    | .loch port time seq sid b _ =>
      let bs := entryBytes port time seq sid q.slotlog b
      if s.isKilled q.ctx then some (s.updLoch n Loch.pop)
      else if s.lochBefore port e then none
      else if e.done == 1 then (if e.gw ≤ s.chipTime then some (s.lochDone n bs.2) else none)
      else
        (match s.homeOf q.ctx with
          | none => some (s.lochLost n q.ctx (.trans 0 true 0 7))
          | some k =>
            match k.write (q.base.toNat + q.tail.toNat % q.nslot * 2 ^ q.slotlog) bs.1 with
            | .error (.wait pa m _) => if (s.snoop pa m).backInv == s.backInv then none else some (s.snoop pa m)
            | .error er => some (s.lochLost n q.ctx er)
            | .ok k' =>
              if k'.due ≤ s.chipTime then some (k'.s.lochDone n bs.2)
              else some (k'.s.updLoch n (fun q => { q with entries := { e with done := 1, gw := k'.due } :: rest })))
    | _ => none

/-- LOCH_ENTRY_COMPLETE. -/
def execLochEntryComplete (queue : Nat) (s : State) : Res :=
  match s.lochStep queue with
  | some s' => .next s'
  | none => .fault (.notEnabled "entry")

/-! ### Bindings (25 R434) -/

/-- Whether a queue is bound to another team than that of `h`. -/
def State.boundElsewhere (s : State) (q : Loch) (h : Half) : Bool :=
  match q.bind.bind (fun b => KMap.look s.halves b.1) with
  | some x => !(x.launch == h.launch && x.team == h.team)
  | none => s.saved.any (fun x => (q.bind.map (fun b => b.1)) == some x.hid)

/-- A group's store to BIND: the queue is bound to the barrier object at a local offset; one that the rule does not allow is
ignored. -/
def State.bindLoch (s : State) (gid n : Nat) (w : DWord) : State :=
  match (KMap.look s.groups gid).bind (fun g => KMap.look s.halves g.hid) with
  | none => s
  | some h =>
    let q := s.lochQ n
    let hid := ((KMap.look s.groups gid).map (fun g => g.hid)).getD 0
    if q.ctx != h.ctx || s.boundElsewhere q h then s
    else match s.objPlace hid (loWord w) with
      | none => s
      | some p =>
        (s.updLoch n (fun q => { q with
          bind := some (p.hid, p.off), bindWord := w, held := (q.tail - q.head).toNat })).lochCredit

/-- A group's store of all ones to BIND: the queue is unbound. -/
def State.unbindLoch (s : State) (gid n : Nat) : State :=
  match (KMap.look s.groups gid).bind (fun g => KMap.look s.halves g.hid) with
  | none => s
  | some h =>
    let q := s.lochQ n
    if q.ctx != h.ctx || s.boundElsewhere q h then s
    else s.updLoch n (fun q => { q with bind := none, bindWord := BitVec.allOnes 64, held := 0 })

/-- BIND. -/
def execBind (gid queue : Nat) (offset : DWord) (s : State) : Res :=
  if 128 ≤ queue || (KMap.look s.groups gid).isNone then .fault (.noAgent "queue") else .next (s.bindLoch gid queue offset)

/-- UNBIND. -/
def execUnbind (gid queue : Nat) (s : State) : Res :=
  if 128 ≤ queue || (KMap.look s.groups gid).isNone then .fault (.noAgent "queue") else .next (s.unbindLoch gid queue)

end Sys2Proof.Machine
end

