-- ==== Sys2Proof/Machine/Trouble.lean ====
section
/-! DEFINITION. Trouble.lean: uncorrectable and correctable errors (26 R437). -/
namespace Sys2Proof.Machine

/-- A fatal fault of the device itself. -/
def State.deviceFatal (s : State) (cn code : Nat) : State := s.fatal cn code (fatalRec code 0#64)

/-- An uncorrectable error where it strikes. -/
def State.strike (s : State) (x : ErrSite) : Option State :=
  match x with
  | .line pa =>
    if isRegSpace pa then none
    else some (s.mark [pa / 128])
  | .localWord hid tob w =>
    match KMap.look s.halves hid with
    | none => none
    | some h =>
      if 1024 * (if tob then h.tobBanks else h.spadBanks) ≤ w then none
      else some (s.updH hid (fun h =>
        let h := { h with cover := KMap.del h.cover ((if tob then 2 ^ 40 else 0) + w) }
        if tob then { h with tobPoison := w :: h.tobPoison.filter (fun x => x != w) }
        else { h with spadPoison := w :: h.spadPoison.filter (fun x => x != w) }))
  | .ctxState cn => (KMap.look s.ctxs cn).map (fun _ => s.deviceFatal cn 0x31)
  | .shared part => some ((s.ctxsOf part).foldl (fun s cn => s.deviceFatal cn 0x32) s)

/-- UNCORRECTABLE_ERROR. -/
def execUncorrectableError (site : ErrSite) (s : State) : Res :=
  match s.strike site with
  | some s' => .next s'
  | none => .fault (.noAgent "site")

/-- The place of an array kind in the telemetry block (27 R451). -/
def arrayIndex (k : ArrayKind) : Nat :=
  match k with
  | .registers => 0
  | .localMemory => 1
  | .l1 => 2
  | .llc => 3
  | .hbm => 4
  | .mere => 5
  | .tarn => 6

/-- CORRECTABLE_ERROR: corrected in place, and counted. -/
def execCorrectableError (kind : ArrayKind) (s : State) : Res :=
  let i := arrayIndex kind
  .next { s with ibmir := { s.ibmir with errors := s.ibmir.errors.set i (s.ibmir.errors.get i + 1#64) } }

/-! ### The debugger (05 R117, 06 R167, 09 R219) -/

/-- DEBUGGER_ATTACH: a debugger attaches to a context, or detaches. -/
def execDebuggerAttach (ctx : Nat) (on : Bool) (s : State) : Res :=
  let rest := s.attached.filter (fun x => x != ctx)
  if (KMap.look s.ctxs ctx).isNone then .fault (.noAgent "context")
  else .next { s with attached := if on then ctx :: rest else rest }

/-- DEBUGGER_STOP: a group stops at an instruction boundary, a tile context between bundles. -/
def execDebuggerStop (target : DebugTarget) (s : State) : Res :=
  match target with
  | .group gid =>
    (match KMap.look s.groups gid with
      | none => .fault (.noAgent "group")
      | some g =>
        if !s.attached.contains (s.ctxOf g) || g.sched == .exited then .fault (.notEnabled "debugger")
        else .next (s.updG gid (fun g => { g with stopped := true })))
  | .tile hid =>
    (match KMap.look s.halves hid with
      | none => .fault (.noAgent "tile context")
      | some h =>
        if !s.attached.contains h.ctx || h.tile.isNone || h.tileFree then .fault (.notEnabled "debugger")
        else .next (s.updT hid (fun t => { t with stopped := true })))

/-- A stopped group goes on: after a BREAKPOINT at the next instruction, for one instruction where it is stepped. -/
def Group.resume (g : Group) (single : Bool) : Group :=
  let g := { g with stopped := false, single := single }
  match g.fault with
  | some r => if r.code == 7 then { g with pc := g.pc + 8#64, fault := none } else g
  | none => g

/-- DEBUGGER_RESUME. -/
def execDebuggerResume (target : DebugTarget) (single : Bool) (s : State) : Res :=
  match target with
  | .group gid =>
    (match KMap.look s.groups gid with
      | none => .fault (.noAgent "group")
      | some g => if !g.stopped then .fault (.notEnabled "debugger") else .next (s.updG gid (fun g => g.resume single)))
  | .tile hid =>
    (match s.tileOf hid with
      | none => .fault (.noAgent "tile context")
      | some t =>
        if !t.stopped then .fault (.notEnabled "debugger")
        else .next (s.updT hid (fun t => { t with stopped := false, single := single })))

end Sys2Proof.Machine
end

