-- ==== Sys2Proof/Machine/Service.lean ====
section
/-! DEFINITION. Service.lean: Ibmir's services (27): bring-up, chip time (00 R3), attestation, firmware update, power and
telemetry. -/
namespace Sys2Proof.Machine

/-- Ibmir changed. -/
def State.updI (s : State) (f : Ibmir → Ibmir) : State := { s with ibmir := f s.ibmir }

/-- A mailbox request's completion word: tag and status (27 R445). -/
def State.mailReply (s : State) (tag : BitVec 16) (status : Nat) : State :=
  s.updI (fun i => { i with mbox := BitVec.ofNat 64 (status + tag.toNat * 2 ^ 48) })

/-! ### Measured boot and bring-up (27 R446, R452) -/

/-- Measurement register `j` extended with a digest. -/
def extendM (m : List (List Byte)) (j : Nat) (digest : List Byte) : List (List Byte) :=
  m.set j (sha512 (nthD m j [] ++ digest))

/-- The digest that the boot ROM computes of stage `j`; the firmware that an update has put in place is the last stage
(log entry 106). -/
def bootDigest (firmware : Option (List Byte)) (j : Nat) : List Byte :=
  match firmware with
  | some d => if j + 1 == Config.bootStages then d else (List.range 64).map (Config.bootDigest j)
  | none => (List.range 64).map (Config.bootDigest j)

/-- Stages measured and checked in turn from stage `j`, until one fails: the registers, and whether all passed. Firmware
that an update has put in place was verified before (27 R446, R448). -/
def bootFrom (firmware : Option (List Byte)) : Nat → Nat → List (List Byte) → List (List Byte) × Bool
  | 0, _, m => (m, true)
  | f + 1, j, m =>
    let m := extendM m j (bootDigest firmware j)
    if Config.bootVerifies j || (firmware.isSome && j + 1 == Config.bootStages) then bootFrom firmware f (j + 1) m
    else (m, false)

/-- COLD_RESET: every state of the device is that of reset, but for what lives across boots (00 R5): fuses, firmware and the
retirements, of which the slot-to-engine map is built anew (27 R449); host memory is the host's own; boot is measured, the
HBM initialised, and bring-up goes on to the loading of chip time. -/
def execColdReset (s : State) : Res :=
  let b := bootFrom s.ibmir.firmware Config.bootStages 0 Ibmir.reset.meas
  let i : Ibmir := { Ibmir.reset with
    meas := b.1, recovery := !b.2, booted := true, counter := max s.ibmir.counter Config.fusedCounter.toNat
    firmware := s.ibmir.firmware, retired := s.ibmir.retired, map := s.ibmir.retired }
  .next { State.reset with
    stamp := s.stamp, agenda := s.agenda, outbox := s.outbox, mem := s.mem.filter (fun e => !isDevice e.1)
    poison := s.poison.filter (fun l => !isDevice (l * 128)), ibmir := i }

/-- Chip time set to `t`; what the grandmasters have given is brought up to now. -/
def State.setTime (s : State) (t : Nat) : State :=
  { s with
    chipTime := t
    ibmir := { s.ibmir with masters := KMap.mapv (fun _ m => (m.1 + (s.chipTime - m.2), t)) s.ibmir.masters } }

/-- Chip time loaded: bring-up ends, and Ibmir reports ready (27 R452). -/
def State.loadTime (s : State) (t : Nat) : State :=
  (s.setTime t).updI (fun i => { i with synced := true, ready := true })

/-- The grandmaster that best-master selection chooses among those heard: its port, its time, and when it gave it (00 R3). -/
def State.master (s : State) : Option (Nat × Nat × Nat) :=
  let l := s.ibmir.masters
  l[Config.bestMaster s.stamp l.length % l.length]?

/-- The chosen grandmaster's time now, zero where none has been heard. -/
def State.masterTime (s : State) : Nat := ((s.master).map (fun m => m.2.1 + (s.chipTime - m.2.2))).getD 0

/-- PTP_FRAME: a grandmaster's time reaches Ibmir's client. Once best-master selection has chosen among those heard, the time of
its choice loads chip time; later, before a context exists, Ibmir may step it forward once to that; after that it only slews
(00 R3, 25 R427). -/
def execPtpFrame (port : Nat) (time : DWord) (s : State) : Res :=
  if 8 ≤ port then .fault (.noAgent "port")
  else if (s.port port).training.isSome || s.ibmir.recovery || !s.ibmir.booted then .next s
  else
    let i := s.ibmir
    let s := { s with ibmir := { i with masters := KMap.put i.masters port (time.toNat, s.chipTime) } }
    if !i.synced then .next (if Config.masterChosen s.stamp then s.loadTime s.masterTime else s)
    else if !i.stepped && !i.contextsMade && s.chipTime < s.masterTime && Config.ptpStep s.stamp then
      .next ((s.setTime s.masterTime).updI (fun i => { i with stepped := true }))
    else .next s

/-- GRANDMASTER_TIMEOUT: 2^33 ticks of Ibmir's own timer have passed since the cold reset: chip time is loaded as zero where no
grandmaster has answered (00 R3). -/
def execGrandmasterTimeout (s : State) : Res :=
  if !s.ibmir.booted || s.ibmir.synced || s.ibmir.recovery || s.chipTime < 2 ^ 33 then .fault (.notEnabled "grandmaster")
  else .next (s.loadTime s.masterTime)

/-! ### Attestation (27 R447) -/

/-- The report for a nonce, but for its signature. Until chip time is loaded the counter is only Ibmir's own timer, and chip
time is zero, so that it never decreases (00 R3). -/
def State.reportBody (s : State) (nonce : List Byte) : List Byte :=
  (List.range 64).map (fun k => nthD nonce k 0#8) ++ (List.range 16).map Config.serial ++ leBytes 4 Config.stepping.toNat ++
    leBytes 4 s.ibmir.counter ++ leBytes 8 (Config.mapDigest s.ibmir.map).toNat ++ s.ibmir.meas.flatten ++
    leBytes 8 (if s.ibmir.synced then s.chipTime else 0)

/-- ATTEST served. In recovery the mailbox takes only an update. -/
def State.attest (s : State) (tag : BitVec 16) (nonce : List Byte) : State :=
  if s.ibmir.recovery then s.mailReply tag 6
  else if nonce.length != 64 then s.mailReply tag 7
  else
    let b := s.reportBody nonce
    let sig := (List.range 512).map (Config.identitySign (sha512 b))
    (s.updI (fun i => { i with report := b ++ sig })).mailReply tag 0

/-- A request that waits for the end of an update's window (27 R448). -/
def State.holdReq (s : State) (r : IbmirReq) : State := s.updI (fun i => { i with held := i.held ++ [r] })

/-- ATTEST. -/
def execAttest (tag : BitVec 16) (nonce : List Byte) (s : State) : Res :=
  .next (if s.ibmir.update.isSome then s.holdReq (.attest tag nonce) else s.attest tag nonce)

/-! ### Firmware update (27 R448) -/

/-- The public key that accompanies firmware: modulus and exponent. -/
def firmwareKey : List Byte := (List.range 516).map Config.firmwareKey

/-- Whether a staged image verifies (27 R446). -/
def State.imageGood (s : State) (image sig : List Byte) (version : Nat) : Bool :=
  sha512 firmwareKey == (List.range 64).map Config.fusedKey && s.ibmir.counter ≤ version && sig.length == 512 &&
    rsaVerify firmwareKey (sha512 image) sig

/-- UPDATE served: the window opens, or the image is refused. -/
def State.startUpdate (s : State) (tag : BitVec 16) (image sig : List Byte) (version : Nat) : State :=
  if s.imageGood image sig version then s.updI (fun i => { i with update := some (sha512 image, version, tag, s.chipTime) })
  else s.mailReply tag 6

/-- UPDATE. -/
def execUpdate (tag : BitVec 16) (image signature : List Byte) (version : Nat) (s : State) : Res :=
  .next (if s.ibmir.update.isSome then s.holdReq (.update tag image signature version)
    else s.startUpdate tag image signature version)

/-- Ticks of the window: 5 ms. -/
def updateTicks : Nat := 20000000

/-- The window of an update ends: the new firmware is ready, or the old one comes back; `none` where neither is so. -/
def State.closeUpdate (s : State) (ready : Bool) : Option State :=
  match s.ibmir.update with
  | none => none
  | some (digest, version, tag, start) =>
    if ready then
      if start + updateTicks < s.chipTime then none
      else
        some ((s.updI (fun i => { i with
          update := none, meas := extendM i.meas 7 digest, counter := max i.counter version, firmware := some digest })).mailReply
          tag 0)
    else if s.chipTime < start + updateTicks then none
    else some ((s.updI (fun i => { i with update := none })).mailReply tag 6)

/-! ### Power and telemetry (27 R450, R451) -/

/-- A power cap served: 800 W to 2,600 W. -/
def State.powerCap (s : State) (tag : BitVec 16) (watts : Nat) : State :=
  if s.ibmir.recovery then s.mailReply tag 6
  else if !s.ibmir.ready then s
  else if watts < 800 || 2600 < watts then s.mailReply tag 7
  else (s.updI (fun i => { i with cap := watts })).mailReply tag 0

/-- POWER_CAP. -/
def execPowerCap (tag : BitVec 16) (watts : Nat) (s : State) : Res :=
  .next (if s.ibmir.update.isSome then s.holdReq (.cap tag watts) else s.powerCap tag watts)

/-- CLOCK_STEP: one step of 75 MHz, never above the nominal clock. -/
def execClockStep (up : Bool) (s : State) : Res :=
  let c := s.ibmir.clock
  if up then (if 2250 ≤ c then .fault (.notEnabled "clock") else .next (s.updI (fun i => { i with clock := c + 75 })))
  else if c ≤ 75 then .fault (.notEnabled "clock")
  else .next (s.updI (fun i => { i with clock := c - 75 }))

/-- CRITICAL_TEMPERATURE: HW_FAILURE in every context. -/
def execCriticalTemperature (s : State) : Res :=
  .next ((s.ctxs.map (fun c => c.1)).foldl (fun s cn => s.deviceFatal cn 0x32) s)

/-- TELEMETRY_REFRESH: power, temperature, clock, and the counts of corrected errors. -/
def execTelemetryRefresh (s : State) : Res :=
  .next (s.updI (fun i => { i with
    telemetry := [(Config.reading s.stamp 0).toNat, (Config.reading s.stamp 1).toNat, i.clock] ++
      (List.range 7).map (fun k => (i.errors.get k).toNat) }))

end Sys2Proof.Machine
end

