-- ==== Sys2Proof/Machine/RegWrite.lean ====
section
/-! DEFINITION. RegWrite.lean: what a write of a register-space word does (25 R426), and the end of a firmware update's
window, after which the held writes and requests are served (27 R448). -/
namespace Sys2Proof.Machine

/-- A word of the register space kept as written. -/
def State.keepWord (s : State) (off : Nat) (v : DWord) : State := { s with regs := s.regs.set (off / 8) v }

/-- The kept word at an offset. -/
def State.wordAt (s : State) (off : Nat) : DWord := s.regs.get (off / 8)

/-- A word of shootdown slot `n` (17 R338). -/
def State.writeShoot (s : State) (off : Nat) (v : DWord) : State :=
  let n := (off - 0x10000) / 16
  if off % 16 == 0 then s.shootWrite0 n v else s.shootWrite n (s.shootBase n) v

/-- A word of the handover kick block (17 R341). -/
def State.writeHand (s : State) (off : Nat) (v : DWord) : State :=
  if off % 16 == 0 then s.keepWord off v else s.handover (s.wordAt (off - 8)) v

/-- The command that a block's words give (24 R415). -/
def State.blockCmd (s : State) (part : Nat) (w : DWord) : PCmd :=
  let a (k : Nat) : DWord := s.wordAt (0x30000 + 0x40 * part + 8 * k)
  ⟨part, bitsOf w.toNat 19 8, w.extractLsb' 48 16, a 1, a 2, a 3, a 4, a 5, a 6⟩

/-- A word of a partition's command block. -/
def State.writeCmd (s : State) (off : Nat) (v : DWord) : State :=
  let part := (off - 0x30000) / 0x40
  match off % 0x40 / 8 with
  | 0 => (s.keepWord off v).cmdWrite (v.toNat % 256) (s.blockCmd part v)
  | 7 => s
  | _ => s.keepWord off v

/-- The answer of a meaning that an action of the device calls: nothing happens where it does not apply. -/
def ofRes (s : State) (r : Res) : State :=
  match r with
  | .next s' => s'
  | _ => s

/-- A word of a port register (25 R427). -/
def State.writePort (s : State) (off : Nat) (v : DWord) : State :=
  let n := (off - 0x60000) / 0x20
  let p := s.port n
  let old : DWord × DWord := p.training.getD (p.word 0, p.word 1)
  match off % 0x20 / 8 with
  | 0 => s.portWrite n v old.2
  | 1 => s.portWrite n old.1 v
  | _ => s

/-- Whether a stream entry names Loch queue `n` (25 R432). -/
def State.lochNamed (s : State) (n : Nat) : Bool :=
  (s.port (n / 16)).table.any (fun e => e.2.getLsbD 31 && e.2.toNat % 16 == n % 16)

/-- A word of a Loch queue block (25 R432, R434). -/
def State.writeLoch (s : State) (gid : Option Nat) (off : Nat) (v : DWord) : State :=
  let n := (off - 0x70000) / 0x40
  let free := (s.lochQ n).bind.isNone && !s.lochNamed n
  match off % 0x40 / 8 with
  | 0 => if free then s.updLoch n (fun q => { q with base := v }) else s
  | 1 =>
    if free then s.updLoch n (fun q => { q with
      ctx := bitsOf v.toNat 63 52, slotlog := bitsOf v.toNat 51 48, nslot := bitsOf v.toNat 23 0 })
    else s
  | 2 => s.updLoch n (fun q => { q with head := if q.tail.ult v then q.tail else v })
  | 4 => match gid with
    | none => s
    | some g => if v == BitVec.allOnes 64 then s.unbindLoch g n else s.bindLoch g n v
  | _ => s

/-- Two entries of a port's stream table (25 R430); their reserved bits are not kept. -/
def State.writeTable (s : State) (off : Nat) (v : DWord) : State :=
  let o := off - 0x80000
  let e := o % 0x4000 / 4
  let cut (w : Word) : Word := w &&& 0x8000000F#32
  s.updP (o / 0x4000) (fun p => { p with table := (p.table.set e (cut (loWord v))).set (e + 1) (cut (hiWord v)) })

/-- A word of a context's fault-queue block (26 R441, R444). -/
def State.writeFq (s : State) (off : Nat) (v : DWord) : State :=
  let cn := (off - 0x100000) / 0x40
  match KMap.look s.ctxs cn with
  | none => s
  | some c =>
    -- a record that waits for the ring is outstanding nowhere yet (log entry 110)
    let free := c.fq.head == c.fq.tail && c.fq.recs.all (fun r => !r.written)
    let x := v.toNat
    let upd (f : FaultQ → FaultQ) : State := s.updC cn (fun c => { c with fq := f c.fq })
    match off % 0x40 / 8 with
    | 0 => if free then upd (fun f => { f with base := v &&& ~~~0xFFF#64 }) else s
    | 1 =>
      let ln := bitsOf x 4 0
      upd (fun f => { f with
        vector := bitsOf x 31 16, logn := if free && 6 ≤ ln && ln ≤ 16 then ln else f.logn })
    | 2 => upd (fun f => { f with head := if f.tail.ult v then f.tail else v })
    | 4 => s.resolve cn (bitsOf x 31 0) (bitsOf x 35 32)
    | 5 => upd (fun f => { f with fill := loWord v })
    | _ => s

/-- A write of the mailbox's word 0 starts a request (27 R445); its arguments follow as the request block holds them. -/
def State.mailbox (s : State) (w : DWord) : State :=
  let arg (k : Nat) : DWord := s.wordAt (0x200000 + 8 * k)
  let tag := w.extractLsb' 48 16
  match w.toNat % 256 with
  | 0x10 => ofRes s (execAttest tag ((List.range 8).flatMap (fun k => leBytes 8 (arg (1 + k)).toNat)) s)
  | 0x11 =>
    ofRes s (execUpdate tag (s.memBytes (arg 1).toNat (arg 2).toNat) (s.memBytes (arg 3).toNat 512) (arg 4).toNat s)
  | 0x12 => ofRes s (execPowerCap tag (arg 1).toNat s)
  | _ => if s.ibmir.ready then s.mailReply tag 7 else s

/-- Whether a word belongs to the port and queue configuration that an update's window holds (27 R448). -/
def configWord (off : Nat) : Bool :=
  (0x60000 ≤ off && off < 0x60100) || (0x80000 ≤ off && off < 0xA0000) ||
    (0x70000 ≤ off && off < 0x72000 && off % 0x40 < 0x10)

/-- A write of an aligned word at register-space offset `off`, by group `gid` or by the host. -/
def State.regWrite (s : State) (gid : Option Nat) (off : Nat) (v : DWord) : State :=
  if s.ibmir.update.isSome && configWord off then s.holdReq (.write off v)
  else if off < 0x1000 then (if off % 0x20 == 0 then ofRes s (execKick (off / 0x20) v s) else s)
  else if 0x10000 ≤ off && off < 0x10100 then s.writeShoot off v
  else if 0x20000 ≤ off && off < 0x20010 then s.writeHand off v
  else if 0x30000 ≤ off && off < 0x30200 then s.writeCmd off v
  else if 0x40000 ≤ off && off < 0x50000 then
    (if off % 16 == 0 then ofRes s (execRequantisationKick ((off - 0x40000) / 16) v s) else s)
  else if 0x60000 ≤ off && off < 0x60100 then s.writePort off v
  else if 0x70000 ≤ off && off < 0x72000 then s.writeLoch gid off v
  else if 0x80000 ≤ off && off < 0xA0000 then s.writeTable off v
  else if 0x100000 ≤ off && off < 0x140000 then s.writeFq off v
  else if off == 0x200000 then (s.keepWord off v).mailbox v
  else if 0x200000 < off && off < 0x201000 then s.keepWord off v
  else s

/-- REGISTER_WRITE: the host writes a word of the register space. -/
def execRegisterWrite (offset : Nat) (value : DWord) (s : State) : Res :=
  if offset % 8 != 0 || Config.regSize ≤ offset then .fault (.noAgent "register") else .next (s.regWrite none offset value)

/-! ### After the window (27 R448) -/

/-- A held request served. -/
def State.serveReq (s : State) (r : IbmirReq) : State :=
  match r with
  | .write off v => s.regWrite none off v
  | .partition n w0 w1 w2 w3 => s.setPartition n (Machine.partOf w0 w1 w2 w3)
  | .attest tag nonce => s.attest tag nonce
  | .update tag image sig version => s.startUpdate tag image sig version
  | .cap tag watts => s.powerCap tag watts

/-- Held requests served in order of arrival, until another window opens. -/
def State.serveHeld : Nat → State → State
  | 0, s => s
  | f + 1, s =>
    match s.ibmir.held with
    | [] => s
    | r :: rest =>
      if s.ibmir.update.isSome then s
      else State.serveHeld f ((s.updI (fun i => { i with held := rest })).serveReq r)

/-- The partition commands that waited for the end of the window. -/
def State.serveCmds (s : State) : State :=
  (List.range 8).foldl (fun s p => if s.ibmir.update.isSome then s else s.cmdLoop s.cmdHeld.length p) s

/-- UPDATE_WINDOW_END. -/
def execUpdateWindowEnd (ready : Bool) (s : State) : Res :=
  match s.closeUpdate ready with
  | none => .fault (.notEnabled "update")
  | some s' => .next (State.serveHeld s'.ibmir.held.length s').serveCmds

end Sys2Proof.Machine
end

