-- ==== Sys2Proof/Machine/Dispatch.lean ====
section
/-! DEFINITION. Dispatch.lean: one arm per constructor of `Instr`, each a direct call of its meaning. -/
namespace Sys2Proof.Machine

/-- The meaning of an instruction, an event or a command. -/
def exec (i : Instr) (s : State) : Host.Outcome State Fault Refusal :=
  match i with
  | .nop f => Sys2Proof.Machine.execNop f s
  | .iadd f => Sys2Proof.Machine.execIadd f s
  | .isub f => Sys2Proof.Machine.execIsub f s
  | .imul f => Sys2Proof.Machine.execImul f s
  | .imad f => Sys2Proof.Machine.execImad f s
  | .imulh f => Sys2Proof.Machine.execImulh f s
  | .imadw f => Sys2Proof.Machine.execImadw f s
  | .imin f => Sys2Proof.Machine.execImin f s
  | .imax f => Sys2Proof.Machine.execImax f s
  | .iabs f => Sys2Proof.Machine.execIabs f s
  | .iaddImm f => Sys2Proof.Machine.execIaddImm f s
  | .imulImm f => Sys2Proof.Machine.execImulImm f s
  | .iminImm f => Sys2Proof.Machine.execIminImm f s
  | .imaxImm f => Sys2Proof.Machine.execImaxImm f s
  | .shl f => Sys2Proof.Machine.execShl f s
  | .shr f => Sys2Proof.Machine.execShr f s
  | .sar f => Sys2Proof.Machine.execSar f s
  | .shlImm f => Sys2Proof.Machine.execShlImm f s
  | .shrImm f => Sys2Proof.Machine.execShrImm f s
  | .sarImm f => Sys2Proof.Machine.execSarImm f s
  | .and f => Sys2Proof.Machine.execAnd f s
  | .or f => Sys2Proof.Machine.execOr f s
  | .xor f => Sys2Proof.Machine.execXor f s
  | .andn f => Sys2Proof.Machine.execAndn f s
  | .andImm f => Sys2Proof.Machine.execAndImm f s
  | .orImm f => Sys2Proof.Machine.execOrImm f s
  | .xorImm f => Sys2Proof.Machine.execXorImm f s
  | .andnImm f => Sys2Proof.Machine.execAndnImm f s
  | .lop3 f => Sys2Proof.Machine.execLop3 f s
  | .popc f => Sys2Proof.Machine.execPopc f s
  | .clz f => Sys2Proof.Machine.execClz f s
  | .brev f => Sys2Proof.Machine.execBrev f s
  | .bfx f => Sys2Proof.Machine.execBfx f s
  | .bfi f => Sys2Proof.Machine.execBfi f s
  | .prm f => Sys2Proof.Machine.execPrm f s
  | .sel f => Sys2Proof.Machine.execSel f s
  | .mov f => Sys2Proof.Machine.execMov f s
  | .iset f => Sys2Proof.Machine.execIset f s
  | .isetImm f => Sys2Proof.Machine.execIsetImm f s
  | .movi f => Sys2Proof.Machine.execMovi f s
  | .movl f => Sys2Proof.Machine.execMovl f s
  | .lea f => Sys2Proof.Machine.execLea f s
  | .xlat f => Sys2Proof.Machine.execXlat f s
  | .fadd f => Sys2Proof.Machine.execFadd f s
  | .fsub f => Sys2Proof.Machine.execFsub f s
  | .fmul f => Sys2Proof.Machine.execFmul f s
  | .fma f => Sys2Proof.Machine.execFma f s
  | .fmin f => Sys2Proof.Machine.execFmin f s
  | .fmax f => Sys2Proof.Machine.execFmax f s
  | .fset f => Sys2Proof.Machine.execFset f s
  | .frnd f => Sys2Proof.Machine.execFrnd f s
  | .fclass f => Sys2Proof.Machine.execFclass f s
  | .hadd2 f => Sys2Proof.Machine.execHadd2 f s
  | .hmul2 f => Sys2Proof.Machine.execHmul2 f s
  | .hfma2 f => Sys2Proof.Machine.execHfma2 f s
  | .hmin2 f => Sys2Proof.Machine.execHmin2 f s
  | .hmax2 f => Sys2Proof.Machine.execHmax2 f s
  | .padd4 f => Sys2Proof.Machine.execPadd4 f s
  | .pmul4 f => Sys2Proof.Machine.execPmul4 f s
  | .pmax4 f => Sys2Proof.Machine.execPmax4 f s
  | .dot4 f => Sys2Proof.Machine.execDot4 f s
  | .dot8 f => Sys2Proof.Machine.execDot8 f s
  | .dot4s f => Sys2Proof.Machine.execDot4s f s
  | .dot8s f => Sys2Proof.Machine.execDot8s f s
  | .cvt f => Sys2Proof.Machine.execCvt f s
  | .cvtp f => Sys2Proof.Machine.execCvtp f s
  | .pack f => Sys2Proof.Machine.execPack f s
  | .unpack f => Sys2Proof.Machine.execUnpack f s
  | .rcp f => Sys2Proof.Machine.execRcp f s
  | .rsq f => Sys2Proof.Machine.execRsq f s
  | .sqrt f => Sys2Proof.Machine.execSqrt f s
  | .ex2 f => Sys2Proof.Machine.execEx2 f s
  | .lg2 f => Sys2Proof.Machine.execLg2 f s
  | .sin f => Sys2Proof.Machine.execSin f s
  | .cos f => Sys2Proof.Machine.execCos f s
  | .tanh f => Sys2Proof.Machine.execTanh f s
  | .shfl f => Sys2Proof.Machine.execShfl f s
  | .vote f => Sys2Proof.Machine.execVote f s
  | .matchL f => Sys2Proof.Machine.execMatchL f s
  | .redx f => Sys2Proof.Machine.execRedx f s
  | .plopAnd f => Sys2Proof.Machine.execPlopAnd f s
  | .plopOr f => Sys2Proof.Machine.execPlopOr f s
  | .plopXor f => Sys2Proof.Machine.execPlopXor f s
  | .plopAndn f => Sys2Proof.Machine.execPlopAndn f s
  | .pmov f => Sys2Proof.Machine.execPmov f s
  | .p2g f => Sys2Proof.Machine.execP2g f s
  | .g2p f => Sys2Proof.Machine.execG2p f s
  | .bra f => Sys2Proof.Machine.execBra f s
  | .bany f => Sys2Proof.Machine.execBany f s
  | .ball f => Sys2Proof.Machine.execBall f s
  | .bnone f => Sys2Proof.Machine.execBnone f s
  | .call f => Sys2Proof.Machine.execCall f s
  | .brx f => Sys2Proof.Machine.execBrx f s
  | .ret f => Sys2Proof.Machine.execRet f s
  | .exit f => Sys2Proof.Machine.execExit f s
  | .yield f => Sys2Proof.Machine.execYield f s
  | .msplit f => Sys2Proof.Machine.execMsplit f s
  | .mjoin f => Sys2Proof.Machine.execMjoin f s
  | .bkpt f => Sys2Proof.Machine.execBkpt f s
  | .ld f => Sys2Proof.Machine.execLd f s
  | .st f => Sys2Proof.Machine.execSt f s
  | .ldb f => Sys2Proof.Machine.execLdb f s
  | .ldacq f => Sys2Proof.Machine.execLdacq f s
  | .strel f => Sys2Proof.Machine.execStrel f s
  | .atom f => Sys2Proof.Machine.execAtom f s
  | .red f => Sys2Proof.Machine.execRed f s
  | .atomc f => Sys2Proof.Machine.execAtomc f s
  | .prf f => Sys2Proof.Machine.execPrf f s
  | .lkup f => Sys2Proof.Machine.execLkup f s
  | .tagset f => Sys2Proof.Machine.execTagset f s
  | .ckout f => Sys2Proof.Machine.execCkout f s
  | .ckin f => Sys2Proof.Machine.execCkin f s
  | .round f => Sys2Proof.Machine.execRound f s
  | .fence f => Sys2Proof.Machine.execFence f s
  | .qfence f => Sys2Proof.Machine.execQfence f s
  | .bar f => Sys2Proof.Machine.execBar f s
  | .barm f => Sys2Proof.Machine.execBarm f s
  | .barinit f => Sys2Proof.Machine.execBarinit f s
  | .arrive f => Sys2Proof.Machine.execArrive f s
  | .waitb f => Sys2Proof.Machine.execWaitb f s
  | .tryw f => Sys2Proof.Machine.execTryw f s
  | .waitc f => Sys2Proof.Machine.execWaitc f s
  | .drain f => Sys2Proof.Machine.execDrain f s
  | .trigger f => Sys2Proof.Machine.execTrigger f s
  | .waitpred f => Sys2Proof.Machine.execWaitpred f s
  | .cpy f => Sys2Proof.Machine.execCpy f s
  | .cpyx f => Sys2Proof.Machine.execCpyx f s
  | .cpym f => Sys2Proof.Machine.execCpym f s
  | .mklay f => Sys2Proof.Machine.execMklay f s
  | .rmlay f => Sys2Proof.Machine.execRmlay f s
  | .gate f => Sys2Proof.Machine.execGate f s
  | .reggrow f => Sys2Proof.Machine.execReggrow f s
  | .regshr f => Sys2Proof.Machine.execRegshr f s
  | .trap f => Sys2Proof.Machine.execTrap f s
  | .gets f => Sys2Proof.Machine.execGets f s
  | .sets f => Sys2Proof.Machine.execSets f s
  | .qfeat f => Sys2Proof.Machine.execQfeat f s
  | .qphys f => Sys2Proof.Machine.execQphys f s
  | .kvnew f => Sys2Proof.Machine.execKvnew f s
  | .kvfork f => Sys2Proof.Machine.execKvfork f s
  | .kvapp f => Sys2Proof.Machine.execKvapp f s
  | .kvmap f => Sys2Proof.Machine.execKvmap f s
  | .kvret f => Sys2Proof.Machine.execKvret f s
  | .kvfree f => Sys2Proof.Machine.execKvfree f s
  | .kvcpt f => Sys2Proof.Machine.execKvcpt f s
  | .resultLands gid idx => Sys2Proof.Machine.execResultLands gid idx s
  | .gwctReturn gid => Sys2Proof.Machine.execGwctReturn gid s
  | .watchdog gid => Sys2Proof.Machine.execWatchdog gid s
  | .trywTimeout gid => Sys2Proof.Machine.execTrywTimeout gid s
  | .roundStall gid => Sys2Proof.Machine.execRoundStall gid s
  | .roundIncrement ctx region => Sys2Proof.Machine.execRoundIncrement ctx region s
  | .roundBroadcast core ctx region => Sys2Proof.Machine.execRoundBroadcast core ctx region s
  | .roundFetchAnswer gid => Sys2Proof.Machine.execRoundFetchAnswer gid s
  | .reggrowGrant core quarter => Sys2Proof.Machine.execReggrowGrant core quarter s
  | .arbiterTimeout core quarter => Sys2Proof.Machine.execArbiterTimeout core quarter s
  | .gateClose hid => Sys2Proof.Machine.execGateClose hid s
  | .bundleIssue hid => Sys2Proof.Machine.execBundleIssue hid s
  | .cnop f => Sys2Proof.Machine.execCnop f s
  | .cadd f => Sys2Proof.Machine.execCadd f s
  | .csub f => Sys2Proof.Machine.execCsub f s
  | .cmul f => Sys2Proof.Machine.execCmul f s
  | .cand f => Sys2Proof.Machine.execCand f s
  | .cor f => Sys2Proof.Machine.execCor f s
  | .cxor f => Sys2Proof.Machine.execCxor f s
  | .cshl f => Sys2Proof.Machine.execCshl f s
  | .cshr f => Sys2Proof.Machine.execCshr f s
  | .csar f => Sys2Proof.Machine.execCsar f s
  | .cmov f => Sys2Proof.Machine.execCmov f s
  | .cmovi f => Sys2Proof.Machine.execCmovi f s
  | .ccmp f => Sys2Proof.Machine.execCcmp f s
  | .cld f => Sys2Proof.Machine.execCld f s
  | .cst f => Sys2Proof.Machine.execCst f s
  | .jmp f => Sys2Proof.Machine.execJmp f s
  | .jc f => Sys2Proof.Machine.execJc f s
  | .jal f => Sys2Proof.Machine.execJal f s
  | .jr f => Sys2Proof.Machine.execJr f s
  | .loop f => Sys2Proof.Machine.execLoop f s
  | .cgets f => Sys2Proof.Machine.execCgets f s
  | .csets f => Sys2Proof.Machine.execCsets f s
  | .gret f => Sys2Proof.Machine.execGret f s
  | .apset f => Sys2Proof.Machine.execApset f s
  | .apadd f => Sys2Proof.Machine.execApadd f s
  | .sdset f => Sys2Proof.Machine.execSdset f s
  | .lcset f => Sys2Proof.Machine.execLcset f s
  | .apld f => Sys2Proof.Machine.execApld f s
  | .vcas f => Sys2Proof.Machine.execVcas f s
  | .vld f => Sys2Proof.Machine.execVld f s
  | .vst f => Sys2Proof.Machine.execVst f s
  | .vldb f => Sys2Proof.Machine.execVldb f s
  | .vcvt f => Sys2Proof.Machine.execVcvt f s
  | .vred f => Sys2Proof.Machine.execVred f s
  | .vbcast f => Sys2Proof.Machine.execVbcast f s
  | .vperm f => Sys2Proof.Machine.execVperm f s
  | .vsel f => Sys2Proof.Machine.execVsel f s
  | .tbind f => Sys2Proof.Machine.execTbind f s
  | .sfill f => Sys2Proof.Machine.execSfill f s
  | .sdrop f => Sys2Proof.Machine.execSdrop f s
  | .mma f => Sys2Proof.Machine.execMma f s
  | .mmaz f => Sys2Proof.Machine.execMmaz f s
  | .ast f => Sys2Proof.Machine.execAst f s
  | .ald f => Sys2Proof.Machine.execAld f s
  | .amask f => Sys2Proof.Machine.execAmask f s
  | .tskip f => Sys2Proof.Machine.execTskip f s
  | .trn f => Sys2Proof.Machine.execTrn f s
  | .vgmv f => Sys2Proof.Machine.execVgmv f s
  | .tileCpy f => Sys2Proof.Machine.execTileCpy f s
  | .tileCpyx f => Sys2Proof.Machine.execTileCpyx f s
  | .tileCpym f => Sys2Proof.Machine.execTileCpym f s
  | .bfence f => Sys2Proof.Machine.execBfence f s
  | .bwait f => Sys2Proof.Machine.execBwait f s
  | .tileQfence f => Sys2Proof.Machine.execTileQfence f s
  | .tileDrain f => Sys2Proof.Machine.execTileDrain f s
  | .tileRound f => Sys2Proof.Machine.execTileRound f s
  | .timedCommandRelease core => Sys2Proof.Machine.execTimedCommandRelease core s
  | .cloveCommandComplete core channel => Sys2Proof.Machine.execCloveCommandComplete core channel s
  | .matrixCommandComplete core quarter => Sys2Proof.Machine.execMatrixCommandComplete core quarter s
  | .aniseCommandComplete core => Sys2Proof.Machine.execAniseCommandComplete core s
  | .cuminCommandComplete core => Sys2Proof.Machine.execCuminCommandComplete core s
  | .qfenceEntryRelease fid => Sys2Proof.Machine.execQfenceEntryRelease fid s
  | .residueMismatch queue => Sys2Proof.Machine.execResidueMismatch queue s
  | .resolveReplayPatch ctx id => Sys2Proof.Machine.execResolveReplayPatch ctx id s
  | .resolveSkip ctx id => Sys2Proof.Machine.execResolveSkip ctx id s
  | .resolveRetry ctx id => Sys2Proof.Machine.execResolveRetry ctx id s
  | .resolveUnresolvable ctx id => Sys2Proof.Machine.execResolveUnresolvable ctx id s
  | .faultRecordWrite ctx => Sys2Proof.Machine.execFaultRecordWrite ctx s
  | .kick stream va => Sys2Proof.Machine.execKick stream va s
  | .streamInstructionStart stream => Sys2Proof.Machine.execStreamInstructionStart stream s
  | .launch f => Sys2Proof.Machine.execLaunch f s
  | .launchComplete launch => Sys2Proof.Machine.execLaunchComplete launch s
  | .xfer f => Sys2Proof.Machine.execXfer f s
  | .xferComplete stream idx => Sys2Proof.Machine.execXferComplete stream idx s
  | .sigevAdd f => Sys2Proof.Machine.execSigevAdd f s
  | .sigevSet f => Sys2Proof.Machine.execSigevSet f s
  | .waitev f => Sys2Proof.Machine.execWaitev f s
  | .twait f => Sys2Proof.Machine.execTwait f s
  | .twaitExpiry stream idx => Sys2Proof.Machine.execTwaitExpiry stream idx s
  | .hand f => Sys2Proof.Machine.execHand f s
  | .res f => Sys2Proof.Machine.execRes f s
  | .resRelease f => Sys2Proof.Machine.execResRelease f s
  | .jump f => Sys2Proof.Machine.execJump f s
  | .halt f => Sys2Proof.Machine.execHalt f s
  | .snop f => Sys2Proof.Machine.execSnop f s
  | .distributorPlace part => Sys2Proof.Machine.execDistributorPlace part s
  | .unitBlocking part => Sys2Proof.Machine.execUnitBlocking part s
  | .create c => Sys2Proof.Machine.execCreate c s
  | .destroy c => Sys2Proof.Machine.execDestroy c s
  | .load c => Sys2Proof.Machine.execLoad c s
  | .unload c => Sys2Proof.Machine.execUnload c s
  | .preempt c => Sys2Proof.Machine.execPreempt c s
  | .resume c => Sys2Proof.Machine.execResume c s
  | .spill c => Sys2Proof.Machine.execSpill c s
  | .migout c => Sys2Proof.Machine.execMigout c s
  | .migin c => Sys2Proof.Machine.execMigin c s
  | .shootdown slot base what => Sys2Proof.Machine.execShootdown slot base what s
  | .shootdownComplete slot => Sys2Proof.Machine.execShootdownComplete slot s
  | .handoverKick base what => Sys2Proof.Machine.execHandoverKick base what s
  | .requantisationKick ctx word => Sys2Proof.Machine.execRequantisationKick ctx word s
  | .requantSwap ctx => Sys2Proof.Machine.execRequantSwap ctx s
  | .portConfig port w0 w1 => Sys2Proof.Machine.execPortConfig port w0 w1 s
  | .portRetrained port => Sys2Proof.Machine.execPortRetrained port s
  | .ptpFrame port time => Sys2Proof.Machine.execPtpFrame port time s
  | .fabricFrame port msg => Sys2Proof.Machine.execFabricFrame port msg s
  | .linkFailure peer => Sys2Proof.Machine.execLinkFailure peer s
  | .peerReset peer down => Sys2Proof.Machine.execPeerReset peer down s
  | .linkReconnect peer lastSeq results => Sys2Proof.Machine.execLinkReconnect peer lastSeq results s
  | .lochFrame port bytes => Sys2Proof.Machine.execLochFrame port bytes s
  | .lochEntryComplete queue => Sys2Proof.Machine.execLochEntryComplete queue s
  | .bind gid queue offset => Sys2Proof.Machine.execBind gid queue offset s
  | .unbind gid queue => Sys2Proof.Machine.execUnbind gid queue s
  | .cxlMemRead pa n => Sys2Proof.Machine.execCxlMemRead pa n s
  | .cxlMemWrite pa bytes => Sys2Proof.Machine.execCxlMemWrite pa bytes s
  | .hostSnoop pa => Sys2Proof.Machine.execHostSnoop pa s
  | .hostLinkLost => Sys2Proof.Machine.execHostLinkLost s
  | .uncorrectableError site => Sys2Proof.Machine.execUncorrectableError site s
  | .correctableError kind => Sys2Proof.Machine.execCorrectableError kind s
  | .attest tag nonce => Sys2Proof.Machine.execAttest tag nonce s
  | .update tag image signature version => Sys2Proof.Machine.execUpdate tag image signature version s
  | .updateWindowEnd ready => Sys2Proof.Machine.execUpdateWindowEnd ready s
  | .powerCap tag watts => Sys2Proof.Machine.execPowerCap tag watts s
  | .clockStep up => Sys2Proof.Machine.execClockStep up s
  | .criticalTemperature => Sys2Proof.Machine.execCriticalTemperature s
  | .telemetryRefresh => Sys2Proof.Machine.execTelemetryRefresh s
  | .coldReset => Sys2Proof.Machine.execColdReset s
  | .grandmasterTimeout => Sys2Proof.Machine.execGrandmasterTimeout s
  | .registerWrite offset value => Sys2Proof.Machine.execRegisterWrite offset value s
  | .chipTimeReachesGw gid => Sys2Proof.Machine.execChipTimeReachesGw gid s
  | .rangesResident stream idx => Sys2Proof.Machine.execRangesResident stream idx s
  | .linkNotRestored peer => Sys2Proof.Machine.execLinkNotRestored peer s
  | .partitionDescriptorWrite part w0 w1 w2 w3 => Sys2Proof.Machine.execPartitionDescriptorWrite part w0 w1 w2 w3 s
  | .debuggerStop target => Sys2Proof.Machine.execDebuggerStop target s
  | .debuggerResume target single => Sys2Proof.Machine.execDebuggerResume target single s
  | .debuggerAttach ctx on => Sys2Proof.Machine.execDebuggerAttach ctx on s
  | .backInvalidationAnswer idx => Sys2Proof.Machine.execBackInvalidationAnswer idx s
  | .savetimePassed ctx => Sys2Proof.Machine.execSavetimePassed ctx s

end Sys2Proof.Machine
end

