-- ==== Sys2Proof/Machine/Turns.lean ====
section
/-! DEFINITION. Turns.lean: what one step may be: the issue of a quarter (09 R220, R224), of a tile context (06 R165) or of
a stream (22 R386), or an event that the device brings about itself; and the passing of chip time (00 R2). -/
namespace Sys2Proof.Machine

/-! ### A quarter's issue -/

/-- The watchdog limit of a group (09 R224). -/
def State.watchLimit (s : State) (g : Group) : Nat :=
  (((KMap.look s.halves g.hid).bind s.lrOf).map (fun r => if r.wdog == 0 then 2 ^ 24 else 2 ^ r.wdog)).getD 0

/-- Whether nothing but its scheduling state keeps a group from issuing: it is not stopped, neither it nor a command of it
waits for service, its unit is not leaving, and its context runs. -/
def State.running (s : State) (gid : Nat) (g : Group) : Bool :=
  !g.stopped && g.fault.isNone && s.entries.all (fun e => e.issuer != .group gid || e.fault.isNone) &&
    (match KMap.look s.halves g.hid with
      | some h => h.leaving == 0 && !s.ctxHalted h.ctx
      | none => false)

/-- The instruction at a group's pc, whatever its scheduling state: a report of lost stores is delivered first (17 R346),
the watchdog traps before the instruction (09 R224), and the fetch may fault (17 R335, 26 R438). -/
def State.issueGroup (s : State) (gid : Nat) : Res :=
  match KMap.look s.groups gid with
  | none => .fault (.noAgent "group")
  | some g =>
    match g.reports with
    | r :: rest => .next ((s.updG gid (fun g => { g with reports := rest })).parkFault gid r)
    | [] =>
      if s.watchLimit g ≤ g.watch.toNat then execWatchdog gid s
      else
        match s.fetchLane (s.coreOf g) (s.ctxOf g) g.pc g.em with
        | (.error (some r), s1) => .next (s1.parkFault gid r)
        | (.error none, s1) => .next (s1.groupFatal gid 0x30 g.pc)
        | (.ok w, s1) =>
          match decodeLane w with
          | .error c => .next (s1.takeTrap gid (illegalRec c w g.pc) [])
          | .ok i => exec i { s1 with cur := .group gid }

/-- A group that an issue stalled, ready to try again (01 R23, 10 R250). -/
def State.unstall (s : State) (gid : Nat) : State :=
  s.updG gid (fun g => if g.sched == .blocked .issue then { g with sched := .ready } else g)

/-- Whether a group that an issue stalled would stall again. -/
def State.stalls (s : State) (gid : Nat) : Bool :=
  match (s.unstall gid).issueGroup gid with
  | .next t => ((KMap.look t.groups gid).map (fun g => g.sched)) == some (.blocked .issue)
  | _ => true

/-- Whether a group is eligible (09 R219). -/
def State.eligible (s : State) (gid : Nat) (g : Group) : Bool :=
  s.running gid g && (g.sched == .ready || (g.sched == .blocked .issue && !s.stalls gid))

/-- The oldest of some groups. -/
def oldest : List (Nat × Group) → Option Nat
  | [] => none
  | x :: t =>
    some ((t.foldl (fun (a b : Nat × Group) => if b.2.age < a.2.age then b else a) x).1)

/-- The group that a quarter issues from (09 R220): the last issuer while it stays eligible, else the oldest eligible
group; `ok` tells which groups have their next instruction. -/
def State.choose (s : State) (quarter : Nat) (ok : Nat → Bool) : Option Nat :=
  let l := s.groups.filter (fun e => s.quarterOf e.2 == quarter && ok e.1 && s.eligible e.1 e.2)
  match KMap.look s.last quarter with
  | some x => if l.any (fun e => e.1 == x) then some x else oldest l
  | none => oldest l

/-- A group that was single-stepped stops again (05 R117). -/
def State.stepDone (s : State) (gid : Nat) : State :=
  s.updG gid (fun g => if g.single then { g with stopped := true, single := false } else g)

/-- A result with what follows it. -/
def andThen (r : Res) (f : State → State) : Res :=
  match r with
  | .next s => .next (f s)
  | x => x

/-- A quarter's cycle. -/
def State.quarterTurn (s : State) (quarter : Nat) (ok : Nat → Bool) : Res :=
  match s.choose quarter ok with
  | none => .fault (.notEnabled "quarter")
  | some gid =>
    andThen (({ s with last := KMap.put s.last quarter gid }.unstall gid).issueGroup gid) (fun t => t.stepDone gid)

/-- A tile context's bundle; one that was single-stepped stops again (06 R167). -/
def State.tileTurn (s : State) (hid : Nat) : Res :=
  andThen (execBundleIssue hid { s with cur := .tile hid }) (fun t =>
    t.updT hid (fun x => if x.single then { x with stopped := true, single := false } else x))

/-! ### What the device does by itself -/

/-- Whether some access to a peer has been unacknowledged for 2^26 ticks (17 R345). -/
def State.unanswered (s : State) (peer : Nat) : Bool :=
  s.remote.any (fun a => a.peer == peer && a.time + 2 ^ 26 ≤ s.chipTime)

/-- The waiting memory instructions of a group go on: the loads of its classes that have been left to perform later (11 R274).
-/
def performTurn (gid : Nat) (s : State) : Res :=
  match KMap.look s.groups gid with
  | none => .fault (.noAgent "group")
  | some g =>
    if g.held.any (fun h => h.lanes != 0#64 && !h.deferred s.stamp) then .next ((s.retryHeld gid).afterLand gid)
    else .fault (.notEnabled "instruction")

/-- The next increment of a region begins (20 R369). -/
def beginTurn (k : Nat) (s : State) : Res :=
  match s.beginInc k with
  | some s' => .next s'
  | none => .fault (.notEnabled "increment")

/-- The host completes a store of a group to its memory; the fences that waited for it end (25 R424, 05 R131). -/
def hostDoneTurn (gid : Nat) (s : State) : Res :=
  match KMap.look s.groups gid with
  | none => .fault (.noAgent "group")
  | some g =>
    if g.hostW == 0 then .fault (.notEnabled "store")
    else .next (((s.updG gid (fun g => { g with hostW := g.hostW - 1 })).endFences gid true).afterLand gid)

/-- A frame with a bad FCS is discarded; one that the port's mode takes is counted (25 R427). -/
def badFrameTurn (port : Nat) (s : State) : Res :=
  if 8 ≤ port then .fault (.noAgent "port")
  else if (s.port port).works == some 1 || (s.port port).works == some 2 then
    .next (s.updP port (fun p => { p with badfcs := p.badfcs + 1#32 }))
  else .next s

/-- A context of another device arrives (24 R421). -/
def packageTurn (m : Migration) (s : State) : Res :=
  match s.package m with
  | some s' => .next s'
  | none => .fault (.notEnabled "context")

/-- What happens where a condition holds. -/
def whenever (b : Bool) (f : State → Res) : State → Res := fun s => if b then f s else .fault (.notEnabled "condition")

/-- The events of a group. -/
def groupEvents (e : Nat × Group) : List (State → Res) :=
  (List.range e.2.landings.length).map (fun i => execResultLands e.1 i) ++
    [execGwctReturn e.1, execChipTimeReachesGw e.1, execWatchdog e.1, execTrywTimeout e.1, execRoundStall e.1,
      execRoundFetchAnswer e.1]

/-- The events of a queue by its key. -/
def queueEvents (k : Nat) : List (State → Res) :=
  let core := k / 32
  let code := k % 32
  if code < 4 then [execCloveCommandComplete core code]
  else if code < 8 then [execMatrixCommandComplete core (code - 4)]
  else if code == 8 then [execCuminCommandComplete core]
  else if code == 9 then [execAniseCommandComplete core]
  else []

/-- The fences that stand in queues. -/
def State.fenceIds (s : State) : List Nat :=
  ((s.entries ++ s.loch.flatMap (fun q => q.2.entries)).filterMap (fun e => match e.cmd with
    | .qfence fid _ => some fid
    | _ => none)).eraseDups

/-- The events of a stream. -/
def streamEvents (e : Nat × Stream) : List (State → Res) :=
  execStreamInstructionStart e.1 :: e.2.ins.flatMap (fun i =>
    [execXferComplete e.1 i.idx, execTwaitExpiry e.1 i.idx, execRangesResident e.1 i.idx])

/-- A partition command that waits goes on. -/
def continueCmd (part : Nat) (s : State) : Res :=
  match s.cmdContinue part with
  | some s' => .next s'
  | none => .fault (.notEnabled "command")

/-- Some steps of a queued command (11 R275). -/
def partTurn (k id n : Nat) (s : State) : Res :=
  match s.runPart k id n with
  | some s' => .next s'
  | none => .fault (.notEnabled "command")

/-- What the device may do next of itself: the issues, and the events whose conditions are its own; each answers a fault
where its condition does not hold. -/
def State.candidates (s : State) : List (State → Res) :=
  (s.groups.map (fun e => s.quarterOf e.2)).eraseDups.map (fun q => fun s => s.quarterTurn q (Config.fetched s.stamp)) ++
  s.groups.flatMap groupEvents ++
  s.groups.flatMap (fun e => [performTurn e.1, hostDoneTurn e.1]) ++
  s.halves.flatMap (fun e => [fun s => s.tileTurn e.1, execGateClose e.1]) ++
  s.grow.flatMap (fun e => [execReggrowGrant (e.1 / 4) (e.1 % 4), execArbiterTimeout (e.1 / 4) (e.1 % 4)]) ++
  s.incs.flatMap (fun e => [beginTurn e.1, execRoundIncrement (e.1 / 256) (e.1 % 256)]) ++
  s.bcasts.map (fun b => execRoundBroadcast b.core b.ctx b.region) ++
  s.queues.flatMap (fun e => queueEvents e.1 ++
    e.2.map (fun x => partTurn e.1 x.id (Config.pick s.stamp (x.cmd.total + 1) % (x.cmd.total + 1)))) ++
  s.arrivals.map (fun a => fun s => s.arrivalTurn a.hid a.off) ++
  s.timed.map (fun e => execTimedCommandRelease e.1) ++
  s.fenceIds.map execQfenceEntryRelease ++
  s.ctxs.flatMap (fun e => [execFaultRecordWrite e.1, execRequantSwap e.1, execSavetimePassed e.1]) ++
  s.streams.flatMap streamEvents ++
  s.launches.map (fun e => execLaunchComplete e.1) ++
  (List.range 8).flatMap (fun p => [execDistributorPlace p, execUnitBlocking p, continueCmd p, execPortRetrained p]) ++
  s.shoot.map (fun e => execShootdownComplete e.1) ++
  s.loch.map (fun e => execLochEntryComplete e.1) ++
  s.peers.flatMap (fun e => [whenever (s.unanswered e.1) (execLinkFailure e.1), execLinkNotRestored e.1]) ++
  (List.range s.backInv.length).map execBackInvalidationAnswer ++
  [execUpdateWindowEnd false, execGrandmasterTimeout]

/-- Whether an action answers a next state. -/
def happens (s : State) (f : State → Res) : Bool :=
  match f s with
  | .next _ => true
  | _ => false

/-- One of the actions that can happen; where none can, only time passes. -/
def State.selfTurn (s : State) : Res :=
  match s.candidates.filter (happens s) with
  | [] => .next s
  | [f] => f s
  | f :: l => nthD (f :: l) (Config.pick s.stamp (l.length + 1) % (l.length + 1)) f s

/-- The turn that the agenda names. -/
def State.turn (s : State) (t : Turn) : Res :=
  match t with
  | .quarter core q => s.quarterTurn (core * 4 + q) (fun _ => true)
  | .tile hid => s.tileTurn hid
  | .stream n => execStreamInstructionStart n s
  | .part k id n => partTurn k id n s
  | .arrival hid off => s.arrivalTurn hid off
  | .hostWrite pa bytes => hostWrite pa bytes s
  | .hostPoison pa n => hostPoison pa n s
  | .perform gid => performTurn gid s
  | .roundBegin k => beginTurn k s
  | .hostDone gid => hostDoneTurn gid s
  | .badFrame port => badFrameTurn port s
  | .objectLoad image => .next (s.objectLoad image)
  | .package m => packageTurn m s
  | .event i => exec i s

/-- What happens in a step: a posted register write, else what the agenda names next, else what the device does itself. -/
def State.act (s : State) : Res :=
  match s.posted with
  | (gid, off, v) :: rest =>
    .next ({ s with posted := rest }.regWrite (if gid == 0 then none else some gid) off v)
  | [] => match s.agenda with
    | t :: rest => { s with agenda := rest }.turn t
    | [] => s.selfTurn

/-! ### After each step -/

/-- The frames whose time has come go out, where their port carries them (11 R286, 25 R428). -/
def State.sendDue (s : State) : State :=
  let go (a : Nat × Out) : Bool := a.1 ≤ s.chipTime && s.mayLeave a.2
  { s with outbox := s.outbox ++ (s.acks.filter go).map (fun a => a.2), acks := s.acks.filter (fun a => !go a) }

/-- Chip time after this step: no broadcast of a round is on its way for longer than it may be (20 R370). -/
def State.nextTime (s : State) : Nat :=
  (s.chipTime + s.bcasts.foldl (fun e b => min e (b.until_ - s.chipTime)) (Config.elapsed s.stamp)) % 2 ^ 64

/-- L1 copies whose lease has run out go (11 R262). -/
def State.expire (s : State) : State :=
  { s with l1 := s.l1.filter (fun c => match c.tag with
      | .lease t => s.chipTime < t
      | .round _ _ _ => true) }

/-- What each step ends with: slices may drop leases, tile rounds that are ready go out, the streak of an issuer that is no
longer eligible ends (09 R220, R223), groups stop at the faults of their commands, chip time passes, and no agent is at work.
DESIGN CHOICE (log entry 95): every place of the package sees the same chip time, where 00 R4 lets two differ by up to two
ticks. -/
def State.after (s : State) : State :=
  let s := s.dropLeases.kickRounds
  let ends (gid : Nat) : Bool := match KMap.look s.groups gid with
    | some g => g.sched != .ready || !s.running gid g
    | none => true
  let s := { s with last := s.last.filter (fun e => !ends e.2) }
  let s := (s.entries.filter (fun e => e.fault.isSome)).foldl (fun s e => match e.issuer with
    | .group gid => s.parkIssuer gid
    | .tile _ => s) s
  { s with chipTime := s.nextTime, stamp := s.stamp + 1, cur := .none }.sendDue.expire

end Sys2Proof.Machine
end

