-- ==== Sys2Proof/Machine/Place.lean ====
section
/-! DEFINITION. Place.lean: a program of one word placed by hand, for the host's question whether a word runs: the page
tables, context, launch and team that the loader and the distributor would have made (log entry 11). -/
namespace Sys2Proof.Machine

/-- Where the word stands, virtual and physical. -/
def placeVa : Nat := 0x100000

/-- The word and the page tables in memory: one leaf of 1 GiB maps virtual address 0 to physical address 0 with every
permission (17 R330, R332). -/
def placeMem (m : Regs 8) (w : DWord) : Regs 8 :=
  let m := m.setSlice 0x10000 (leBytes 8 (0x11000 + 1))
  let m := m.setSlice 0x11000 (leBytes 8 0x1E3)
  m.setSlice placeVa (leBytes 8 w.toNat)

/-- The partition of the placed program: every pair, the first GiB of HBM. -/
def placePart : Partition := ⟨BitVec.allOnes 96, 1, 0, 4, 4⟩

/-- The context of the placed program. -/
def placeCtx : Ctx :=
  { part := 0, troot := 0x10000, tarn := none, pins := [], kicks := [], requant := [], regions := [], winBase := 0, winCount := 0
    mergedev := 0, streams := [0], signing := false, keys := [], profile := [], imgBase := 0, imgLen := 0, layouts := []
    handles := [], events := [], fq := ⟨0#64, 6, 0, 0#64, 0#64, 0#32, 0#32, 0#32, 0#32, [], []⟩, halted := false
    killed := false, waitSave := [], record := none, agents := [] }

/-- The launch of the placed program: one team of one group of 16 lanes with 256 registers and a tile context. -/
def placeLaunch : Launch :=
  let r : LaunchRec := ⟨0, 0, 1, 1, 1, 16, 1, 16, 256, 256, 0, 1, false, true, 4, 0, 1, 0, 0, 2, 3, 3, 3, 0, 0, 0, 0#64, 0⟩
  ⟨0, 0, 0, r, false, [], true, [], false, false, 1, 0, placeVa⟩

/-- The half of the placed program. -/
def placeHalf (tile : Option Tile) (gate : Option GateSt) : Half :=
  { launch := 1, ctx := 0, team := 0, half := 0, paired := false, core := 0, quarter := 0, banks := [0], spadBanks := 1
    tobBanks := 0, spad := [], tob := [], ringOld := [], spadPoison := [], tobPoison := [], cover := [], tagOff := 0, tagEnt := 0, tagOrder := []
    bar := [], barm := [], gateArr := [], gate := gate, tile := tile, retries := [], pending := none, tileFree := false
    banksFree := false, finishing := [], start := 0, leaving := 0 }

/-- The image of a tile word: one bundle with one slot of the word's class (06 R161). -/
def placeImage (w : DWord) : Image :=
  ⟨[], 1#64, [1#64 <<< fld w 8 3, w], [(0, 0)], [], [], [], 0, placeVa⟩

/-- The machine with the parts that every placed word needs, and its turn first on the agenda. -/
def State.placeBase (s : State) (w : DWord) (t : Turn) (h : Half) : State :=
  { s with
    mem := placeMem s.mem w, poison := [], tlb := [], posted := [], agenda := t :: s.agenda
    parts := KMap.put s.parts 0 placePart, ctxs := KMap.put s.ctxs 0 placeCtx
    launches := KMap.put s.launches 1 placeLaunch, halves := KMap.put s.halves 1 h }

/-- A lane word placed: a ready group of quarter 0 of core 0 stands before it. -/
def State.placeLane (s : State) (w : DWord) : State :=
  let s := s.placeBase w (.quarter 0 0) (placeHalf (some (Tile.fresh 0 4)) none)
  let g := placeLaunch.group 1 2 0 0
  { s with nextId := 3, groups := KMap.put s.groups 2 g, last := KMap.put s.last 0 2 }

/-- A tile word placed: the sequencer stands before its bundle in an open gate. -/
def State.placeTile (s : State) (w : DWord) : State :=
  let t := { Tile.fresh 0 4 with valid := true, npc := 16, nnpc := 24, after := 32 }
  let s := s.placeBase w (.tile 1) (placeHalf (some t) (some ⟨0#32, [], [2], [(0, 0xFFFF#64)]⟩))
  { s with
    nextId := 3, images := KMap.put s.images 1 (placeImage w)
    groups := KMap.put s.groups 2 { placeLaunch.group 1 2 0 0 with sched := .blocked .gate } }

/-- A stream word placed: stream 0 runs and stands before it. -/
def State.placeStream (s : State) (w : DWord) : State :=
  let s := s.placeBase w (.stream 0) (placeHalf none none)
  let x : Stream := ⟨0, 1, 0, 0, false, false, 0#64, BitVec.ofNat 64 placeVa, 0, 0, []⟩
  { s with streams := KMap.put s.streams 0 x }

/-- A word placed by what it decodes to; one that nothing decodes stands in lane code. -/
def State.placeWord (s : State) (w : DWord) : State :=
  match decodeLane w, decodeTile w, decodeStream w with
  | .ok _, _, _ => s.placeLane w
  | _, .ok _, _ => s.placeTile w
  | _, _, .ok _ => s.placeStream w
  | _, _, _ => s.placeLane w

end Sys2Proof.Machine
end

