-- ==== Sys2Proof/Machine/Step.lean ====
section
/-! DEFINITION. Step.lean: one step of the machine, and the placing of one instruction word for the host. -/
namespace Sys2Proof.Machine

/-- One step: what happens, and what every step ends with. -/
def step (s : State) : Host.Outcome State Fault Refusal := andThen s.act State.after

/-- The machine with an instruction of `nbits` bits `w` placed so that the next step fetches and runs it. -/
def State.withFetchWord (s : State) (nbits w : Nat) : State := s.placeWord (BitVec.ofNat 64 (w % 2 ^ nbits))

end Sys2Proof.Machine
end

