-- ==== Sys2Proof/Safety.lean ====
section
/-! DEFINITION. Safety.lean: the predicates that claims are stated in: canonical tables, what holds between any two steps,
and runs. -/
namespace Sys2Proof.Machine

/-- Every table that is compared as data is in its canonical form. -/
def State.canonical (s : State) : Prop :=
  Memory.wf s.mem = true ∧ KMap.sorted s.groups = true ∧ KMap.sorted s.halves = true ∧ KMap.sorted s.ctxs = true

/-- An L1 copy is within its lease (11 R262). -/
def L1Copy.fresh (now : Nat) (c : L1Copy) : Prop :=
  match c.tag with
  | .lease t => now < t
  | .round _ _ _ => True

/-- What holds between any two steps: no agent is at work, no L1 copy is held past its lease (11 R262), and no answer to a
peer that may leave waits past the chip time at which it may go out (11 R286). -/
def State.timely (s : State) : Prop :=
  s.cur = .none ∧ (∀ c ∈ s.l1, c.fresh s.chipTime) ∧ ∀ a ∈ s.acks, s.mayLeave a.2 = true → s.chipTime < a.1

/-- Every new round that is on its way to a core has still time to reach it (20 R370). -/
def State.roundsOnTime (s : State) : Prop := ∀ b ∈ s.bcasts, s.chipTime ≤ b.until_

/-- What is left of a group without its registers, its position, its count of instructions and its tries, what is
outstanding, and its scheduling state. -/
def Group.beside (g : Group) : Group :=
  { g with
    v := [], g := [], k := [], bx := [], fx := [], pc := 0#64, watch := 0#32, retries := [], landings := [], wc := []
    sched := .ready, mark := false }

/-- A register key's value as its register holds it. -/
def keyVal (key : Nat) (x : DWord) : DWord :=
  if key < 30000 then (x.setWidth 32).setWidth 64
  else if key < 40000 then (if x == 0#64 then 0#64 else 1#64)
  else if key < 50000 then x
  else (x.setWidth 32).setWidth 64

/-- The group `gid` is at work and may run `i`. -/
def State.atWork (s : State) (gid : Nat) (g : Group) (i : Instr) : Prop :=
  s.cur = .group gid ∧ KMap.look s.groups gid = some g ∧ i.check g.n = none

/-! ### Lane instructions that only write registers -/

/-- The fields that every lane instruction shares; of any other, those of an unguarded one (03 R62, R71). -/
def headOf (i : Instr) : Head :=
  match i with
  | .nop f | .iadd f | .isub f | .imul f | .imad f | .imulh f | .imadw f | .imin f | .imax f | .iabs f | .shl f
  | .shr f | .sar f | .and f | .or f | .xor f | .andn f | .lop3 f | .popc f | .clz f | .brev f | .bfx f
  | .bfi f | .prm f | .sel f | .mov f | .iset f | .lea f | .fadd f | .fsub f | .fmul f | .fma f | .fmin f
  | .fmax f | .fset f | .frnd f | .fclass f | .hadd2 f | .hmul2 f | .hfma2 f | .hmin2 f | .hmax2 f | .padd4 f
  | .pmul4 f | .pmax4 f | .dot4 f | .dot8 f | .dot4s f | .dot8s f | .cvt f | .cvtp f | .pack f | .unpack f
  | .rcp f | .rsq f | .sqrt f | .ex2 f | .lg2 f | .sin f | .cos f | .tanh f | .shfl f | .vote f | .matchL f
  | .redx f | .plopAnd f | .plopOr f | .plopXor f | .plopAndn f | .pmov f | .p2g f | .g2p f | .brx f | .ret f
  | .exit f | .yield f | .msplit f | .mjoin f => f.hd
  | .iaddImm f | .imulImm f | .iminImm f | .imaxImm f | .shlImm f | .shrImm f | .sarImm f | .andImm f
  | .orImm f | .xorImm f | .andnImm f | .isetImm f | .movi f | .bkpt f => f.hd
  | .movl f | .gate f => f.hd
  | .xlat f | .ld f | .st f | .ldb f | .ldacq f | .strel f | .atom f | .red f | .atomc f | .prf f | .lkup f
  | .tagset f | .ckout f | .ckin f | .round f | .fence f | .qfence f => f.hd
  | .bra f | .bany f | .ball f | .bnone f | .call f => f.hd
  | .bar f | .barm f | .barinit f | .arrive f | .waitb f | .tryw f | .waitc f | .drain f | .trigger f
  | .waitpred f | .cpy f | .cpyx f | .cpym f | .mklay f | .rmlay f | .reggrow f | .regshr f | .trap f | .gets f
  | .sets f | .qfeat f | .qphys f | .kvnew f | .kvfork f | .kvapp f | .kvmap f | .kvret f | .kvfree f
  | .kvcpt f => f.hd
  | _ => ⟨false, false, 7#3⟩

/-- A register destination. -/
inductive Dest where
  /-- lane registers, from `d` on, in the enabled lanes -/
  | lanes (d : BitVec 8) (n : Nat)
  /-- group-uniform registers from `d` on -/
  | uni (d : BitVec 8) (n : Nat)
  /-- the bits of a predicate in the enabled lanes -/
  | pred (d : BitVec 8)
  /-- a whole predicate -/
  | predAll (d : BitVec 8)
  /-- the sticky flags of the enabled lanes -/
  | flags
  /-- the base of a translation register -/
  | base (n : Nat)
  deriving DecidableEq, Repr

/-- Whether a register key lies in a destination; field value 255 names no register (01 R15, 03 R68). -/
def Dest.has (g : Group) (st : Nat) (h : Head) (key : Nat) (d : Dest) : Prop :=
  match d with
  | .lanes r n => r ≠ 255#8 ∧ ∃ j ∈ g.enabled st h, ∃ t < n, key = kv (r + BitVec.ofNat 8 t).toNat j
  | .uni r n => r ≠ 255#8 ∧ ∃ t < n, key = kg (r + BitVec.ofNat 8 t).toNat
  | .pred r => ∃ j ∈ g.enabled st h, key = kk r.toNat j
  | .predAll r => ∃ j < g.width, key = kk r.toNat j
  | .flags => ∃ j ∈ g.enabled st h, key = kfx j
  | .base n => key = kb n

/-- The destinations of the integer instructions: arithmetic, shifts, logic, bit fields, moves and comparison (04 R85 to
R90); `none` for every other instruction. -/
def intDests (i : Instr) : Option (List Dest) :=
  match i with
  | .iadd f | .isub f | .imul f | .imad f | .imulh f | .imin f | .imax f | .iabs f | .shl f | .shr f | .sar f
  | .and f | .or f | .xor f | .andn f | .lop3 f | .popc f | .clz f | .brev f | .bfx f | .bfi f | .prm f
  | .sel f => some [.lanes f.d 1]
  | .iaddImm f | .imulImm f | .iminImm f | .imaxImm f | .shlImm f | .shrImm f | .sarImm f | .andImm f
  | .orImm f | .xorImm f | .andnImm f | .movi f => some [.lanes f.d 1]
  | .imadw f | .lea f => some [.lanes f.d 2]
  | .mov f => some [if f.sub.toNat < 2 then .lanes f.d 1 else .uni f.d 1]
  | .movl f => some [if f.sub == 0#4 then .lanes f.d 1 else .uni f.d 1]
  | .iset f => some [.pred f.d]
  | .isetImm f => some [.pred f.d]
  | _ => none

/-- The destinations of the floating-point, packed, conversion and special-function instructions (04 R92 to R104). -/
def fltDests (i : Instr) : Option (List Dest) :=
  match i with
  | .fadd f | .fsub f | .fmul f | .fma f | .fmin f | .fmax f | .frnd f | .hadd2 f | .hmul2 f | .hfma2 f
  | .hmin2 f | .hmax2 f | .padd4 f | .pmul4 f | .pmax4 f | .dot4 f | .dot8 f | .dot4s f | .dot8s f | .cvt f
  | .cvtp f | .rcp f | .rsq f | .sqrt f | .ex2 f | .lg2 f | .sin f | .cos f | .tanh f => some [.lanes f.d 1, .flags]
  | .fset f => some [.pred f.d, .flags]
  | .fclass f | .pack f => some [.lanes f.d 1]
  | .unpack f => some [.lanes f.d 2]
  | _ => none

/-- The destinations of the predicate instructions (04 R105), of `nop` (03 R74) and of the queries (05 R150). -/
def bitDests (i : Instr) : Option (List Dest) :=
  match i with
  | .nop _ => some []
  | .plopAnd f | .plopOr f | .plopXor f | .plopAndn f | .pmov f => some [.pred f.d]
  | .p2g f => some [.uni f.d 2]
  | .g2p f => some [.predAll f.d]
  | .qfeat f | .qphys f => some [.uni f.d 1]
  | _ => none

/-- The machine `t` is `s` but for group `gid`, which is now `g'`. -/
def OnlyGroup (s t : State) (gid : Nat) (g' : Group) : Prop := t = { s with groups := KMap.put s.groups gid g' }

/-- `watch` has counted one instruction; it stays at its largest value (01 R28, 09 R225). -/
def Counted (g g' : Group) : Prop := g'.watch = if g.watch = 0xFFFFFFFF#32 then g.watch else g.watch + 1#32

/-- The group is ready after an instruction, or parked by its marker (03 R72, 09 R219). -/
def Resumes (h : Head) (g' : Group) : Prop := g'.sched = .ready ∨ (h.s = true ∧ g'.sched = .marker)

/-- Every register outside some destinations reads as before, and holds what it held; a translation register, in all its
fields. -/
def Leaves (g g' : Group) (st : Nat) (h : Head) (ds : List Dest) : Prop :=
  ∀ key, (∀ d ∈ ds, ¬ d.has g st h key) → g'.cur key = g.cur key ∧ (∀ x, g'.read x key = g.read x key) ∧
    ∀ n, key = kb n → KMap.look g'.bx n = KMap.look g.bx n

/-- An instruction that completes, where a condition holds, and changes nothing but registers of its destinations and the
position: its counters, everything beside its registers, and the rest of the machine stand. -/
def GoesIf (i : Instr) (cond : State → Group → Prop) (pc : Group → Nat → DWord) (ds : List Dest) : Prop :=
  ∀ s gid g, s.atWork gid g i → cond s g → ∃ t g', exec i s = .next t ∧ OnlyGroup s t gid g' ∧ g'.pc = pc g s.stamp ∧
    g'.beside = g.beside ∧ g'.wc = g.wc ∧ Counted g g' ∧ Resumes (headOf i) g' ∧ Leaves g g' s.stamp (headOf i) ds

/-- The next word. -/
def nextPc (g : Group) : DWord := g.pc + 8#64

/-- An instruction that always completes and goes on at the next word. -/
def Goes (i : Instr) (ds : List Dest) : Prop := GoesIf i (fun _ _ => True) (fun g _ => nextPc g) ds

/-- Every enabled lane's result in lane register `d` is as `P` says; `vz` takes none (01 R15). -/
def LaneResult (i : Instr) (d : BitVec 8) (P : Group → Nat → Nat → Word → Prop) : Prop :=
  ∀ s gid g, s.atWork gid g i → ∃ t g', exec i s = .next t ∧ KMap.look t.groups gid = some g' ∧
    (∀ j ∈ g.enabled s.stamp (headOf i), d ≠ 255#8 → ∃ x : Word, g'.cur (kv d.toNat j) = x.setWidth 64 ∧ P g s.stamp j x) ∧
    (d = 255#8 → ∀ key < 20000, g'.cur key = g.cur key)

/-- Every enabled lane's bit of predicate `d` is as `P` says. -/
def PredResult (i : Instr) (d : BitVec 8) (P : Group → Nat → Nat → Bool) : Prop :=
  ∀ s gid g, s.atWork gid g i → ∃ t g', exec i s = .next t ∧ KMap.look t.groups gid = some g' ∧
    ∀ j ∈ g.enabled s.stamp (headOf i), g'.cur (kk d.toNat j) = if P g s.stamp j then 1#64 else 0#64

/-- An integer source read under its type, with the absolute value, then the negation (02 R47, 04 R84). -/
def intIn (signed : Bool) (m : Bool × Bool) (x : Word) : Int :=
  if signed then
    let y : Word := if m.1 && x.msb then -x else x
    (if m.2 then -y else y).toInt
  else if m.2 then -(x.toNat : Int) else x.toNat

/-- An exact integer result delivered through the clamp (04 R84). -/
def intOut (signed : Bool) (cl : BitVec 2) (x : Int) : Word :=
  match cl.toNat with
  | 0 => BitVec.ofInt 32 x
  | 1 => BitVec.ofInt 32 (max 0 (min 1 x))
  | 2 => if signed then BitVec.ofInt 32 (max (-(2 ^ 31)) (min (2 ^ 31 - 1) x)) else BitVec.ofInt 32 (max 0 (min (2 ^ 32 - 1) x))
  | _ => BitVec.ofInt 32 (max 0 x)

/-- The result of an R-format integer form on its three sources (04 R84, R85). -/
def intResult (f : RFmt) (op : Int → Int → Int → Int) (g : Group) (st j : Nat) (x : Word) : Prop :=
  let sg := f.sub == 0#4
  x = intOut sg f.cl (op (intIn sg f.ma (g.rv st f.a j)) (intIn sg f.mb (g.rB st f j)) (intIn sg f.mc (g.rv st f.c j)))

/-- The result of an I-format integer form (04 R85). -/
def intResultImm (f : IFmt) (op : Int → Int → Int) (g : Group) (st j : Nat) (x : Word) : Prop :=
  let sg := f.sub == 0#4
  x = intOut sg f.cl (op (intIn sg (f.mods.getLsbD 1, f.mods.getLsbD 0) (g.rv st f.a j))
    (intIn sg (false, false) (f.imm.signExtend 32)))

/-- Whether an FP32 encoding is a NaN (02 R36). -/
def isNan32 (x : Word) : Bool := x.extractLsb' 23 8 == 255#8 && x.extractLsb' 0 23 != 0#23

/-- What a clamp leaves of the canonical NaN of FP32 (02 R38, R47). -/
def nanClamped (cl : BitVec 2) : Word := if cl == 1#2 || cl == 3#2 then 0#32 else 0x7FFFFFFF#32

/-- Instruction `i` completed in group `gid`: the group stands at the next word, has counted it, and holds what it held
outside some destinations. -/
def Advances (i : Instr) (s : State) (gid : Nat) (g : Group) (ds : List Dest) (t : State) (g' : Group) : Prop :=
  exec i s = .next t ∧ KMap.look t.groups gid = some g' ∧ g'.pc = nextPc g ∧ Counted g g' ∧ Resumes (headOf i) g' ∧
    Leaves g g' s.stamp (headOf i) ds

/-- Everything a group has done has performed, landed and become visible: nothing that a fence waits for (05 R131). -/
def State.quiet (s : State) (gid : Nat) (g : Group) : Prop :=
  g.held = [] ∧ g.landings = [] ∧ g.fences = [] ∧ g.gwPend = [] ∧ g.gw.toNat ≤ s.chipTime ∧ g.hostW = 0 ∧
    (∀ e ∈ s.incs, ∀ x ∈ e.2, x.gid ≠ some gid) ∧ (∀ a ∈ s.remote, a.gid ≠ some gid)

/-! ### Lane memory instructions -/

/-- Beside its registers a memory instruction changes only what is under way: its own accesses, the stores whose completion
times have not returned or that the host has not completed, and the notes of races. -/
def SameButMem (g g' : Group) : Prop :=
  { g'.beside with held := g.held, recent := g.recent, gwPend := g.gwPend, fences := g.fences, hostW := g.hostW } = g.beside

/-- No copy in the L1 of a group's core has been overtaken by a release at pair scope (11 R271). -/
def State.unmarked (s : State) (g : Group) : Prop := ∀ c ∈ s.l1, c.core = s.coreOf g → c.old = false

/-- The address of lane `j` as a number (05 R118). -/
def MemOp.va (op : MemOp) (g : Group) (st j : Nat) : Nat := (g.laneVa st op.f j).toNat

/-- The local place of lane `j`, where its address lies in the local window and in the team's banks (05 R119). -/
def State.placeOf (s : State) (g : Group) (op : MemOp) (j : Nat) : Option LPlace :=
  if isLocal (op.va g s.stamp j) then s.localPlace g.hid (op.va g s.stamp j - Config.localBase) op.size else none

/-- A memory instruction issues now: nothing earlier of its group has still to perform or waits for a fault's service, no
result on its way carries the number it will get, nothing holds it back, and its counters have room (01 R23, 05 R131). -/
def State.mayIssue (s : State) (g : Group) (op : MemOp) : Prop :=
  g.held = [] ∧ g.fault = none ∧ (∀ l ∈ g.landings, l.wait ≠ some s.nextId) ∧
    s.memStalls g op.f.ac.toNat op.size ((g.enabled s.stamp op.f.hd).map (op.va g s.stamp)) = false ∧
    ∀ c < 3, g.wc.get c ≠ 255#8

/-- No earlier store of another alias class stands in the way of an access, and it is not left to perform after later ones
(11 R274). -/
def State.noRace (s : State) (g : Group) (op : MemOp) : Prop :=
  op.f.ac = 0#4 ∨ (g.recent = [] ∧ Config.loadWaits s.stamp s.nextId = false)

/-- A local access that performs: it issues, no arrival of its group is on its way to a barrier object, every enabled lane is
aligned and lies in the team's banks, and no byte that is read is poisoned. -/
def State.localAccess (s : State) (gid : Nat) (g : Group) (op : MemOp) : Prop :=
  s.mayIssue g op ∧ s.noRace g op ∧ (∀ a ∈ s.arrivals, a.gid ≠ gid) ∧
    ∀ j ∈ g.enabled s.stamp op.f.hd, op.va g s.stamp j % op.size = 0 ∧
      ∃ p, s.placeOf g op j = some p ∧ (op.kind.reads = true → s.locPoisoned p op.size = false)

/-- A global access of one lane `j` that performs at home: it issues, is aligned, its translation is the leaf `l` of a
page of this device's or the host's memory, no byte that is read is poisoned, and neither an L1 copy of its core nor a copy in
the last-level cache nor a working copy of its context nor the host's cache holds the bytes; and nothing waits at the home. -/
def State.globalAccess (s : State) (g : Group) (op : MemOp) (j : Nat) (l : Leaf) : Prop :=
  let va := op.va g s.stamp j
  let pa := l.pa va
  s.mayIssue g op ∧ s.noRace g op ∧ g.enabled s.stamp op.f.hd = [j] ∧ va % op.size = 0 ∧ isLocal va = false ∧
    (s.translateBx (s.coreOf g) (s.ctxOf g) ((KMap.look g.bx op.f.bx.toNat).getD Bx.invalid) va op.size op.kind.acc).1 = .ok l ∧
    l.rem = false ∧ isRegSpace pa = false ∧ s.workOf (s.ctxOf g) pa = none ∧ s.homeBusy pa = false ∧ s.incAt pa op.size = false ∧
    (op.kind.reads = true → s.poisoned pa op.size = false) ∧
    (∀ c ∈ s.l1, ¬ ((c.core = s.coreOf g ∨ c.core = Config.llcCore) ∧ c.line = pa / 128)) ∧ pa / 128 ∉ s.hostLines

/-- Register `k` of a load of width `sub` whose bytes are `x` (05 R124). -/
def loadedWord (sub x k : Nat) : Word :=
  match sub % 8 with
  | 1 => (BitVec.ofNat 8 x).signExtend 32
  | 3 => (BitVec.ofNat 16 x).signExtend 32
  | _ => BitVec.ofNat 32 (x / 2 ^ (32 * k))

/-- The new value of a read-modify-write (05 R128). -/
def rmwRule (sub : Nat) (old d : Word) : Word :=
  match sub with
  | 0 => BitVec.ofNat 32 (old.toNat + d.toNat)
  | 1 => if old.toInt ≤ d.toInt then old else d
  | 2 => if old.toNat ≤ d.toNat then old else d
  | 3 => if d.toInt ≤ old.toInt then old else d
  | 4 => if d.toNat ≤ old.toNat then old else d
  | 5 => old &&& d
  | 6 => old ||| d
  | 7 => old ^^^ d
  | 8 => d
  | _ => BitVec.ofNat 32 (fAdd (envOf 0#32) fp32 (decodeF fp32 false old.toNat) (decodeF fp32 false d.toNat)).1

/-- A byte of local memory. -/
def State.locByte (s : State) (hid : Nat) (tob : Bool) (off : Nat) : List Byte := s.locBytes ⟨hid, tob, off⟩ 1

/-- Whether a byte of local memory lies in lane `j`'s access. -/
def LPlace.covers (p : LPlace) (n hid : Nat) (tob : Bool) (off : Nat) : Prop :=
  p.hid = hid ∧ p.tob = tob ∧ p.off ≤ off ∧ off < p.off + n

/-! ### Sequences of a KV cache -/

/-- The ranges of a Tarn's structures and pools: base and bytes (18 R348, R350, R351). -/
def TarnCfg.areas (t : TarnCfg) : List (Nat × Nat) :=
  [(t.seqbase, 16 * t.nseq), (t.descbase, 16 * t.npage), (t.rowbase, 4 * t.npage * t.rows), (t.blkbase, 4 * t.nseq * t.maxblk),
    (t.retbase, t.nseq * t.maxblk * t.rows / 8), (t.kbase0, t.nframe0 * t.rows * t.rowLen 0),
    (t.vbase0, t.nframe0 * t.rows * t.rowLen 0), (t.kbase1, t.nframe1 * t.rows * t.rowLen 1),
    (t.vbase1, t.nframe1 * t.rows * t.rowLen 1), (t.skbase1, t.nframe1 * t.rows * (t.elem / 32)),
    (t.svbase1, t.nframe1 * t.rows * (t.elem / 32))]

/-- An address of a Tarn's structures and pools. -/
def TarnCfg.owns (t : TarnCfg) (va : Nat) : Prop := ∃ a ∈ t.areas, a.1 ≤ va ∧ va < a.1 + a.2

/-- A record's limits (18 R348). -/
def TarnCfg.sound (t : TarnCfg) : Prop :=
  (t.rows = 16 ∨ t.rows = 32 ∨ t.rows = 64) ∧ t.npage ≤ 2 ^ 20 ∧ t.nframe0 ≤ 2 ^ 20 ∧ t.nframe1 ≤ 2 ^ 20 ∧ t.elem % 32 = 0 ∧ t.defenc < 2

/-- The physical address of a Tarn's byte, where `L` gives the leaf of every page of 64 KiB. -/
def paOf (L : Nat → Leaf) (va : Nat) : Nat := (L (va / 65536)).pa va

/-- Tarn can read and write its structures and pools: `L` gives the leaf of every page, whatever those bytes hold (no
translation table lies among them), no line of theirs is poisoned or with the host, and nothing waits at their homes
(18 R349; 25 R425; 26 R438). -/
def Kv.reaches (k : Kv) (L : Nat → Leaf) : Prop :=
  (∀ va, k.t.owns va → (L (va / 65536)).va ≤ va / 65536 * 65536 ∧ paOf L va / 128 ∉ k.s.poison ∧
    paOf L va / 128 ∉ k.s.hostLines ∧ paOf L va / 128 ∉ k.s.backInv) ∧
  (∀ e ∈ k.s.incs, ∀ i ∈ e.2, i.begun = false) ∧
  ∀ s : State, s.parts = k.s.parts → (∀ a, (∀ va, k.t.owns va → paOf L va ≠ a) → s.mem.get a = k.s.mem.get a) →
    ∀ va w, k.t.owns va → ({ k.toHome with s := s } : Home).leaf va w = .ok (L (va / 65536))

/-- No two ranges of a Tarn overlap, and no two of its bytes have one physical address. -/
def Kv.apart (k : Kv) (L : Nat → Leaf) : Prop :=
  k.t.areas.Pairwise (fun a b => a.1 + a.2 ≤ b.1 ∨ b.1 + b.2 ≤ a.1) ∧
    ∀ va va', k.t.owns va → k.t.owns va' → paOf L va = paOf L va' → va = va'

/-- Sequence `q` is the valid entry `e`, whose block list and rows are within their limits (18 R348, R350). -/
def Kv.holds (k : Kv) (q : Nat) (e : KSeq) : Prop := k.named q = .ok e ∧ e.nblk ≤ k.t.maxblk ∧ e.nrows ≤ e.nblk * k.t.rows

/-- Frames of an encoding. -/
def TarnCfg.frames (t : TarnCfg) (enc : Nat) : Nat := if enc = 0 then t.nframe0 else t.nframe1

/-- Some sequence entry is not valid. -/
def Kv.hasFree (k : Kv) : Prop := ∃ i < k.t.nseq, k.validAt i = .ok false

/-- The Tarn operations, whose tag and sequence are checked at their unit (18 R354). -/
def tarnOp (i : Instr) : Bool :=
  match i with
  | .kvnew _ | .kvfork _ | .kvapp _ | .kvmap _ | .kvret _ | .kvfree _ | .kvcpt _ => true
  | _ => false

/-- No count of holders of a block of `q` would pass 65535 if each of its places were held once more (18 R354). -/
def Kv.mayShare (k : Kv) (q : Nat) (e : KSeq) : Prop :=
  ∀ bs, k.blks q e.nblk = .ok bs → ∀ d ∈ bs, d ≠ hole → ∀ x, k.desc d = .ok x → x.refcnt + bs.count d ≤ 65535

/-- A row may be appended to `q` (18 R354, R356): a position is left; a new block finds room, a descriptor and a frame; a tail
block is no hole and has a row free, and where others hold it too, a descriptor and a frame are free for its copy. -/
def Kv.mayAppend (k : Kv) (q : Nat) (e : KSeq) : Prop :=
  e.nextpos < 2 ^ 29 ∧
  (e.nrows % k.t.rows = 0 → e.nblk < k.t.maxblk ∧ k.freeDescs ≠ [] ∧ k.freeFrames k.t.defenc ≠ []) ∧
  (e.nrows % k.t.rows ≠ 0 → ∃ d x, k.blk q (e.nblk - 1) = .ok d ∧ d ≠ hole ∧ k.desc d = .ok x ∧ x.fill < k.t.rows ∧
    (1 < x.refcnt → x.frame < k.t.frames x.enc ∧ k.freeDescs ≠ [] ∧ k.freeFrames x.enc ≠ []))

/-- `q` may be rebuilt (18 R354, R358): its live rows lie in pages that are held, in frames of their pool, and there are
descriptors and frames for all the new pages. -/
def Kv.mayCompact (k : Kv) (q : Nat) (e : KSeq) : Prop :=
  ∀ bs l, k.blks q e.nblk = .ok bs → k.liveRows q e bs = .ok l →
    (∀ r ∈ l, ∀ x, k.desc r.2.1 = .ok x → x.refcnt ≠ 0 ∧ x.frame < k.t.frames x.enc) ∧
    (cptPages k.t.rows l).length ≤ k.freeDescs.length ∧
    ∀ enc < 2, (cptPages k.t.rows l).countP (fun p => p.1 == enc) ≤ (k.freeFrames enc).length

/-! ### Tile operations -/

/-- The tile context `t` of half `hid` is at work in the image `m` and may run `i`; no hardware loop is active and no write of
`cfm` is on its way. -/
def State.tileAtWork (s : State) (hid : Nat) (h : Half) (t : Tile) (m : Image) (i : Instr) : Prop :=
  s.cur = .tile hid ∧ KMap.look s.halves hid = some h ∧ h.tile = some t ∧ s.imageOf h = some m ∧ i.check 256 = none ∧
    t.loops = [] ∧ t.cfmNext = []

/-- What is left of a tile context without its registers and its three addresses. -/
def Tile.beside (t : Tile) : Tile :=
  { t with
    c := [], ap := [], lc := [], sd := [], w := [], t := [], cfm := 0#32, cfmNext := [], pc := 0, npc := 0, nnpc := 0
    after := 0, queued := 0, rem := [], an0 := false, an1 := false, loops := [], lands := [] }

/-- The machine `u` is `s` but for the tile context of half `hid`, which is now `t'`, and the half's counts of retries. -/
def OnlyTile (s u : State) (hid : Nat) (h : Half) (t' : Tile) : Prop :=
  ∃ r, u = { s with halves := KMap.put s.halves hid { h with tile := some t', retries := r } }

/-- The sequencer stepped from `t` to `t'`, and `nn` is the position that entered last (06 R165). -/
def Tile.steps (m : Image) (t t' : Tile) (nn : Nat) : Prop :=
  t'.pc = t.npc ∧ t'.npc = t.nnpc ∧ t'.nnpc = nn ∧ t'.after = m.seq nn

/-- Every register of a tile context outside some keys holds what it held. -/
def Tile.leaves (t t' : Tile) (ds : List Nat) : Prop := ∀ k, k ∉ ds → t'.cur k = t.cur k

/-- A tile operation that completes where a condition holds, writes registers under the keys `ds` only, and steps on. -/
def TileRuns (i : Instr) (cond : State → Half → Tile → Prop) (ds : List Nat) (P : State → Half → Tile → Tile → Prop) : Prop :=
  ∀ s hid h t m, s.tileAtWork hid h t m i → cond s h t → ∃ u t', exec i s = .next u ∧ OnlyTile s u hid h t' ∧
    t.steps m t' t.after ∧ { t'.beside with cfx := t.cfx } = t.beside ∧ (∃ fl, t'.cfx = t.cfx ||| fl) ∧
    ((∀ f g, i ≠ .vcas f ∧ i ≠ .vcvt g ∧ i ≠ .vred g) → t'.cfx = t.cfx) ∧ t.leaves t' ds ∧ P s h t t'

/-- A tile operation that completes where a condition holds and enters one command, with everything it captures and its
barrier, at the tail of the queue `key` (07 R196): the command joins the open batch, and no register changes. -/
def TilePushes (i : Instr) (cond : TileX → Prop) (key : TileX → Nat) (cmd : TileX → Cmd) (bar : Option (Nat × Nat)) : Prop :=
  ∀ s hid h t m, s.tileAtWork hid h t m i →
    let x : TileX := ⟨s, hid, h, t, s.nextId⟩
    cond x → ∃ u t' h' e, exec i s = .next u ∧ KMap.look u.halves hid = some h' ∧ h'.tile = some t' ∧ t.steps m t' t.after ∧
      t.leaves t' [] ∧ { t'.beside with batchOpen := t.batchOpen } = t.beside ∧ t'.batchOpen = t.batchOpen ++ [s.nextId] ∧
      u.queue (key x) = s.queue (key x) ++ [e] ∧ e.cmd = cmd x ∧ e.id = s.nextId ∧ e.fm = t.cfm ∧ e.issuer = .tile hid ∧
      e.bar = bar ∧ u.nextId = s.nextId + 1 ∧ u.mem = s.mem ∧ u.groups = s.groups

/-- Scalar register `r` as an operation in step `stamp` reads it. -/
def Tile.rc (t : Tile) (stamp : Nat) (r : BitVec 5) : Word := BitVec.ofNat 32 (t.read stamp r.toNat)
/-- Address pointer `r`. -/
def Tile.rap (t : Tile) (stamp : Nat) (r : Nat) : DWord := BitVec.ofNat 64 (t.read stamp (tkAp r))
/-- Vector register `r`. -/
def Tile.rw (t : Tile) (stamp : Nat) (r : Nat) : Nat := t.read stamp (tkW r)

/-- A local place of a sequencer access: pointer `p` is a local offset, the address is a multiple of `al`, and `n` bytes lie
in the half's banks (07 R176). -/
def State.seqPlace (s : State) (hid : Nat) (t : Tile) (p : Nat) (imm : BitVec 16) (n al : Nat) (q : LPlace) : Prop :=
  (t.rap s.stamp p).getLsbD 63 = false ∧ (loWord (t.rap s.stamp p) + imm.signExtend 32).toNat % al = 0 ∧
    s.localPlace hid (loWord (t.rap s.stamp p) + imm.signExtend 32).toNat n = some q

/-- A scalar result: register `d` holds `v`. -/
def ScalarIs (d : BitVec 5) (v : State → Half → Tile → Word) : State → Half → Tile → Tile → Prop :=
  fun s h t t' => t'.c.get d.toNat = v s h t

/-- A vector result, element by element of width `b`. -/
def VectorIs (r b : Nat) (v : State → Tile → Nat → Nat) : State → Half → Tile → Tile → Prop :=
  fun s _ t t' => ∀ i < 4096 / b, elem (t'.vec r) b i = v s t i

/-! ### Streams -/

/-- Stream `n` of context `c` is at work and may run `i`. -/
def State.streamAtWork (s : State) (n : Nat) (x : Stream) (c : Ctx) (i : Instr) : Prop :=
  s.cur = .stream n ∧ KMap.look s.streams n = some x ∧ KMap.look s.ctxs x.ctx = some c ∧ i.check 256 = none

/-- The unit that reads at the home for stream `x` (22 R383). -/
def State.streamHome (s : State) (x : Stream) (c : Ctx) : Home := ⟨s, x.ctx, c, s.chipTime⟩

/-- A stream behind an instruction that has started, which is complete or waits for `w` (22 R386). -/
def Stream.started (x : Stream) (w : Option SWait) : Stream :=
  { x with
    pc := x.pc + 8#64, count := x.count + 1
    ins := x.ins.filter (fun e => e.idx ≠ x.count) ++ (w.toList).map (fun w => (⟨x.count, x.pc, w, false, []⟩ : SIns)) }

/-- The machine `t` is `s` but for stream `n`, which is now `x'`. -/
def OnlyStream (s t : State) (n : Nat) (x' : Stream) : Prop := t = { s with streams := KMap.put s.streams n x' }

/-! ### Words -/

/-- The set of words that an instruction belongs to: lane instructions (03 R74), tile operations (06 R157), stream
instructions (22 R388); none for an event or a command. -/
def wordSetOf (i : Instr) : Option WordSet :=
  match i with
  | .nop _ | .iadd _ | .isub _ | .imul _ | .imad _ | .imulh _ | .imadw _ | .imin _ | .imax _ | .iabs _ | .iaddImm _
  | .imulImm _ | .iminImm _ | .imaxImm _ | .shl _ | .shr _ | .sar _ | .shlImm _ | .shrImm _ | .sarImm _ | .and _
  | .or _ | .xor _ | .andn _ | .andImm _ | .orImm _ | .xorImm _ | .andnImm _ | .lop3 _ | .popc _ | .clz _ | .brev _
  | .bfx _ | .bfi _ | .prm _ | .sel _ | .mov _ | .iset _ | .isetImm _ | .movi _ | .movl _ | .lea _ | .xlat _
  | .fadd _ | .fsub _ | .fmul _ | .fma _ | .fmin _ | .fmax _ | .fset _ | .frnd _ | .fclass _ | .hadd2 _ | .hmul2 _
  | .hfma2 _ | .hmin2 _ | .hmax2 _ | .padd4 _ | .pmul4 _ | .pmax4 _ | .dot4 _ | .dot8 _ | .dot4s _ | .dot8s _
  | .cvt _ | .cvtp _ | .pack _ | .unpack _ | .rcp _ | .rsq _ | .sqrt _ | .ex2 _ | .lg2 _ | .sin _ | .cos _ | .tanh _
  | .shfl _ | .vote _ | .matchL _ | .redx _ | .plopAnd _ | .plopOr _ | .plopXor _ | .plopAndn _ | .pmov _ | .p2g _
  | .g2p _ | .bra _ | .bany _ | .ball _ | .bnone _ | .call _ | .brx _ | .ret _ | .exit _ | .yield _ | .msplit _
  | .mjoin _ | .bkpt _ | .ld _ | .st _ | .ldb _ | .ldacq _ | .strel _ | .atom _ | .red _ | .atomc _ | .prf _
  | .lkup _ | .tagset _ | .ckout _ | .ckin _ | .round _ | .fence _ | .qfence _ | .bar _ | .barm _ | .barinit _
  | .arrive _ | .waitb _ | .tryw _ | .waitc _ | .drain _ | .trigger _ | .waitpred _ | .cpy _ | .cpyx _ | .cpym _
  | .mklay _ | .rmlay _ | .gate _ | .reggrow _ | .regshr _ | .trap _ | .gets _ | .sets _ | .qfeat _ | .qphys _
  | .kvnew _ | .kvfork _ | .kvapp _ | .kvmap _ | .kvret _ | .kvfree _ | .kvcpt _ => some .lane
  | .cnop _ | .cadd _ | .csub _ | .cmul _ | .cand _ | .cor _ | .cxor _ | .cshl _ | .cshr _ | .csar _ | .cmov _
  | .cmovi _ | .ccmp _ | .cld _ | .cst _ | .jmp _ | .jc _ | .jal _ | .jr _ | .loop _ | .cgets _ | .csets _ | .gret _
  | .apset _ | .apadd _ | .sdset _ | .lcset _ | .apld _ | .vcas _ | .vld _ | .vst _ | .vldb _ | .vcvt _ | .vred _
  | .vbcast _ | .vperm _ | .vsel _ | .tbind _ | .sfill _ | .sdrop _ | .mma _ | .mmaz _ | .ast _ | .ald _ | .amask _
  | .tskip _ | .trn _ | .vgmv _ | .tileCpy _ | .tileCpyx _ | .tileCpym _ | .bfence _ | .bwait _ | .tileQfence _
  | .tileDrain _ | .tileRound _ => some .tile
  | .launch _ | .xfer _ | .sigevAdd _ | .sigevSet _ | .waitev _ | .twait _ | .hand _ | .res _ | .resRelease _
  | .jump _ | .halt _ | .snop _ => some .stream
  | _ => none

/-- A step that goes on. -/
def Steps (s t : State) : Prop := step s = .next t

/-- The states that runs from `s` reach. -/
inductive Reaches (s : State) : State → Prop where
  | here : Reaches s s
  | step {t u : State} : Reaches s t → Steps t u → Reaches s u

end Sys2Proof.Machine
end

