-- ==== Sys2Proof/Certificates/Slice0/Obligations.lean ====
section
/-! DEFINITION. Obligations.lean: the statements for the provers, each after a rule of the spec. -/
open Sys2Proof Sys2Proof.Machine

/-! ### Lane instructions that write registers -/

/-- Every integer instruction completes in every form that its checks accept, and changes its destination registers
only (04 R82 to R90, 03 R71, R72). -/
def Claim.IntegerFrames : Prop := ∀ i ds, intDests i = some ds → Goes i ds

/-- Every floating-point, packed, conversion and special-function instruction completes, and changes its destination and
the sticky flags of the enabled lanes only (04 R92 to R104, 01 R27). -/
def Claim.FloatFrames : Prop := ∀ i ds, fltDests i = some ds → Goes i ds

/-- `nop`, the predicate instructions and the queries complete, and change their destinations only (03 R74, 04 R105,
05 R150). -/
def Claim.BitFrames : Prop := ∀ i ds, bitDests i = some ds → Goes i ds

/-- Every instruction that only writes registers completes, and changes its destinations only: the integer instructions (04
R82 to R90), the floating-point, packed, conversion and special-function ones with the sticky flags (04 R92 to R104, 01 R27),
`nop`, the predicate instructions and the queries (03 R74, 04 R105, 05 R150). -/
def Obligations.RegisterFrames : Prop := Claim.IntegerFrames ∧ Claim.FloatFrames ∧ Claim.BitFrames

/-- The integer arithmetic instructions deliver the exact result of their sources through their clamp (04 R84, R85). -/
def Obligations.IntegerResults : Prop :=
  (∀ f : RFmt,
    LaneResult (.iadd f) f.d (intResult f (fun a b _ => a + b)) ∧
    LaneResult (.isub f) f.d (intResult f (fun a b _ => a - b)) ∧
    LaneResult (.imul f) f.d (intResult f (fun a b _ => a * b)) ∧
    LaneResult (.imad f) f.d (intResult f (fun a b c => a * b + c)) ∧
    LaneResult (.imulh f) f.d (intResult f (fun a b _ => a * b / 2 ^ 32)) ∧
    LaneResult (.imin f) f.d (intResult f (fun a b _ => min a b)) ∧
    LaneResult (.imax f) f.d (intResult f (fun a b _ => max a b)) ∧
    LaneResult (.iabs f) f.d (intResult f (fun a _ _ => (a.natAbs : Int)))) ∧
  (∀ f : IFmt,
    LaneResult (.iaddImm f) f.d (intResultImm f (fun a b => a + b)) ∧
    LaneResult (.imulImm f) f.d (intResultImm f (fun a b => a * b)) ∧
    LaneResult (.iminImm f) f.d (intResultImm f (fun a b => min a b)) ∧
    LaneResult (.imaxImm f) f.d (intResultImm f (fun a b => max a b)))

/-- The shifts fill with zeros or with the sign, for any count (04 R86). -/
def Claim.ShiftResults : Prop :=
  (∀ f : RFmt,
    LaneResult (.shl f) f.d (fun g st j x => x = g.rv st f.a j <<< (g.rB st f j).toNat) ∧
    LaneResult (.shr f) f.d (fun g st j x => x = g.rv st f.a j >>> (g.rB st f j).toNat) ∧
    LaneResult (.sar f) f.d (fun g st j x => x = (g.rv st f.a j).sshiftRight (g.rB st f j).toNat)) ∧
  (∀ f : IFmt,
    LaneResult (.shlImm f) f.d (fun g st j x => x = g.rv st f.a j <<< f.imm.toNat) ∧
    LaneResult (.shrImm f) f.d (fun g st j x => x = g.rv st f.a j >>> f.imm.toNat) ∧
    LaneResult (.sarImm f) f.d (fun g st j x => x = (g.rv st f.a j).sshiftRight f.imm.toNat))

/-- The logic instructions act on each bit; `lop3` looks its truth table up (04 R86). -/
def Claim.LogicResults : Prop :=
  (∀ f : RFmt,
    LaneResult (.and f) f.d (fun g st j x => x = g.rv st f.a j &&& g.rB st f j) ∧
    LaneResult (.or f) f.d (fun g st j x => x = g.rv st f.a j ||| g.rB st f j) ∧
    LaneResult (.xor f) f.d (fun g st j x => x = g.rv st f.a j ^^^ g.rB st f j) ∧
    LaneResult (.andn f) f.d (fun g st j x => x = g.rv st f.a j &&& ~~~ g.rB st f j) ∧
    LaneResult (.lop3 f) f.d (fun g st j x => ∀ b < 32, x.getLsbD b =
      (f.cl ++ f.mods).getLsbD (7 - (4 * ((g.rv st f.a j).getLsbD b).toNat + 2 * ((g.rB st f j).getLsbD b).toNat +
        ((g.rv st f.c j).getLsbD b).toNat))) ∧
    LaneResult (.brev f) f.d (fun g st j x => ∀ b < 32, x.getLsbD b = (g.rv st f.a j).getLsbD (31 - b)) ∧
    LaneResult (.sel f) f.d (fun g st j x => x = if g.rk st f.c.toNat j then g.rv st f.a j else g.rB st f j)) ∧
  (∀ f : IFmt,
    LaneResult (.andImm f) f.d (fun g st j x => x = g.rv st f.a j &&& f.imm.setWidth 32) ∧
    LaneResult (.orImm f) f.d (fun g st j x => x = g.rv st f.a j ||| f.imm.setWidth 32) ∧
    LaneResult (.xorImm f) f.d (fun g st j x => x = g.rv st f.a j ^^^ f.imm.setWidth 32) ∧
    LaneResult (.andnImm f) f.d (fun g st j x => x = g.rv st f.a j &&& ~~~ f.imm.setWidth 32))

/-- `popc` counts set bits and `clz` leading zeros; `bfx` extracts a field with zeros or its sign above it, `bfi` inserts one,
and `prm` picks bytes of C : A or repeats their sign (04 R86, R87). -/
def Claim.FieldResults : Prop :=
  ∀ f : RFmt,
    let pos (g : Group) (st j : Nat) : Nat := (g.rv st f.b j).toNat % 256
    let len (g : Group) (st j : Nat) : Nat := min ((g.rv st f.b j).toNat / 256 % 256) (32 - pos g st j)
    LaneResult (.popc f) f.d (fun g st j x => x.toNat = ((List.range 32).filter (fun b => (g.rv st f.a j).getLsbD b)).length) ∧
    LaneResult (.clz f) f.d (fun g st j x => x.toNat ≤ 32 ∧ (∀ b, 32 - x.toNat ≤ b → b < 32 → (g.rv st f.a j).getLsbD b = false) ∧
      (x.toNat < 32 → (g.rv st f.a j).getLsbD (31 - x.toNat) = true)) ∧
    LaneResult (.bfx f) f.d (fun g st j x => ∀ b < 32, x.getLsbD b =
      if len g st j = 0 then false
      else if b < len g st j then (g.rv st f.a j).getLsbD (pos g st j + b)
      else f.sub == 1#4 && (g.rv st f.a j).getLsbD (pos g st j + len g st j - 1)) ∧
    LaneResult (.bfi f) f.d (fun g st j x => ∀ b < 32, x.getLsbD b =
      if pos g st j ≤ b ∧ b < pos g st j + len g st j then (g.rv st f.a j).getLsbD (b - pos g st j)
      else (g.rv st f.c j).getLsbD b) ∧
    LaneResult (.prm f) f.d (fun g st j x => ∀ k < 4, ∀ b < 8,
      let s : Nat := (g.rv st f.b j).toNat / 16 ^ k % 16
      let bit (n : Nat) : Bool := if n < 32 then (g.rv st f.a j).getLsbD n else (g.rv st f.c j).getLsbD (n - 32)
      x.getLsbD (8 * k + b) = bit (8 * (s % 8) + if 8 ≤ s then 7 else b))

/-- The moves: `mov` between lane and group-uniform registers, from the lowest enabled lane where it leaves the lanes, `movi`
and `movl` of their immediates (04 R88). -/
def Claim.MoveResults : Prop :=
  (∀ f : RFmt, f.sub.toNat < 2 →
    LaneResult (.mov f) f.d (fun g st j x => x = if f.sub = 0#4 then g.rv st f.a j else g.rg st f.a)) ∧
  (∀ (f : RFmt) s gid g, s.atWork gid g (.mov f) → 2 ≤ f.sub.toNat → f.d.toNat < 64 → ∃ t g', exec (.mov f) s = .next t ∧
    KMap.look t.groups gid = some g' ∧ ∃ x : Word, g'.cur (kg f.d.toNat) = x.setWidth 64 ∧
      (f.sub = 3#4 → x = g.rg s.stamp f.a) ∧
      (f.sub = 2#4 → ∀ en, g.enabled s.stamp f.hd = en → (en = [] → x = 0#32) ∧ ∀ j r, en = j :: r → x = g.rv s.stamp f.a j)) ∧
  (∀ f : IFmt, LaneResult (.movi f) f.d (fun _ _ _ x => x =
    if f.sub = 0#4 then f.imm.signExtend 32 else f.imm.setWidth 32 <<< 16)) ∧
  (∀ f : LFmt, f.sub = 0#4 → LaneResult (.movl f) f.d (fun _ _ _ x => x = f.imm)) ∧
  ∀ (f : LFmt) s gid g, s.atWork gid g (.movl f) → f.sub ≠ 0#4 → f.d.toNat < 64 → ∃ t g', exec (.movl f) s = .next t ∧
    KMap.look t.groups gid = some g' ∧ g'.cur (kg f.d.toNat) = f.imm.setWidth 64

/-- `imadw` without a clamp delivers A × B + C modulo 2^64 to its pair (04 R84, R85). -/
def Claim.WideProduct : Prop :=
  ∀ (f : RFmt) s gid g, s.atWork gid g (.imadw f) → f.cl = 0#2 → ∃ t g', exec (.imadw f) s = .next t ∧
    KMap.look t.groups gid = some g' ∧ ∀ j ∈ g.enabled s.stamp f.hd, f.d ≠ 255#8 →
      let sg : Bool := f.sub == 0#4
      let c := g.rvPair s.stamp f.c j
      let y := if sg && f.mc.1 && c.msb then -c else c
      let x : DWord := BitVec.ofInt 64 (intIn sg f.ma (g.rv s.stamp f.a j) * intIn sg f.mb (g.rB s.stamp f j)) +
        if f.mc.2 then -y else y
      (g'.cur (kv f.d.toNat j)).toNat = x.toNat % 2 ^ 32 ∧ (g'.cur (kv (f.d.toNat + 1) j)).toNat = x.toNat / 2 ^ 32

/-- The shifts, the logic and bit-field instructions and the moves give what 04 R86 to R88 say, and `imadw` what 04 R85 says. -/
def Obligations.ShiftAndLogicResults : Prop :=
  Claim.ShiftResults ∧ Claim.LogicResults ∧ Claim.FieldResults ∧ Claim.MoveResults ∧ Claim.WideProduct

/-- `iset` writes the relation that SUB bits 2:0 name, signed or unsigned by bit 3, of A and B or the sign-extended immediate to
the enabled lanes' bits of kD; values 6 and 7 are reserved, field C is unused, and the opcodes are 0x26 and 0x38 (04 R89). -/
def Obligations.CompareResults : Prop :=
  let rel (sub : BitVec 4) (a b : Word) : Bool :=
    match sub.toNat with
    | 0 | 8 => decide (a = b)
    | 1 | 9 => decide (a ≠ b)
    | 2 => decide (a.toInt < b.toInt)
    | 3 => decide (a.toInt ≤ b.toInt)
    | 4 => decide (b.toInt < a.toInt)
    | 5 => decide (b.toInt ≤ a.toInt)
    | 10 => decide (a.toNat < b.toNat)
    | 11 => decide (a.toNat ≤ b.toNat)
    | 12 => decide (b.toNat < a.toNat)
    | _ => decide (b.toNat ≤ a.toNat)
  (∀ f : RFmt, PredResult (.iset f) f.d (fun g st j => rel f.sub (g.rv st f.a j) (g.rB st f j))) ∧
  (∀ f : IFmt, PredResult (.isetImm f) f.d (fun g st j => rel f.sub (g.rv st f.a j) (f.imm.signExtend 32))) ∧
  (∀ (f : RFmt) n, (6 ≤ f.sub.toNat % 8 → Instr.check n (.iset f) = some 0) ∧
    (f.c ≠ 255#8 → ∃ c, Instr.check n (.iset f) = some c) ∧ fld (encode (.iset f)) 0 8 = 0x26) ∧
  ∀ (f : IFmt) n, (6 ≤ f.sub.toNat % 8 → Instr.check n (.isetImm f) = some 0) ∧ fld (encode (.isetImm f)) 0 8 = 0x38

/-- `lea` adds the extended and shifted A to the group-uniform pair B, modulo 2^64, in every enabled lane; SUB bit 3 must be zero,
field C is unused, and it takes no modifier and no clamp; its opcode is 0x29 (04 R90). -/
def Obligations.LeaResult : Prop :=
  (∀ (f : RFmt) s gid g, s.atWork gid g (.lea f) → ∃ t g', exec (.lea f) s = .next t ∧ KMap.look t.groups gid = some g' ∧
    ∀ j ∈ g.enabled s.stamp f.hd,
      let a : Nat := if f.sub.getLsbD 2 then ((g.rv s.stamp f.a j).signExtend 64).toNat else (g.rv s.stamp f.a j).toNat
      let x := ((g.rgPair s.stamp f.b).toNat + a * 2 ^ (f.sub.toNat % 4)) % 2 ^ 64
      (g'.cur (kv f.d.toNat j)).toNat = x % 2 ^ 32 ∧ (g'.cur (kv (f.d.toNat + 1) j)).toNat = x / 2 ^ 32) ∧
  ∀ (f : RFmt) n, (8 ≤ f.sub.toNat → Instr.check n (.lea f) = some 0) ∧
    (f.c ≠ 255#8 ∨ f.mods ≠ 0#6 ∨ f.cl ≠ 0#2 → ∃ c, Instr.check n (.lea f) = some c) ∧ fld (encode (.lea f)) 0 8 = 0x29

/-- In canonical mode an FP32 sum, product or fused product with a NaN operand is the canonical NaN, as its clamp leaves
it (02 R47, R48; 04 R92). -/
def Obligations.NanResults : Prop :=
  ∀ f : RFmt,
    let A (g : Group) (st j : Nat) := isNan32 (g.rv st f.a j)
    let B (g : Group) (st j : Nat) := isNan32 (g.rv st f.b j)
    let C (g : Group) (st j : Nat) := isNan32 (g.rv st f.c j)
    let P (any : Group → Nat → Nat → Bool) (g : Group) (st j : Nat) (x : Word) : Prop :=
      g.fm.getLsbD 5 = false → any g st j = true → x = nanClamped f.cl
    LaneResult (.fadd f) f.d (P (fun g st j => A g st j || B g st j)) ∧
    LaneResult (.fsub f) f.d (P (fun g st j => A g st j || B g st j)) ∧
    LaneResult (.fmul f) f.d (P (fun g st j => A g st j || B g st j)) ∧
    LaneResult (.fma f) f.d (P (fun g st j => A g st j || B g st j || C g st j))

/-- The lane-masked predicate instructions act on each enabled lane's bits; `p2g` and `g2p` move whole predicates
(04 R105). -/
def Obligations.PredicateResults : Prop :=
  ∀ f : RFmt,
    PredResult (.plopAnd f) f.d (fun g st j => g.rk st f.a.toNat j && g.rk st f.b.toNat j) ∧
    PredResult (.plopOr f) f.d (fun g st j => g.rk st f.a.toNat j || g.rk st f.b.toNat j) ∧
    PredResult (.plopXor f) f.d (fun g st j => xor (g.rk st f.a.toNat j) (g.rk st f.b.toNat j)) ∧
    PredResult (.plopAndn f) f.d (fun g st j => g.rk st f.a.toNat j && !g.rk st f.b.toNat j) ∧
    PredResult (.pmov f) f.d (fun g st j => g.rk st f.a.toNat j) ∧
    (∀ s gid g, s.atWork gid g (.p2g f) → ∃ t g', exec (.p2g f) s = .next t ∧ KMap.look t.groups gid = some g' ∧
      ∀ b < 64, (g'.cur (kg (f.d.toNat + b / 32))).getLsbD (b % 32) = g.rk s.stamp f.a.toNat b) ∧
    (∀ s gid g, s.atWork gid g (.g2p f) → ∃ t g', exec (.g2p f) s = .next t ∧ KMap.look t.groups gid = some g' ∧
      ∀ b < g.width, b < 64 → g'.cur (kk f.d.toNat b) = if (g.rgPair s.stamp f.a).getLsbD b then 1#64 else 0#64)

/-! ### Cross-lane instructions and control flow -/

/-- With a counter below its limit the cross-lane instructions complete: `wc3` rises by one, and nothing but the destination
(and for `redx` the sticky flags) changes (04 R107 to R111, 01 R23). -/
def Claim.CrossLaneFrames : Prop :=
  ∀ i ds, (match i with
      | .shfl f => some [Dest.lanes f.d 1]
      | .vote f => some [if f.sub == 2#4 then Dest.uni f.d 2 else Dest.pred f.d]
      | .matchL f => some [if f.sub == 0#4 then Dest.lanes f.d 2 else if f.sub == 1#4 then .lanes f.d 1 else .pred f.d]
      | .redx f => some [Dest.uni f.d 1, .flags]
      | _ => none) = some ds →
    ∀ s gid g, s.atWork gid g i → g.wc.get 3 ≠ 255#8 → ∃ t g', exec i s = .next t ∧ OnlyGroup s t gid g' ∧
      g'.pc = nextPc g ∧ g'.beside = g.beside ∧ g'.wc.get 3 = g.wc.get 3 + 1#8 ∧ (∀ c, c ≠ 3 → g'.wc.get c = g.wc.get c) ∧
      Counted g g' ∧ Resumes (headOf i) g' ∧ Leaves g g' s.stamp (headOf i) ds

/-- `shfl` gives each enabled lane the A of its source lane, zero where that lane is absent; `vote` any, all and ballot
(04 R106 to R108). -/
def Claim.CrossLaneResults : Prop :=
  ∀ (f : RFmt) s gid g, g.wc.get 3 ≠ 255#8 →
    (s.atWork gid g (.shfl f) → ∃ t g', exec (.shfl f) s = .next t ∧ KMap.look t.groups gid = some g' ∧
      ∀ j ∈ g.enabled s.stamp f.hd, f.d ≠ 255#8 →
        let b : Nat := (g.rB s.stamp f j).toNat
        let src : Int := match f.sub.toNat with
          | 0 => (b : Int) % g.width
          | 1 => ((j : Int) - b) % g.width
          | 2 => ((j : Int) + b) % g.width
          | _ => ((j ^^^ b : Nat) : Int) % g.width
        g'.cur (kv f.d.toNat j) =
          if g.live.getLsbD src.toNat then (g.rv s.stamp f.a src.toNat).setWidth 64 else 0#64) ∧
    (s.atWork gid g (.vote f) → ∃ t g', exec (.vote f) s = .next t ∧ KMap.look t.groups gid = some g' ∧
      let en := g.enabled s.stamp f.hd
      let on (j : Nat) : Bool := g.rk s.stamp f.a.toNat j
      (f.sub = 0#4 → ∀ j ∈ en, g'.cur (kk f.d.toNat j) = if en.any on then 1#64 else 0#64) ∧
      (f.sub = 1#4 → ∀ j ∈ en, g'.cur (kk f.d.toNat j) = if en.all on then 1#64 else 0#64) ∧
      (f.sub = 2#4 → ∀ b < 64, (g'.cur (kg (f.d.toNat + b / 32))).getLsbD (b % 32) = decide (b ∈ en ∧ on b = true)))

/-- The cross-lane instructions: what they change, and what they give (04 R107 to R111, 01 R23). -/
def Obligations.CrossLane : Prop := Claim.CrossLaneFrames ∧ Claim.CrossLaneResults

/-- Branches go to their target where their condition on the enabled lanes holds, else on, and change nothing else;
`call` leaves the return address in its pair; a register-held target that is aligned is taken (05 R112, R113). -/
def Claim.Branches : Prop :=
  let target (f : BFmt) (g : Group) : DWord := g.pc + 8#64 * f.off.signExtend 64
  let masked (f : BFmt) (g : Group) (st : Nat) : DWord := g.rkAll st f.x.toNat &&& g.em
  ∀ f : BFmt,
    GoesIf (.bra f) (fun _ _ => True) (fun g _ => target f g) [] ∧
    GoesIf (.bany f) (fun _ _ => True) (fun g st => if masked f g st = 0#64 then nextPc g else target f g) [] ∧
    GoesIf (.ball f) (fun _ _ => True) (fun g st => if masked f g st = g.em then target f g else nextPc g) [] ∧
    GoesIf (.bnone f) (fun _ _ => True) (fun g st => if masked f g st = 0#64 then target f g else nextPc g) [] ∧
    GoesIf (.call f) (fun _ _ => True) (fun g _ => target f g) [.uni f.x 2] ∧
    (∀ s gid g, s.atWork gid g (.call f) → ∃ t g', exec (.call f) s = .next t ∧ KMap.look t.groups gid = some g' ∧
      g'.cur (kg (f.x.toNat + 1)) ++ g'.cur (kg f.x.toNat) = (hiWord (nextPc g)).setWidth 64 ++ (loWord (nextPc g)).setWidth 64) ∧
    ∀ f : RFmt,
      GoesIf (.brx f) (fun s g => (g.rgPair s.stamp f.a).toNat % 8 = 0) (fun g st => g.rgPair st f.a) [] ∧
      GoesIf (.ret f) (fun s g => (g.rgPair s.stamp f.a).toNat % 8 = 0) (fun g st => g.rgPair st f.a) []

/-- A register-held branch target whose bits 2:0 are not zero raises MISALIGNED at the branch, with its own address
(03 R61, 05 R113). -/
def Claim.MisalignedTarget : Prop :=
  ∀ (f : RFmt) s gid g, (g.rgPair s.stamp f.a).toNat % 8 ≠ 0 →
    (s.atWork gid g (.brx f) →
      exec (.brx f) s = .next (s.takeTrap gid (trapRec 4 1 (g.rgPair s.stamp f.a) 8#64 0#64 g.pc) [])) ∧
    (s.atWork gid g (.ret f) →
      exec (.ret f) s = .next (s.takeTrap gid (trapRec 4 1 (g.rgPair s.stamp f.a) 8#64 0#64 g.pc) []))

/-- `msplit` saves `em` and narrows it, `mjoin` restores it within `live`; `exit` with lanes left ends the enabled ones;
`yield` goes to the young end with `watch` at zero (01 R18, 05 R114 to R116). -/
def Claim.MaskResults : Prop :=
  ∀ (f : RFmt) s gid g,
    let em' (i : Instr) (m live : DWord) (ds : List Dest) : Prop :=
      ∃ t g', exec i s = .next t ∧ OnlyGroup s t gid g' ∧ g'.pc = nextPc g ∧ g'.em = m ∧ g'.live = live ∧
        { g'.beside with em := g.em, live := g.live } = g.beside ∧ g'.wc = g.wc ∧ Counted g g' ∧ Resumes f.hd g' ∧
        Leaves g g' s.stamp f.hd ds
    (s.atWork gid g (.msplit f) → em' (.msplit f) (g.em &&& g.rkAll s.stamp f.a.toNat &&& g.live) g.live [.uni f.d 2]) ∧
    (s.atWork gid g (.mjoin f) → em' (.mjoin f) (g.rgPair s.stamp f.a &&& g.live) g.live []) ∧
    (s.atWork gid g (.exit f) → g.live &&& ~~~ laneMask (g.enabled s.stamp f.hd) ≠ 0#64 →
      em' (.exit f) (g.em &&& ~~~ laneMask (g.enabled s.stamp f.hd)) (g.live &&& ~~~ laneMask (g.enabled s.stamp f.hd)) []) ∧
    (s.atWork gid g (.yield f) → ∃ t g', exec (.yield f) s = .next t ∧ KMap.look t.groups gid = some g' ∧ g'.pc = nextPc g ∧
      g'.watch = 0#32 ∧ g'.age = s.nextId ∧ { g'.beside with age := g.age } = g.beside ∧ t.mem = s.mem ∧
      KMap.look t.last (s.quarterOf g) = none ∧ Leaves g g' s.stamp f.hd [])

/-- Branches, calls and returns, and the instructions that act on the masks of lanes (05 R112 to R116): first, that `bra`, `bany`,
`ball`, `bnone`, `call`, `exit`, `yield`, `msplit` and `mjoin` complete whenever a group is at work on them, and `brx` and `ret`
whenever also their target is aligned (05 R113); then what each of them does. -/
def Obligations.ControlFlow : Prop :=
  (∀ (f : BFmt) s gid g,
    (s.atWork gid g (.bra f) → ∃ t, exec (.bra f) s = .next t) ∧
    (s.atWork gid g (.bany f) → ∃ t, exec (.bany f) s = .next t) ∧
    (s.atWork gid g (.ball f) → ∃ t, exec (.ball f) s = .next t) ∧
    (s.atWork gid g (.bnone f) → ∃ t, exec (.bnone f) s = .next t) ∧
    (s.atWork gid g (.call f) → ∃ t, exec (.call f) s = .next t)) ∧
  (∀ (f : RFmt) s gid g,
    (s.atWork gid g (.brx f) → (g.rgPair s.stamp f.a).toNat % 8 = 0 → ∃ t, exec (.brx f) s = .next t) ∧
    (s.atWork gid g (.ret f) → (g.rgPair s.stamp f.a).toNat % 8 = 0 → ∃ t, exec (.ret f) s = .next t) ∧
    (s.atWork gid g (.exit f) → ∃ t, exec (.exit f) s = .next t) ∧
    (s.atWork gid g (.yield f) → ∃ t, exec (.yield f) s = .next t) ∧
    (s.atWork gid g (.msplit f) → ∃ t, exec (.msplit f) s = .next t) ∧
    (s.atWork gid g (.mjoin f) → ∃ t, exec (.mjoin f) s = .next t)) ∧
  Claim.Branches ∧ Claim.MaskResults

/-! ### Lane memory instructions -/

/-- `ld`, `ldb` and `ldacq` of local memory give every enabled lane its little-endian bytes, extended as the width says;
`wc1` rises by one where a lane is enabled, and no byte of memory changes (05 R119, R120, R124 to R126).
The model's own choices here: log entry 24. -/
def Claim.LocalLoads : Prop :=
  ∀ i op, memOp i = some op → (∃ f, i = .ld f ∨ i = .ldb f ∨ i = .ldacq f) →
    ∀ s gid g, s.atWork gid g i → s.localAccess gid g op →
      ∃ t g', Advances i s gid g [.lanes op.f.d op.regs] t g' ∧ SameButMem g g' ∧ t.mem = s.mem ∧ t.halves = s.halves ∧
        g'.wc.get 1 = (if g.enabled s.stamp op.f.hd = [] then g.wc.get 1 else g.wc.get 1 + 1#8) ∧
        (∀ c, c ≠ 1 → g'.wc.get c = g.wc.get c) ∧
        (op.f.d ≠ 255#8 → ∀ j ∈ g.enabled s.stamp op.f.hd, ∀ p, s.placeOf g op j = some p → ∀ k < op.regs,
          g'.cur (kv (op.f.d.toNat + k) j) = (loadedWord op.f.sub.toNat (leNat (s.locBytes p op.size)) k).setWidth 64)

/-- `st`, and `strel` with nothing to wait for, store every enabled lane's bytes in local memory, where no other lane
writes them; every other byte stays, and no register changes (05 R119, R122, R124, R127). -/
def Claim.LocalStores : Prop :=
  ∀ i op, memOp i = some op → (∃ f, i = .st f ∨ i = .strel f) →
    ∀ s gid g, s.atWork gid g i → s.localAccess gid g op → ((∃ f, i = .strel f) → s.quiet gid g) →
      ∃ t g', Advances i s gid g [] t g' ∧ SameButMem g g' ∧ t.mem = s.mem ∧
        (∀ hid tob off, (∀ j ∈ g.enabled s.stamp op.f.hd, ∀ p, s.placeOf g op j = some p → ¬ p.covers op.size hid tob off) →
          t.locByte hid tob off = s.locByte hid tob off) ∧
        (∀ j ∈ g.enabled s.stamp op.f.hd, ∀ p, s.placeOf g op j = some p →
          (∀ k ∈ g.enabled s.stamp op.f.hd, k ≠ j → ∀ q, s.placeOf g op k = some q → ∀ x < op.size,
            ¬ q.covers op.size p.hid p.tob (p.off + x)) →
          t.locBytes p op.size = leBytes op.size (g.laneData s.stamp op j).toNat)

/-- Loads and stores of local memory (05 R119, R120, R122, R124 to R127). -/
def Obligations.LocalAccesses : Prop := Claim.LocalLoads ∧ Claim.LocalStores

/-- `atom`, `red` and `atomc` of local memory change the bytes of the enabled lanes only; with one lane enabled, the old
value comes back and the new one is stored (05 R128, R129). -/
def Obligations.LocalAtomics : Prop :=
  ∀ i op, memOp i = some op → (∃ f, i = .atom f ∨ i = .red f ∨ i = .atomc f) →
    ∀ s gid g, s.atWork gid g i → s.localAccess gid g op →
      ∃ t g', Advances i s gid g (if op.kind = .atomic false then [] else [.lanes op.f.d (op.size / 4)]) t g' ∧ SameButMem g g' ∧ t.mem = s.mem ∧
        (∀ hid tob off, (∀ j ∈ g.enabled s.stamp op.f.hd, ∀ p, s.placeOf g op j = some p → ¬ p.covers op.size hid tob off) →
          t.locByte hid tob off = s.locByte hid tob off) ∧
        (∀ j p, g.enabled s.stamp op.f.hd = [j] → s.placeOf g op j = some p →
          let old : Nat := leNat (s.locBytes p op.size)
          let data : Nat := (g.laneData s.stamp op j).toNat
          ((∃ f, i = .red f) ∨ op.f.d = 255#8 ∨ ∀ k < op.size / 4,
            g'.cur (kv (op.f.d.toNat + k) j) = ((BitVec.ofNat 32 (old / 2 ^ (32 * k)) : Word)).setWidth 64) ∧
          ((∃ f, i = .atomc f) → t.locBytes p op.size =
            if old = data % 2 ^ (8 * op.size) then leBytes op.size (data / 2 ^ (8 * op.size)) else s.locBytes p op.size) ∧
          ((∃ f, i = .atom f ∨ i = .red f) → t.locBytes p 4 =
            leBytes 4 (rmwRule op.f.sub.toNat (BitVec.ofNat 32 old) (BitVec.ofNat 32 data)).toNat))

/-- A load of one lane from global memory gives the bytes at home, little-endian and extended as the width says, counted in
`wc0`; no byte of memory changes. A `ldb.st` from a round-managed page is left out here: it may wait for its round (05 R120,
R124 to R126).
The model's own choices here: log entries 15 and 16. -/
def Obligations.GlobalLoads : Prop :=
  ∀ i op, memOp i = some op → (∃ f, i = .ld f ∨ i = .ldb f ∨ i = .ldacq f) →
    ∀ s gid g j l, s.atWork gid g i → s.globalAccess g op j l → (l.rounds = true → ∀ b, op.kind ≠ .bounded b true) →
      ∃ t g', Advances i s gid g [.lanes op.f.d op.regs] t g' ∧ SameButMem g g' ∧ t.mem = s.mem ∧ t.halves = s.halves ∧
        g'.wc.get 0 = g.wc.get 0 + 1#8 ∧ (∀ c, c ≠ 0 → g'.wc.get c = g.wc.get c) ∧
        (op.f.d ≠ 255#8 → ∀ k < op.regs, g'.cur (kv (op.f.d.toNat + k) j) =
          (loadedWord op.f.sub.toNat (s.memNat (l.pa (op.va g s.stamp j)) op.size) k).setWidth 64)

/-- A store of one lane to global memory writes its bytes at home and leaves every other byte; no register changes, and
the global write completion time of the line is on its way back (01 R24; 05 R120, R124, R127; 11 R263).
The model's own choices here: log entry 16. -/
def Obligations.GlobalStores : Prop :=
  ∀ i op, memOp i = some op → (∃ f, i = .st f ∨ i = .strel f) →
    ∀ s gid g j l, s.atWork gid g i → s.globalAccess g op j l → ((∃ f, i = .strel f) → s.quiet gid g) →
      let pa := l.pa (op.va g s.stamp j)
      ∃ t g', Advances i s gid g [] t g' ∧ SameButMem g g' ∧ t.halves = s.halves ∧ g'.wc = g.wc ∧
        g'.gwPend = g.gwPend ++ [BitVec.ofNat 64 (s.gwct pa)] ∧
        (∀ a, a < pa ∨ pa + op.size ≤ a → t.mem.get a = s.mem.get a) ∧
        t.memBytes pa op.size = leBytes op.size (g.laneData s.stamp op j).toNat

/-- `atom`, `red` and `atomc` of one lane on global memory give the old value and store the new one at home; every other
byte stays (05 R120, R128, R129). -/
def Obligations.GlobalAtomics : Prop :=
  ∀ i op, memOp i = some op → (∃ f, i = .atom f ∨ i = .red f ∨ i = .atomc f) →
    ∀ s gid g j l, s.atWork gid g i → s.globalAccess g op j l →
      let pa := l.pa (op.va g s.stamp j)
      let old : Nat := s.memNat pa op.size
      let data : Nat := (g.laneData s.stamp op j).toNat
      ∃ t g', Advances i s gid g (if op.kind = .atomic false then [] else [.lanes op.f.d (op.size / 4)]) t g' ∧
        SameButMem g g' ∧ t.halves = s.halves ∧ (∀ c, c ≠ 0 → g'.wc.get c = g.wc.get c) ∧
        g'.wc.get 0 = (if op.kind = .atomic false then g.wc.get 0 else g.wc.get 0 + 1#8) ∧
        (∀ a, a < pa ∨ pa + op.size ≤ a → t.mem.get a = s.mem.get a) ∧
        ((∃ f, i = .red f) ∨ op.f.d = 255#8 ∨ ∀ k < op.size / 4,
          g'.cur (kv (op.f.d.toNat + k) j) = ((BitVec.ofNat 32 (old / 2 ^ (32 * k)) : Word)).setWidth 64) ∧
        ((∃ f, i = .atomc f) → t.memBytes pa op.size =
          if old = data % 2 ^ (8 * op.size) then leBytes op.size (data / 2 ^ (8 * op.size)) else s.memBytes pa op.size) ∧
        ((∃ f, i = .atom f ∨ i = .red f) → t.memBytes pa 4 =
          leBytes 4 (rmwRule op.f.sub.toNat (BitVec.ofNat 32 old) (BitVec.ofNat 32 data)).toNat)

/-- `ckout` of one lane gives status 0, a working copy with the bytes of the block at home, and no other change of memory;
`ckin` of a checked-out block stores the bytes that differ from the twin, and those only, and gives status bit 0 where
another check-in has changed one of them (05 R134; 11 R284, R285). The host holds no line of the block, nothing waits at its
home, and no line is poisoned. -/
def Obligations.CheckOutAndIn : Prop :=
  ∀ (f : MFmt) s gid g j l,
    let op (i : Instr) : MemOp := ⟨f, if i = .ckout f then .ckout else .ckin, 4096, 1⟩
    let va := (op (.ckout f)).va g s.stamp j
    let pa := l.pa va
    let ready : Prop := s.mayIssue g (op (.ckout f)) ∧ g.enabled s.stamp f.hd = [j] ∧ va % 4096 = 0 ∧ isLocal va = false ∧
      (s.translateBx (s.coreOf g) (s.ctxOf g) ((KMap.look g.bx f.bx.toNat).getD Bx.invalid) va 4096 .block).1 = .ok l ∧
      l.rem = false ∧ isRegSpace pa = false ∧ l.so = false ∧ s.mergesAway (s.ctxOf g) pa = false ∧ s.poison = [] ∧ s.incs = [] ∧
      s.remote = [] ∧ ∀ k < 32, pa / 4096 * 32 + k ∉ s.hostLines ∧ pa / 4096 * 32 + k ∉ s.backInv
    let status (i : Instr) (x : Nat) (P : State → Prop) : Prop :=
      ∃ t g', Advances i s gid g [.lanes f.d 1] t g' ∧ SameButMem g g' ∧ t.halves = s.halves ∧ P t ∧
        g'.wc.get 0 = g.wc.get 0 + 1#8 ∧ (f.d ≠ 255#8 → g'.cur (kv f.d.toNat j) = BitVec.ofNat 64 x)
    (s.atWork gid g (.ckout f) → ready → l.mrg = true → s.workOf (s.ctxOf g) pa = none → s.works = [] → s.twins = [] →
      status (.ckout f) 0 (fun t => t.mem = s.mem ∧ ∃ m, t.workOf (s.ctxOf g) pa = some m ∧
        ∀ k < 4096, m.get k = s.mem.get (pa / 4096 * 4096 + k))) ∧
    (s.atWork gid g (.ckout f) → ready → l.mrg = false → status (.ckout f) 2 (fun t => t.mem = s.mem ∧ t.works = s.works)) ∧
    (s.atWork gid g (.ckin f) → ready → s.workOf (s.ctxOf g) pa = none → status (.ckin f) 2 (fun t => t.mem = s.mem)) ∧
    (∀ m w, s.atWork gid g (.ckin f) → ready → s.workOf (s.ctxOf g) pa = some m → KMap.look s.twins (pa / 4096) = some w →
      let late : Bool := (List.range 4096).any (fun k => m.get k != w.bytes.get k && s.mem.get (pa / 4096 * 4096 + k) != w.bytes.get k)
      status (.ckin f) (if late then 1 else 0) (fun t => t.workOf (s.ctxOf g) pa = none ∧
        (∀ k < 4096, t.mem.get (pa / 4096 * 4096 + k) =
          if m.get k = w.bytes.get k then s.mem.get (pa / 4096 * 4096 + k) else m.get k) ∧
        ∀ a, a / 4096 ≠ pa / 4096 → t.mem.get a = s.mem.get a))

/-- A memory instruction with an enabled lane whose address is not a multiple of the width raises MISALIGNED for the first
such lane, with its address, the width and its own program counter, and no lane performs, where no level absorbs the trap
by ignore (05 R118, 26 R436). -/
def Claim.MisalignedAccess : Prop :=
  ∀ i op, memOp i = some op → ∀ s gid g j rest, s.atWork gid g i → s.mayIssue g op → s.ignores gid = false →
    (g.enabled s.stamp op.f.hd).filter (fun j => op.va g s.stamp j % op.size != 0) = j :: rest →
    exec i s = .next (s.takeTrap gid
      (trapRec 4 0 (BitVec.ofNat 64 (op.va g s.stamp j)) (BitVec.ofNat 64 op.size) 0#64 g.pc)
      (i.ignoreWrites g (j :: rest)))

/-- A misaligned branch target or data address raises MISALIGNED at the instruction (03 R61; 05 R113, R118; 26 R436). -/
def Obligations.Misaligned : Prop := Claim.MisalignedTarget ∧ Claim.MisalignedAccess

/-- `prf` changes no register and no byte of memory; `xlat` fills its translation register, writes VBASE in every case, and
gives the granted LIMIT (04 R91; 05 R119, R130). -/
def Obligations.PrefetchAndXlat : Prop :=
  ∀ (f : MFmt) s gid g,
    (s.atWork gid g (.prf f) → ∃ t g', Advances (.prf f) s gid g [] t g' ∧ g'.beside = g.beside ∧ g'.wc = g.wc ∧
      { t with groups := s.groups, tlb := s.tlb, l1 := s.l1, leases := s.leases, kr := s.kr } = s) ∧
    (s.atWork gid g (.xlat f) →
      let va := g.rgPair s.stamp f.a + f.off.signExtend 64
      ∃ t g' b, Advances (.xlat f) s gid g [.base f.bx.toNat, .uni f.d 1] t g' ∧ g'.beside = g.beside ∧ g'.wc = g.wc ∧
        { t with groups := s.groups, tlb := s.tlb } = s ∧
        KMap.look g'.bx f.bx.toNat = some b ∧ b.vbase = va ∧
        (f.d ≠ 255#8 → g'.cur (kg f.d.toNat) = b.limit.setWidth 64) ∧
        (isLocal va.toNat = true → b.limit = BitVec.ofNat 32 (0xFFFFFFFF - (va.toNat - 0x01FFFFFF00000000)) ∧
          b.perm = 7#4 ∧ b.attr = 0#2) ∧
        (isLocal va.toNat = false → ∀ e, (s.leafOf (s.coreOf g) (s.ctxOf g) va.toNat).1 = .error e → b.limit = 0#32) ∧
        (isLocal va.toNat = false → ∀ l, (s.leafOf (s.coreOf g) (s.ctxOf g) va.toNat).1 = .ok l →
          b.limit = BitVec.ofNat 32 (l.va + l.size - va.toNat) ∧ b.leaf = some l))

/-- `lkup` gives the hit slot and the victim, `tagset` sets the tag of its slot; both are counted in `wc3` (05 R135).
The model's own choices here: log entry 102. -/
def Obligations.TagTable : Prop :=
  ∀ (f : MFmt) s gid g h, KMap.look s.halves g.hid = some h → h.tagEnt ≠ 0 → s.memStalls g 0 0 [] = false →
    g.wc.get 3 ≠ 255#8 →
    let tag (x : Nat) : Word := s.tagAt g.hid h x
    (s.atWork gid g (.lkup f) → h.spadPoison = [] → ∃ t g', Advances (.lkup f) s gid g [.lanes f.d 2] t g' ∧
      t.mem = s.mem ∧ g'.beside = g.beside ∧ g'.wc.get 3 = g.wc.get 3 + 1#8 ∧
      ∀ j ∈ g.enabled s.stamp f.hd,
        let key := g.rv s.stamp f.a j
        let set := key.toNat % (h.tagEnt / 4)
        (∀ w < 4, key ≠ 0xFFFFFFFF#32 → tag (4 * set + w) = key → (∀ w' < w, tag (4 * set + w') ≠ key) →
          g'.cur (kv f.d.toNat j) = (BitVec.ofNat 32 (4 * set + w) : Word).setWidth 64) ∧
        ((key = 0xFFFFFFFF#32 ∨ ∀ w < 4, tag (4 * set + w) ≠ key) → g'.cur (kv f.d.toNat j) = 0xFFFFFFFF#64) ∧
        (∀ w < 4, tag (4 * set + w) = 0xFFFFFFFF#32 → (∀ w' < w, tag (4 * set + w') ≠ 0xFFFFFFFF#32) →
          g'.cur (kv (f.d.toNat + 1) j) = (BitVec.ofNat 32 (4 * set + w) : Word).setWidth 64)) ∧
    (∀ j, s.atWork gid g (.tagset f) → g.enabled s.stamp f.hd = [j] → (g.rv s.stamp f.d j).toNat < h.tagEnt →
      ∃ t g' h', Advances (.tagset f) s gid g [] t g' ∧ t.mem = s.mem ∧ g'.beside = g.beside ∧ g'.wc.get 3 = g.wc.get 3 + 1#8 ∧
        KMap.look t.halves g.hid = some h' ∧ t.tagAt g.hid h' (g.rv s.stamp f.d j).toNat = g.rv s.stamp f.a j ∧
        (h'.order ((g.rv s.stamp f.d j).toNat / 4)).getLast? = some ((g.rv s.stamp f.d j).toNat % 4) ∧
        ∀ x, x < h.tagOff + 4 * (g.rv s.stamp f.d j).toNat ∨ h.tagOff + 4 * (g.rv s.stamp f.d j).toNat + 4 ≤ x →
          h'.spad.get x = h.spad.get x)

/-! ### Fences, waits and barriers -/

/-- `fence`, `trigger` and `round` complete at once: what their fence waits for is behind the group or stays pending, also where an
earlier fence is pending; with nothing to wait for, `trigger` marks the group and `round` sends its increment (05 R131, R133,
R143). -/
def Claim.FenceForms : Prop :=
  let goes (i : Instr) (s : State) (gid : Nat) (g : Group) (sc : Nat) (a : FenceAct) (P : State → Group → Prop) : Prop :=
    ∃ t g', Advances i s gid g [] t g' ∧ t.mem = s.mem ∧ t.halves = s.halves ∧ g'.wc = g.wc ∧
      { g'.beside with recent := g.recent, fences := g.fences, triggered := g.triggered } = g.beside ∧
      (g.fences ≠ [] ∨ s.fenceDone gid g sc none = false →
        g'.fences = g.fences ++ [⟨sc, a, s.nextId⟩] ∧ g'.triggered = g.triggered ∧ t.incs = s.incs) ∧
      (g.fences = [] → s.fenceDone gid g sc none = true → g'.fences = [] ∧ P t g')
  ∀ s gid g,
    (∀ f : MFmt, s.atWork gid g (.fence f) →
      goes (.fence f) s gid g f.scope.toNat .nothing (fun t g' => g'.triggered = g.triggered ∧ t.incs = s.incs)) ∧
    (∀ f : YFmt, s.atWork gid g (.trigger f) →
      goes (.trigger f) s gid g 6 .trigger (fun t g' => g'.triggered = true ∧ t.incs = s.incs)) ∧
    (∀ (f : MFmt) c r, s.atWork gid g (.round f) → (g.rg s.stamp f.d).toNat < 256 →
      KMap.look s.ctxs (s.ctxOf g) = some c → KMap.look c.regions (g.rg s.stamp f.d).toNat = some r → r.v = true →
      let x := (g.rg s.stamp f.d).toNat
      goes (.round f) s gid g f.scope.toNat (.round x) (fun t g' => g'.triggered = g.triggered ∧
        KMap.look t.incs (s.ctxOf g * 256 + x) =
          some ((KMap.look s.incs (s.ctxOf g * 256 + x)).getD [] ++ [⟨some gid, s.chipTime, false⟩])))

/-- A group whose accesses have all performed, landed and become visible waits for nothing at any scope (05 R131). -/
def Claim.QuietFence : Prop := ∀ (s : State) gid g sc, s.quiet gid g → s.fenceDone gid g sc none = true

/-- `qfence` enters one fence at the tail of every queue it names, and in no other, and the group goes on (05 R132,
11 R276). -/
def Claim.QueueFence : Prop :=
  ∀ (f : MFmt) s gid g h, s.atWork gid g (.qfence f) → KMap.look s.halves g.hid = some h → h.core < 192 → h.quarter < 4 →
    (f.off.toNat.testBit 8 = true → (g.rg s.stamp f.d).toNat < 128) → s.cloveCount h.core < 512 →
    let named (x : Nat) : Prop := (x < 4 ∧ f.off.toNat.testBit x = true) ∨ (x = 4 + h.quarter ∧ f.off.toNat.testBit 4 = true) ∨
      (x = 8 ∧ f.off.toNat.testBit 5 = true) ∨ (x = 9 ∧ f.off.toNat.testBit 6 = true) ∨ (x = 10 ∧ f.off.toNat.testBit 7 = true)
    ∃ t g' e, Advances (.qfence f) s gid g [] t g' ∧ g'.beside = g.beside ∧ t.mem = s.mem ∧ t.halves = s.halves ∧
      e.id = s.nextId ∧ e.cmd = .qfence s.nextId f.scope.toNat ∧ e.issuer = .group gid ∧
      (∀ x < 32, named x → t.queue (qkey h.core x) = s.queue (qkey h.core x) ++ [e]) ∧
      (∀ x < 32, ¬ named x → t.queue (qkey h.core x) = s.queue (qkey h.core x)) ∧
      (f.off.toNat.testBit 8 = true → ∃ q, KMap.look t.loch (g.rg s.stamp f.d).toNat = some q ∧
        q.entries = ((KMap.look s.loch (g.rg s.stamp f.d).toNat).getD Loch.reset).entries ++ [e])

/-- Fences complete at once and wait behind the group; a quiet group has nothing to wait for; a queue fence enters every queue
it names (05 R131 to R133, R143; 11 R276). -/
def Obligations.Fences : Prop := Claim.FenceForms ∧ Claim.QuietFence ∧ Claim.QueueFence

/-- `waitb`, `waitc`, `drain` and `waitpred` whose condition holds complete at once and change nothing, where no release at pair
scope or wider has overtaken a copy in the L1 that the wait, as an acquire, would drop (05 R138, R141 to R143; 11 R272). -/
def Claim.WaitsDone : Prop :=
  ∀ f : YFmt,
    GoesIf (.waitb f) (fun s g => ∃ p, s.objPlace g.hid (g.rg s.stamp f.d) = some p ∧
      (s.barObj p).phase ≠ (g.rg s.stamp f.a).getLsbD 0 ∧ s.unmarked g) (fun g _ => nextPc g) [] ∧
    GoesIf (.waitc f) (fun s g => (g.wc.get f.imm.toNat).toNat ≤ (g.rg s.stamp f.a).toNat) (fun g _ => nextPc g) [] ∧
    GoesIf (.drain f) (fun s g => s.channelIds (s.coreOf g) (f.imm.toNat / 16 % 4) = [] ∧
      (∀ v ∈ s.visible, ¬ (v.core = s.coreOf g ∧ v.channel = f.imm.toNat / 16 % 4)) ∧
      (f.imm.toNat % 16 < 4 ∨ s.unmarked g)) (fun g _ => nextPc g) [] ∧
    GoesIf (.waitpred f) (fun s g => s.predsDone (((KMap.look s.halves g.hid).map (fun h => h.launch)).getD 0) = true ∧
      s.unmarked g)
      (fun g _ => nextPc g) []

/-- `waitb` whose object has not left the awaited phase, and `waitpred` before the predecessors have completed, block the
group at the instruction: it does not issue until the form completes (05 R136, R138, R143). -/
def Claim.WaitsBlock : Prop :=
  ∀ (f : YFmt) s gid g,
    let blocked (i : Instr) (b : Blk) : Prop := ∃ t g', exec i s = .next t ∧ OnlyGroup s t gid g' ∧ g'.pc = g.pc ∧
      g'.sched = .blocked b ∧ g'.beside = g.beside ∧ Counted g g' ∧ g'.wc = g.wc ∧ Leaves g g' s.stamp f.hd []
    (∀ p, s.atWork gid g (.waitb f) → s.objPlace g.hid (g.rg s.stamp f.d) = some p →
      (s.barObj p).phase = (g.rg s.stamp f.a).getLsbD 0 →
      blocked (.waitb f) (.waitb p.hid p.off ((g.rg s.stamp f.a).getLsbD 0))) ∧
    (s.atWork gid g (.waitpred f) →
      s.predsDone (((KMap.look s.halves g.hid).map (fun h => h.launch)).getD 0) = false → blocked (.waitpred f) .waitpred)

/-- A wait whose condition holds completes and changes nothing; one whose condition fails blocks its group (05 R136, R138,
R141 to R143). -/
def Obligations.Waits : Prop := Claim.WaitsDone ∧ Claim.WaitsBlock

/-- `barinit` sets an object that no group waits on to its expected arrivals and pending bytes, with no arrival and phase 0;
`arrive` gives the phase before it and sends its arrivals and bytes to the object, where the last arrival turns the phase;
`tryw` of an object that has left its phase answers true in every lane (05 R136 to R138, 10 R244).
The model's own choices here: log entries 82 and 94. -/
def Obligations.BarrierObjects : Prop :=
  ∀ (f : YFmt) s gid g p, s.objPlace g.hid (g.rg s.stamp f.d) = some p →
    let o := s.barObj p
    let elsewhere (t : State) : Prop := ∀ hid tob off, ¬ p.covers 8 hid tob off → t.locByte hid tob off = s.locByte hid tob off
    -- no earlier arrival is on its way to the object
    let settled : Prop := ∀ a ∈ s.arrivals, a.hid = p.hid → a.off + 8 ≤ p.off ∨ p.off + 8 ≤ a.off
    (s.atWork gid g (.barinit f) → settled → 1 ≤ (g.rg s.stamp f.a).toNat → (g.rg s.stamp f.a).toNat ≤ 4095 →
      s.waiters p = [] →
      ∃ t g', Advances (.barinit f) s gid g [] t g' ∧ g'.beside = g.beside ∧ g'.wc = g.wc ∧ t.mem = s.mem ∧ elsewhere t ∧
        t.barObj p = ⟨(g.rg s.stamp f.a).toNat, 0, false, g.rg s.stamp f.b, 0⟩) ∧
    (s.atWork gid g (.arrive f) → settled → g.held = [] → o.expected ≠ 0 → o.reserved = 0 →
      o.current + f.imm.toNat ≤ o.expected → (p.hid = g.hid ∨ g.wc.get 2 = 0#8) →
      ∃ t g', Advances (.arrive f) s gid g [.uni f.b 1] t g' ∧ { g'.beside with recent := g.recent } = g.beside ∧ g'.recent = [] ∧
        g'.wc = g.wc ∧ t.mem = s.mem ∧ t.halves = s.halves ∧ (f.b ≠ 255#8 → g'.cur (kg f.b.toNat) = if o.phase then 1#64 else 0#64) ∧
        t.arrivals = s.arrivals ++
          [⟨p.hid, p.off, f.imm.toNat, if f.sub = 1#4 then g.rg s.stamp f.a else 0#32, gid⟩]) ∧
    (∀ a : Arrival, a.hid = p.hid → a.off = p.off → o.expected ≠ 0 → o.current + a.count < 4096 →
      let pend := o.pending + a.bytes
      let now := o.current + a.count
      let t := s.applyArrival a
      t.mem = s.mem ∧ elsewhere t ∧ t.arrivals = s.arrivals.erase a ∧
        t.barObj p = (if now = o.expected ∧ pend = 0#32 then ⟨o.expected, 0, !o.phase, 0#32, o.reserved⟩
          else ⟨o.expected, now, o.phase, pend, o.reserved⟩)) ∧
    (s.atWork gid g (.tryw f) → o.phase ≠ (g.rg s.stamp f.a).getLsbD 0 → s.unmarked g →
      ∃ t g', Advances (.tryw f) s gid g [.predAll f.b] t g' ∧ g'.beside = g.beside ∧ g'.wc = g.wc ∧ OnlyGroup s t gid g' ∧
        ∀ j < g.width, j < 64 → g'.cur (kk f.b.toNat j) = 1#64)

/-- The last arrival at `bar` completes it: every group of the half that waits goes on, with `watch` at zero, and nobody is
left waiting; `barm` does the same for the groups of its mask (05 R139, R140; 05 R116). -/
def Obligations.TeamBarriers : Prop :=
  ∀ (f : YFmt) s gid g h, KMap.look s.halves g.hid = some h → g.held = [] → KMap.sorted s.groups = true →
    gid ∈ s.liveGids g.hid →
    let through (i : Instr) (l : List Nat) (t : State) : Prop := exec i s = .next t ∧ t.mem = s.mem ∧
      (∃ g', KMap.look t.groups gid = some g' ∧ g'.pc = nextPc g ∧ g'.watch = 0#32 ∧ Resumes f.hd g' ∧ Leaves g g' s.stamp f.hd []) ∧
      ∀ x ∈ l, x ≠ gid → KMap.look t.groups x = (KMap.look s.groups x).map Group.completeWait
    (s.atWork gid g (.bar f) → (∀ x ∈ s.liveGids g.hid, x = gid ∨ x ∈ h.bar) →
      ∃ t h', through (.bar f) h.bar t ∧ KMap.look t.halves g.hid = some h' ∧ h'.bar = []) ∧
    (let m := (g.rg s.stamp f.a).toNat
     let ep := f.imm.toNat % 4
     ∀ l, s.atWork gid g (.barm f) → m < 65536 → m.testBit g.idx = true → m < 2 ^ (((s.lrOf h).map (fun r => r.groups)).getD 0) →
      ((h.barm = [] ∧ l = []) ∨ h.barm = [(ep, (m, l))]) →
      (∀ x ∈ s.liveGids g.hid, ∀ y, KMap.look s.groups x = some y → m.testBit y.idx = true → x = gid ∨ x ∈ l) →
      ∃ t h', through (.barm f) l t ∧ KMap.look t.halves g.hid = some h' ∧ h'.barm = [])

/-! ### Copies, gates, registers on demand and system instructions -/

/-- A lane copy that passes its checks enters one command, with everything it captures, at the tail of its channel or, before
its issue time, in the time-sorted buffer; the group goes on and no register changes (05 R144 to R146). -/
def Claim.CopyIssue : Prop :=
  ∀ (f : YFmt) s gid g h a b, KMap.look s.halves g.hid = some h →
    let st := s.stamp
    let w0 := (g.rg st f.d).toNat
    let w1 := (g.rg st (f.d + 1#8)).toNat
    let sb := (g.rgPair st (f.d + 2#8)).toNat
    let db := (g.rgPair st (f.d + 4#8)).toNat
    let time := g.rgPair st (f.d + 6#8)
    let mode := f.imm.toNat / 4 % 4
    let hs := w0 % 4096
    let hd := w0 / 65536 % 4096
    let cn := s.ctxOf g
    let idx := (g.enabled st f.hd).map (fun j => (g.rv st f.a j).toNat)
    let mask := (g.rg st f.a).toNat % 256
    let virt : Space := .virt cn h.core
    let own : Option (Nat × Nat) → Prop := fun bar => (f.b = 255#8 ∧ bar = none) ∨
      (f.b ≠ 255#8 ∧ ∃ p, s.objPlace g.hid (g.rg st f.b) = some p ∧ bar = some (p.hid, p.off))
    let each : Option (Nat × Nat) → Prop := fun bar => (f.b = 255#8 ∧ bar = none) ∨
      (f.b ≠ 255#8 ∧ (g.rg st f.b).toNat % 8 = 0 ∧ bar = some (0, (g.rg st f.b).toNat) ∧
        ∀ d ∈ (s.gangDsts h mask).1, (s.objPlace d.2 (g.rg st f.b)).isSome = true)
    let ready (blocks : Option Nat) (m : Option (Nat × Bool)) : Prop :=
      w0 / 4096 % 16 = 0 ∧ w0 / 2 ^ 28 = 0 ∧ (mode = 0 → w1 = 0) ∧ (mode = 1 → w1 < 256) ∧ s.layout cn hs = some a ∧
        s.layout cn hd = some b ∧ copyBad s.chipTime mode a b hs hd sb db blocks m time = none ∧
        s.copyFull h.core time = false
    let issued (i : Instr) (bar : Option (Nat × Nat)) (cmd : Cmd) : Prop :=
      ∃ t g' e, Advances i s gid g [] t g' ∧ g'.beside = g.beside ∧ g'.wc = g.wc ∧ t.mem = s.mem ∧ t.halves = s.halves ∧
        e.id = s.nextId ∧ t.nextId = s.nextId + 1 ∧ e.cmd = cmd ∧ e.fm = g.fm ∧ e.time = time ∧ e.issuer = .group gid ∧ e.bar = bar ∧
        (time.toNat ≤ s.chipTime → t.timed = s.timed ∧
          t.queue (qkey h.core (f.imm.toNat % 4)) = s.queue (qkey h.core (f.imm.toNat % 4)) ++ [e]) ∧
        (s.chipTime < time.toNat → t.queues = s.queues ∧
          KMap.look t.timed h.core = some ((KMap.look s.timed h.core).getD [] ++ [(f.imm.toNat % 4, e)]))
    (∀ bar, s.atWork gid g (.cpy f) → ready none none → own bar →
      issued (.cpy f) bar (.copy mode w1 ⟨virt, sb, a.lay, hs⟩ [(0, ⟨virt, db, b.lay, hd⟩)] none)) ∧
    (∀ bar, s.atWork gid g (.cpyx f) → ready (some idx.length) none → own bar →
      issued (.cpyx f) bar (.copy mode w1 ⟨virt, sb, a.lay, hs⟩ [(0, ⟨virt, db, b.lay, hd⟩)] (some idx))) ∧
    (∀ bar, s.atWork gid g (.cpym f) → ready none (some (mask, (s.gangDsts h mask).2)) → each bar →
      issued (.cpym f) bar (.copy mode w1 ⟨virt, sb, a.lay, hs⟩
        ((s.gangDsts h mask).1.map (fun d => (d.1, ⟨.loc d.2, db, b.lay, hd⟩))) none))

/-- A copy whose checks fail enters no command: a reserved field or a handle not in use raises ILLEGAL, a base outside its
allocation LAYOUT_RANGE with the base and the handle, a far issue time COPY_TIME (05 R145, 26 R436).
The model's own choices here: log entry 26. -/
def Claim.CopyChecks : Prop :=
  ∀ (f : YFmt) s gid g, s.atWork gid g (.cpy f) → f.b = 255#8 → (∃ h, KMap.look s.halves g.hid = some h) →
    let st := s.stamp
    let w0 := (g.rg st f.d).toNat
    let w1 := (g.rg st (f.d + 1#8)).toNat
    let hs := w0 % 4096
    let hd := w0 / 65536 % 4096
    let sb := (g.rgPair st (f.d + 2#8)).toNat
    let time := g.rgPair st (f.d + 6#8)
    let clean : Prop := w0 / 4096 % 16 = 0 ∧ w0 / 2 ^ 28 = 0
    let plain : Prop := clean ∧ f.imm.toNat / 4 % 4 = 0 ∧ w1 = 0
    let traps (r : FaultRec) : Prop := exec (.cpy f) s = .next (s.takeTrap gid r [])
    (¬ clean → traps (illegalRec 1 (encode (.cpy f)) g.pc)) ∧
    (plain → s.layout (s.ctxOf g) hs = none → traps (illegalRec 7 (encode (.cpy f)) g.pc)) ∧
    (∀ a b, plain → s.layout (s.ctxOf g) hs = some a → s.layout (s.ctxOf g) hd = some b → a.lay.count = b.lay.count →
      a.fits sb = false → traps (layoutRange 1 (BitVec.ofNat 64 sb) (BitVec.ofNat 64 hs) g.pc)) ∧
    (∀ a b, plain → s.layout (s.ctxOf g) hs = some a → s.layout (s.ctxOf g) hd = some b → a.lay.count = b.lay.count →
      a.fits sb = true → b.fits (g.rgPair st (f.d + 4#8)).toNat = true → s.chipTime + 2 ^ 32 < time.toNat →
      traps (trapRec 9 0 time s.time64 0#64 g.pc))

/-- A lane copy enters one command where its checks pass, and traps with none where one fails (05 R144 to R146). -/
def Obligations.Copies : Prop := Claim.CopyIssue ∧ Claim.CopyChecks

/-- `mklay` of a sound image in local memory gives the lowest free handle to the record, or all ones where every handle is in
use; `rmlay` frees a handle in use and raises ILLEGAL for one that is not (05 R147).
The model's own choices here: log entries 42 and 43. -/
def Obligations.LayoutHandles : Prop :=
  ∀ (f : YFmt) s gid g c, KMap.look s.ctxs (s.ctxOf g) = some c →
    (∀ p, s.atWork gid g (.mklay f) →
      let va := (g.rgPair s.stamp f.a).toNat
      let len := (g.rgPair s.stamp (f.b + 2#8)).toNat
      let image := s.locBytes p 64
      isLocal va = true → va % 64 = 0 → s.localPlace g.hid (va - 0x01FFFFFF00000000) 64 = some p →
      s.locPoisoned p 64 = false → (layoutOf image).bad (leNat (image.take 4)) len = false →
      ∃ t g', Advances (.mklay f) s gid g [.uni f.d 1] t g' ∧ g'.beside = g.beside ∧ g'.wc = g.wc ∧ t.mem = s.mem ∧
        t.halves = s.halves ∧
        ((∀ k < 4096, (KMap.look c.layouts k).isSome = true) → (f.d ≠ 255#8 → g'.cur (kg f.d.toNat) = 0xFFFFFFFF#64) ∧ t.ctxs = s.ctxs) ∧
        (∀ k < 4096, KMap.look c.layouts k = none → (∀ x < k, (KMap.look c.layouts x).isSome = true) →
          (f.d ≠ 255#8 → g'.cur (kg f.d.toNat) = BitVec.ofNat 64 k) ∧
          t.layout (s.ctxOf g) k = some ⟨layoutOf image, (g.rgPair s.stamp f.b).toNat, len⟩ ∧
          ∀ x, x ≠ k → t.layout (s.ctxOf g) x = s.layout (s.ctxOf g) x)) ∧
    (s.atWork gid g (.rmlay f) →
      let k := (g.rg s.stamp f.a).toNat
      (KMap.look c.layouts k = none →
        exec (.rmlay f) s = .next (s.takeTrap gid (illegalRec 7 (encode (.rmlay f)) g.pc) [])) ∧
      ((KMap.look c.layouts k).isSome = true → ∃ t g', Advances (.rmlay f) s gid g [] t g' ∧ g'.beside = g.beside ∧ g'.wc = g.wc ∧
        t.mem = s.mem ∧ t.halves = s.halves ∧ t.layout (s.ctxOf g) k = none ∧
        ∀ x, x ≠ k → t.layout (s.ctxOf g) x = s.layout (s.ctxOf g) x))

/-- The last group to arrive at a `gate` with sound checks and nothing outstanding opens it: the tile context stands at the
entry's bundle with `cfm` of the lowest group, the map's handles are bound as kind 1, the frame holds RETPC, MAPID and ENTRY,
and the group is blocked (12 R288, R290; 01 R32). -/
def Claim.GateOpens : Prop :=
  ∀ (f : LFmt) s gid g h tile mp off, s.atWork gid g (.gate f) → KMap.look s.halves g.hid = some h → h.tile = some tile →
    h.gate = none → h.gateArr = [] → s.liveGids g.hid = [gid] → KMap.sorted s.groups = true → g.em = g.live → 1 ≤ h.spadBanks →
    s.gateChecks h [g] f.imm = .ok (mp, off) → (∀ c < 4, g.wc.get c = 0#8) → g.held = [] → (∀ a ∈ s.arrivals, a.gid ≠ gid) →
    ∃ t g' h' t', exec (.gate f) s = .next t ∧ t.mem = s.mem ∧ KMap.look t.groups gid = some g' ∧ g'.sched = .blocked .gate ∧
      g'.pc = g.pc ∧ g'.em = g.em ∧ KMap.look t.halves g.hid = some h' ∧ h'.tile = some t' ∧ h'.gate.isSome = true ∧ t'.valid = true ∧
      t'.pc = off ∧ t'.cfm = g.fm ∧ (mp.length ≤ 32 → ∀ e ∈ mp, (t'.t.get e.handle).toNat / 2 ^ 48 = 0x8001) ∧
      leNat (t.locBytes ⟨g.hid, false, 16384 * h.spadBanks - 256⟩ 8) = (g.pc + 8#64).toNat ∧
      leNat (t.locBytes ⟨g.hid, false, 16384 * h.spadBanks - 248⟩ 4) = f.imm.toNat

/-- A group that arrives at a `gate` with `em` ≠ `live` raises ILLEGAL_CONVERGENCE with CAUSE 0 (05 R148, 12 R288). -/
def Claim.GateConvergence : Prop :=
  ∀ (f : LFmt) s gid g h, s.atWork gid g (.gate f) → KMap.look s.halves g.hid = some h → h.gateArr = [] → g.em ≠ g.live →
    exec (.gate f) s = .next (((s.blockG gid f.hd .gate).updH g.hid (fun h => { h with gateArr := [] })).trapNow gid
      (trapRec 2 0 (pairWord f.imm f.imm) g.em g.live g.pc) [])

/-- The last group to arrive opens a gate; one with `em` ≠ `live` raises ILLEGAL_CONVERGENCE (05 R148, 12 R288). -/
def Obligations.Gates : Prop := Claim.GateOpens ∧ Claim.GateConvergence

/-- `reggrow` that fits and finds no earlier request is granted at once; `regshr` gives registers back, and those left keep
their contents (01 R14, 05 R149, 09 R226). -/
def Claim.RegisterRequests : Prop :=
  ∀ (f : YFmt) s gid g h r, KMap.look s.halves g.hid = some h → s.lrOf h = some r →
    let amt := f.imm.toNat
    (s.atWork gid g (.reggrow f) → g.n + amt ≤ r.regmax → (KMap.look s.grow (s.quarterOf g)).getD [] = [] →
      s.regsUsed (s.quarterOf g) + amt * g.width ≤ 32768 →
      ∃ t g', Advances (.reggrow f) s gid g [.uni f.d 1] t g' ∧ OnlyGroup s t gid g' ∧ g'.n = g.n + amt ∧
        { g'.beside with n := g.n } = g.beside ∧ g'.wc = g.wc ∧
        (f.d ≠ 255#8 → g'.cur (kg f.d.toNat) = (BitVec.ofNat 32 (g.n + amt) : Word).setWidth 64)) ∧
    (s.atWork gid g (.reggrow f) → r.regmax < g.n + amt →
      exec (.reggrow f) s = .next (s.takeTrap gid (illegalRec 6 (encode (.reggrow f)) g.pc)
        ((Instr.reggrow f).ignoreWrites g (g.enabled s.stamp f.hd)))) ∧
    (s.atWork gid g (.regshr f) → amt + 8 ≤ g.n → g.landings = [] →
      ∃ t g', exec (.regshr f) s = .next t ∧ KMap.look t.groups gid = some g' ∧ g'.n = g.n - amt ∧ g'.pc = nextPc g ∧ t.mem = s.mem ∧
        t.halves = s.halves ∧ Counted g g' ∧ Resumes f.hd g' ∧ { g'.beside with n := g.n } = g.beside ∧ g'.wc = g.wc ∧
        (f.d ≠ 255#8 → g'.cur (kg f.d.toNat) = (BitVec.ofNat 32 (g.n - amt) : Word).setWidth 64) ∧
        (∀ x j, x < g.n - amt → x < 255 → j < 64 → g'.cur (kv x j) = g.cur (kv x j)) ∧
        (∀ x j, g.n - amt ≤ x → x < 255 → j < 64 → g'.cur (kv x j) = 0#64) ∧
        ∀ key, 20000 ≤ key → (f.d = 255#8 ∨ key ≠ kg f.d.toNat) → g'.cur key = g.cur key)

/-- A lane word whose fields break a check raises ILLEGAL with the CAUSE of the first check that fails, the word and its
address, except that a Tarn operation's tag and numbers are checked at its unit; `trap` raises USER_TRAP with its code (03 R75, 05 R150, 26 R436). -/
def Obligations.IllegalAndUserTraps : Prop :=
  (∀ w i s gid g c, decodeLane w = .ok i → s.cur = .group gid → KMap.look s.groups gid = some g → i.check g.n = some c →
    (tarnOp i = true → kvLate c = false) →
    exec i s = .next (s.takeTrap gid (trapRec 1 c (encode i) g.pc 0#64 g.pc) (i.ignoreWrites g (g.enabled s.stamp (headOf i))))) ∧
  ∀ (f : YFmt) s gid g, s.atWork gid g (.trap f) →
    exec (.trap f) s = .next (s.takeTrap gid (trapRec 6 0 (f.imm.setWidth 64) 0#64 0#64 g.pc) [])

/-- Taking a trap at group level: ignore goes on at the next instruction with the ignore results written, retry stays at the
trapped one up to three times, kill self ends the group as by `exit`, and kill parent at all four levels makes it fatal to the
context (09 R229 to R232, 26 R440, R441). -/
def Obligations.TrapContainment : Prop :=
  ∀ (s : State) gid g h lr c r ign, KMap.look s.groups gid = some g → KMap.look s.halves g.hid = some h → s.lrOf h = some lr →
    KMap.look s.ctxs h.ctx = some c → g.sched ≠ .exited → r.code ≠ 5 →
    let t := s.takeTrap gid r ign
    (lr.polgrp = 0 → ∃ g' c', KMap.look t.groups gid = some g' ∧ KMap.look t.ctxs h.ctx = some c' ∧ g'.pc = g.pc + 8#64 ∧
      g'.sched = .ready ∧ g'.live = g.live ∧ g'.em = g.em ∧ t.mem = s.mem ∧ c'.fq.absorbed = c.fq.absorbed + 1#32 ∧
      (∀ key, (∀ e ∈ ign, e.1 ≠ key) → g'.cur key = g.cur key) ∧
      ∀ key x, ign = [(key, x)] → key < 30000 → g'.cur key = (x.setWidth 32).setWidth 64) ∧
    (lr.polgrp = 1 → (g.retries.get 0).toNat < 3 → ∃ g' c', KMap.look t.groups gid = some g' ∧ KMap.look t.ctxs h.ctx = some c' ∧
      g'.pc = g.pc ∧ g'.sched = .ready ∧ g'.retries.get 0 = g.retries.get 0 + 1#8 ∧ t.mem = s.mem ∧
      c'.fq.absorbed = c.fq.absorbed + 1#32 ∧ ∀ key, g'.cur key = g.cur key) ∧
    (lr.polgrp = 2 → h.gateArr = [] → ∃ g', KMap.look t.groups gid = some g' ∧ g'.sched = .exited ∧ g'.live = 0#64 ∧ g'.em = 0#64) ∧
    (lr.polgrp = 3 → lr.polteam = 3 → lr.polgrid = 3 → lr.polctx = 3 → ∃ c', KMap.look t.ctxs h.ctx = some c' ∧ c'.killed = true ∧
      (∀ x ∈ t.groups, x.2.hid ≠ g.hid) ∧ (∀ x ∈ t.halves, x.2.ctx ≠ h.ctx) ∧
      ∀ x ∈ t.streams, x.2.ctx = h.ctx → x.2.state = 3 ∧ x.2.code = r.code)

/-- Without a debugger `bkpt` changes nothing; with one attached it stops the group at its own address, with BREAKPOINT and
the code in the fault word (05 R117). -/
def Obligations.Breakpoint : Prop :=
  ∀ f : IFmt, GoesIf (.bkpt f) (fun s g => s.ctxOf g ∉ s.attached) (fun g _ => nextPc g) [] ∧
    ∀ s gid g, s.atWork gid g (.bkpt f) → s.ctxOf g ∈ s.attached → ∃ t g', exec (.bkpt f) s = .next t ∧
      KMap.look t.groups gid = some g' ∧ g'.stopped = true ∧ g'.pc = g.pc ∧ t.mem = s.mem ∧
      g'.fault = some (trapRec 7 0 (f.imm.setWidth 64) 0#64 0#64 g.pc) ∧ ∀ key, g'.cur key = g.cur key

/-- `gets` reads every special register of R28; a read of a low half captures the whole value in its latch (01 R28, R29;
05 R150). -/
def Claim.SpecialReads : Prop :=
  ∀ (f : YFmt) s gid g, s.atWork gid g (.gets f) →
    let x := f.imm.toNat
    let now := BitVec.ofNat 64 s.chipTime
    ∃ t g', Advances (.gets f) s gid g [if x = 0x00 ∨ x = 0x11 then .lanes f.d 1 else .uni f.d 1] t g' ∧ OnlyGroup s t gid g' ∧
      g'.wc = g.wc ∧ { g'.beside with latchG := g.latchG, latchT := g.latchT } = g.beside ∧
      g'.latchG = (if x = 0x12 then g.gw else g.latchG) ∧ g'.latchT = (if x = 0x14 then now else g.latchT) ∧
      (f.d ≠ 255#8 →
        let got (y : Word) : Prop := g'.cur (kg f.d.toNat) = y.setWidth 64
        (x = 0x00 → ∀ j ∈ g.enabled s.stamp f.hd, g'.cur (kv f.d.toNat j) = BitVec.ofNat 64 j) ∧
        (x = 0x11 → ∀ j ∈ g.enabled s.stamp f.hd, g.olds (kfx j) = [] → g'.cur (kv f.d.toNat j) = (g.fx.get j).setWidth 64) ∧
        (x = 0x01 → got (BitVec.ofNat 32 g.width)) ∧ (x = 0x02 → got (BitVec.ofNat 32 g.idx)) ∧
        (x = 0x0C → got (loWord g.em)) ∧ (x = 0x0D → got (hiWord g.em)) ∧ (x = 0x0E → got (loWord g.live)) ∧
        (x = 0x0F → got (hiWord g.live)) ∧ (x = 0x10 → got g.fm) ∧ (x = 0x12 → got (loWord g.gw)) ∧
        (x = 0x13 → got (hiWord g.latchG)) ∧ (x = 0x14 → got (loWord now)) ∧ (x = 0x15 → got (hiWord g.latchT)) ∧
        (x = 0x16 → got g.migrations) ∧ (x = 0x18 → got (BitVec.ofNat 32 g.n)) ∧ (x = 0x19 → got g.watch) ∧
        ∀ h lr, KMap.look s.halves g.hid = some h → s.lrOf h = some lr →
          (x = 0x03 → got (BitVec.ofNat 32 lr.groups)) ∧ (x = 0x04 → got (BitVec.ofNat 32 h.team)) ∧
          (x = 0x05 → got (BitVec.ofNat 32 (h.team % lr.gx))) ∧ (x = 0x06 → got (BitVec.ofNat 32 (h.team / lr.gx % lr.gy))) ∧
          (x = 0x07 → got (BitVec.ofNat 32 (h.team / lr.gx / lr.gy))) ∧ (x = 0x08 → got (BitVec.ofNat 32 lr.gx)) ∧
          (x = 0x09 → got (BitVec.ofNat 32 lr.gy)) ∧ (x = 0x0A → got (BitVec.ofNat 32 lr.gz)) ∧
          (x = 0x0B → got (BitVec.ofNat 32 h.half)) ∧
          ∀ c, KMap.look s.ctxs h.ctx = some c → x = 0x17 → got (c.profile.get 0))

/-- `sets` writes `em` ANDed with `live`, `fm` where its reserved bits are zero, and the sticky flags of the enabled lanes; a
reserved bit of `fm` raises ILLEGAL and leaves `fm` (01 R18, R25, R27; 05 R150).
The model's own choices here: log entry 17. -/
def Claim.SpecialWrites : Prop :=
  ∀ (f : YFmt) s gid g, s.atWork gid g (.sets f) →
    let v := g.rg s.stamp f.a
    let becomes (m : DWord) (fm : Word) : Prop := ∃ t g', Advances (.sets f) s gid g [] t g' ∧ OnlyGroup s t gid g' ∧ g'.wc = g.wc ∧
      g'.em = m ∧ g'.fm = fm ∧ { g'.beside with em := g.em, fm := g.fm } = g.beside
    (f.imm = 0x0C#16 → becomes ((hiWord g.em ++ v) &&& g.live) g.fm) ∧
    (f.imm = 0x0D#16 → becomes ((v ++ loWord g.em) &&& g.live) g.fm) ∧
    (f.imm = 0x10#16 → v.toNat < 64 → becomes g.em v) ∧
    (f.imm = 0x10#16 → 64 ≤ v.toNat → exec (.sets f) s = .next (s.takeTrap gid (illegalRec 6 (encode (.sets f)) g.pc) [])) ∧
    (f.imm = 0x11#16 → ∃ t g', exec (.sets f) s = .next t ∧ OnlyGroup s t gid g' ∧ g'.pc = nextPc g ∧ g'.beside = g.beside ∧
      g'.wc = g.wc ∧ Counted g g' ∧ Resumes f.hd g' ∧
      (∀ j ∈ g.enabled s.stamp f.hd, g'.fx.get j = g.rv s.stamp f.a j &&& 0x1F#32) ∧
      (∀ j, j ∉ g.enabled s.stamp f.hd → g'.fx.get j = g.fx.get j) ∧ ∀ key < 50000, g'.cur key = g.cur key)

/-- `gets` and `sets` move the special registers of 01 R28. -/
def Obligations.SpecialRegisters : Prop := Claim.SpecialReads ∧ Claim.SpecialWrites

/-! ### Sequences of a KV cache -/

/-- A Tarn instruction of a group that waits for nothing performs its operation whole where the operation can be done: memory
is as the operation leaves it, and the results stand in their registers, counted in `wc3` (18 R354 to R359).
The model's own choices here: log entries 44 and 45. -/
def Claim.SequenceOperations : Prop :=
  ∀ (f : YFmt) s gid g c cfg, KMap.look s.ctxs (s.ctxOf g) = some c → c.tarn = some cfg → s.quiet gid g → g.wc.get 3 ≠ 255#8 →
    let k : Kv := ⟨⟨s, s.ctxOf g, c, s.chipTime⟩, cfg⟩
    let a := (g.rg s.stamp f.a).toNat
    let ends (i : Instr) (ds : List Dest) (mem : Regs 8) (P : Group → Prop) : Prop :=
      s.atWork gid g i → ∃ t g', Advances i s gid g ds t g' ∧ SameButMem g g' ∧ g'.wc.get 3 = g.wc.get 3 + 1#8 ∧
        (∀ x, x ≠ 3 → g'.wc.get x = g.wc.get x) ∧ t.mem = mem ∧ t.halves = s.halves ∧ P g'
    let gets (x : Nat) (g' : Group) : Prop := f.d ≠ 255#8 → g'.cur (kg f.d.toNat) = (BitVec.ofNat 32 x : Word).setWidth 64
    (∀ k' x, k.new = .ok (k', x) → ends (.kvnew f) [.uni f.d 1] k'.s.mem (gets x)) ∧
    (∀ k' x, k.fork a = .ok (k', x) → ends (.kvfork f) [.uni f.d 1] k'.s.mem (gets x)) ∧
    (∀ k' x y, k.app a f.imm.toNat = .ok (k', x, y) → ends (.kvapp f) [.uni f.d 2] k'.s.mem (fun g' => gets x g' ∧
      g'.cur (kg (f.d.toNat + 1)) = (BitVec.ofNat 32 y : Word).setWidth 64)) ∧
    (∀ w l, k.map f.sub.toNat f.d a (g.rg s.stamp f.b).toNat (g.enabled s.stamp f.hd) = .ok (w, l) →
      ends (.kvmap f) [.lanes f.d (if f.sub = 3#4 then 2 else 1)] s.mem (fun _ => True)) ∧
    (∀ k' x, k.ret a f.imm.toNat = .ok (k', x) → ends (.kvret f) [.uni f.d 1] k'.s.mem (gets x)) ∧
    (∀ k', k.free a = .ok k' → ends (.kvfree f) [] k'.s.mem (fun _ => True)) ∧
    (∀ k' x, k.cpt a = .ok (k', x) → ends (.kvcpt f) [.uni f.d 1] k'.s.mem (gets x))

/-- `kvnew` takes the lowest-numbered sequence entry that is not valid and makes it valid with every count zero; with none
left it raises KV_FULL with CAUSE 2 and all ones (18 R355, 26 R436).
The model's own choices here: log entries 44 and 45. -/
def Claim.NewSequence : Prop :=
  ∀ k : Kv,
    (∀ k' q, k.new = .ok (k', q) → q < k.t.nseq ∧
      (∀ i < q, ∃ b, k.raw (k.t.seqbase + 16 * i) 1 = .ok b ∧ leNat b % 2 = 1)) ∧
    ((∀ i < k.t.nseq, ∃ b, k.raw (k.t.seqbase + 16 * i) 1 = .ok b ∧ leNat b % 2 = 1) →
      k.new = .error (.full 2 (BitVec.allOnes 64)))

/-- The Tarn instructions perform their operations whole; `kvnew` takes the lowest free entry (18 R354 to R359). -/
def Obligations.Sequences : Prop := Claim.SequenceOperations ∧ Claim.NewSequence

/-- Every Tarn instruction of a group that waits for nothing completes under conditions on the state and operands alone:
Tarn can read and write its structures and pools, the sequence is valid and within its limits, and what the operation
allocates is free (18 R354 to R359). The group stands at the next word, with the result counted in `wc3`, and memory is as the
operation leaves it. The model's own choices here: log entries 44 and 45. -/
def Obligations.SequencesComplete : Prop :=
  ∀ (f : YFmt) s gid g c cfg L, KMap.look s.ctxs (s.ctxOf g) = some c → c.tarn = some cfg → cfg.sound → s.quiet gid g →
    g.wc.get 3 ≠ 255#8 →
    let k : Kv := ⟨⟨s, s.ctxOf g, c, s.chipTime⟩, cfg⟩
    let q := (g.rg s.stamp f.a).toNat
    let done (t : State) (mem : Regs 8) (P : Group → Prop) : Prop := ∃ g', KMap.look t.groups gid = some g' ∧ g'.pc = nextPc g ∧
      g'.wc.get 3 = g.wc.get 3 + 1#8 ∧ t.mem = mem ∧ t.halves = s.halves ∧ P g'
    let gets (x : Nat) (g' : Group) : Prop := f.d ≠ 255#8 → g'.cur (kg f.d.toNat) = (BitVec.ofNat 32 x : Word).setWidth 64
    k.reaches L →
    (s.atWork gid g (.kvnew f) → k.hasFree → ∃ t k' n, exec (.kvnew f) s = .next t ∧ k.new = .ok (k', n) ∧ done t k'.s.mem (gets n)) ∧
    ∀ e, k.holds q e →
    (s.atWork gid g (.kvfork f) → k.hasFree → k.mayShare q e →
      ∃ t k' n, exec (.kvfork f) s = .next t ∧ k.fork q = .ok (k', n) ∧ done t k'.s.mem (gets n)) ∧
    (s.atWork gid g (.kvapp f) → k.mayAppend q e →
      ∃ t k' w, exec (.kvapp f) s = .next t ∧ k.app q f.imm.toNat = .ok (k', w, e.nextpos) ∧ done t k'.s.mem (fun g' => gets w g' ∧
        g'.cur (kg (f.d.toNat + 1)) = (BitVec.ofNat 32 e.nextpos : Word).setWidth 64)) ∧
    (s.atWork gid g (.kvmap f) → ∃ t, exec (.kvmap f) s = .next t ∧ done t s.mem (fun _ => True)) ∧
    (s.atWork gid g (.kvret f) →
      ∃ t k' n, exec (.kvret f) s = .next t ∧ k.ret q f.imm.toNat = .ok (k', n) ∧ done t k'.s.mem (gets n)) ∧
    (s.atWork gid g (.kvfree f) → ∃ t k', exec (.kvfree f) s = .next t ∧ k.free q = .ok k' ∧ done t k'.s.mem (fun _ => True)) ∧
    (s.atWork gid g (.kvcpt f) → k.apart L → k.mayCompact q e →
      ∃ t k' n, exec (.kvcpt f) s = .next t ∧ k.cpt q = .ok (k', n) ∧ done t k'.s.mem (gets n))

/-! ### Events of groups -/

/-- A result that has performed lands: its counter falls by one, no register changes and nothing else of the machine does,
while the group has no fence pending and its half no gate (01 R23, 03 R73); a returning store raises `gw` to its completion
time (01 R24). -/
def Claim.Landings : Prop :=
  ∀ s gid g h, KMap.look s.groups gid = some g → KMap.look s.halves g.hid = some h → g.fences = [] → h.gateArr = [] →
    (∀ idx l, g.landings[idx]? = some l → g.canLand s.chipTime idx = true →
      ∃ t g', exec (.resultLands gid idx) s = .next t ∧ KMap.look t.groups gid = some g' ∧ g'.landings = g.landings.eraseIdx idx ∧
        (∀ c, l.path = some c → g'.wc.get c = g.wc.get c - 1#8) ∧ (∀ c, l.path ≠ some c → g'.wc.get c = g.wc.get c) ∧
        (∀ key, g'.cur key = g.cur key) ∧ t.mem = s.mem ∧ (∀ x, x ≠ gid → KMap.look t.groups x = KMap.look s.groups x)) ∧
    (∀ x rest, g.gwPend = x :: rest →
      ∃ t g', exec (.gwctReturn gid) s = .next t ∧ KMap.look t.groups gid = some g' ∧ g'.gwPend = rest ∧
        g'.gw.toNat = max g.gw.toNat x.toNat ∧ (∀ key, g'.cur key = g.cur key) ∧ t.mem = s.mem ∧
        (∀ x, x ≠ gid → KMap.look t.groups x = KMap.look s.groups x))

/-- A ready group whose `watch` has reached its limit traps with WATCHDOG; a `tryw` whose window has ended answers false and
the group goes on at the next word (05 R138, 09 R224, 26 R436). -/
def Claim.Timeouts : Prop :=
  ∀ s gid g, KMap.look s.groups gid = some g →
    (∀ h lr, KMap.look s.halves g.hid = some h → s.lrOf h = some lr → g.sched = .ready → g.stopped = false →
      let limit := if lr.wdog = 0 then 2 ^ 24 else 2 ^ lr.wdog
      limit ≤ g.watch.toNat → exec (.watchdog gid) s =
        .next (s.trapNow gid (trapRec 5 0 (BitVec.ofNat 64 limit) (g.watch.setWidth 64) 0#64 g.pc) [])) ∧
    (∀ hid off p kd t0, g.sched = .blocked (.tryw hid off p kd t0) → t0 ≤ s.chipTime → kd < 7 →
      ∃ t g', exec (.trywTimeout gid) s = .next t ∧ OnlyGroup s t gid g' ∧ g'.pc = nextPc g ∧ g'.beside = g.beside ∧ g'.wc = g.wc ∧
        g'.watch = g.watch ∧ (∀ j < g.width, j < 64 → g'.cur (kk kd j) = 0#64) ∧
        ∀ key, (∀ j < g.width, key ≠ kk kd j) → g'.cur key = g.cur key)

/-- A `reggrow` that waits at the head of its quarter's queue is granted when it fits; where it does not, every group of the
quarter waits for registers and no unit is leaving yet, the arbiter tells the youngest unit to halt (05 R149; 09 R226, R227).
The model's own choices here: log entry 54. -/
def Claim.RegisterArbiter : Prop :=
  ∀ (s : State) core q, q < 4 →
    (∀ gid amt d g, KMap.look s.grow (core * 4 + q) = some [(gid, amt, d)] → KMap.look s.groups gid = some g →
      g.sched = .blocked (.reggrow amt d) → s.regsUsed (core * 4 + q) + amt * g.width ≤ 32768 → d < 64 ∨ d = 255 →
      ∃ t g', exec (.reggrowGrant core q) s = .next t ∧ KMap.look t.groups gid = some g' ∧ g'.n = g.n + amt ∧ g'.pc = nextPc g ∧
        g'.watch = 0#32 ∧ KMap.look t.grow (core * 4 + q) = some [] ∧ t.mem = s.mem ∧
        (d < 64 → g'.cur (kg d) = (BitVec.ofNat 32 (g.n + amt) : Word).setWidth 64) ∧ ∀ key, key ≠ kg d → g'.cur key = g.cur key) ∧
    (∀ gid amt d g rest u, KMap.look s.grow (core * 4 + q) = some ((gid, amt, d) :: rest) → KMap.look s.groups gid = some g →
      32768 < s.regsUsed (core * 4 + q) + amt * g.width →
      (∀ e ∈ s.groups, s.quarterOf e.2 = core * 4 + q → e.2.sched ≠ .exited → ∃ a d, e.2.sched = .blocked (.reggrow a d)) →
      (∀ e ∈ s.halves, e.2.core * 4 + e.2.quarter = core * 4 + q → s.teamOver e.2 = true ∨ e.2.leaving ≠ 1) →
      s.youngest (core * 4 + q) = some u →
      ∃ t, exec (.arbiterTimeout core q) s = .next t ∧ t.groups = s.groups ∧ t.mem = s.mem ∧
        ∀ x ∈ u, ∀ h, KMap.look s.halves x = some h → ∃ h', KMap.look t.halves x = some h' ∧ h'.leaving = 1)

/-- Registers on demand: `reggrow` and `regshr`, and the quarter's queue of requests with its arbiter (05 R149; 09 R226, R227). -/
def Obligations.RegistersOnDemand : Prop := Claim.RegisterRequests ∧ Claim.RegisterArbiter

/-- Rounds: an increment that has begun makes the counter word one more and, with BCAST, sends the new value to every core, to reach
it within 4096 ticks; a broadcast raises the core's known round; a lane of a `ldb.st` that waits is answered while no increment is
in progress and its region's stall timeout has not elapsed, and after that parks with ROUND_STALL (05 R125; 20 R367, R369 to
R372). -/
def Obligations.Rounds : Prop :=
  (∀ (s : State) cn region c r who id rest l, KMap.look s.ctxs cn = some c → KMap.look c.regions region = some r →
    KMap.look s.incs (cn * 256 + region) = some (⟨some who, id, true⟩ :: rest) → s.walkCtx c r.cntva.toNat = .ok l →
    (∀ g, KMap.look s.groups who = some g → g.fences = []) →
    let pa := l.pa r.cntva.toNat
    let new : Word := BitVec.ofNat 32 (s.memNat pa 4) + 1#32
    s.poisoned pa 4 = false → s.hostHas pa 4 = false → s.homeBusy pa = false → (∀ w ∈ s.waits, w.1 ≠ pa / 128) →
    ∃ t, exec (.roundIncrement cn region) s = .next t ∧ t.memBytes pa 4 = leBytes 4 new.toNat ∧
      (∀ a, a < pa ∨ pa + 4 ≤ a → t.mem.get a = s.mem.get a) ∧ KMap.look t.incs (cn * 256 + region) = some rest ∧
      t.groups = s.groups ∧ t.bcasts = if r.bcast then
          s.bcasts ++ (List.range 192).map (fun core => ⟨core, cn, region, new, s.chipTime + 4096⟩)
        else s.bcasts) ∧
  (∀ (s : State) b, b ∈ s.bcasts →
    (∀ x ∈ s.bcasts, x.core = b.core → x.ctx = b.ctx → x.region = b.region → x.round = b.round) →
    let k := krKey b.core b.ctx b.region
    ∃ t, exec (.roundBroadcast b.core b.ctx b.region) s = .next t ∧ t.mem = s.mem ∧ t.groups = s.groups ∧
      t.bcasts.length + 1 = s.bcasts.length ∧ t.kr.get k = if (b.round - s.kr.get k).msb then s.kr.get k else b.round) ∧
  ∀ (s : State) gid g h j x r, KMap.look s.groups gid = some g → g.lateLanes = [(h, j)] → s.laneRegion g h j = some (x, r) →
    (h.time + 2 ^ (12 + r.tmo) ≤ s.chipTime →
      (∃ t g' fr, exec (.roundStall gid) s = .next t ∧ KMap.look t.groups gid = some g' ∧
        g'.fault = some fr ∧ fr.code = 0x12 ∧ fr.at_ = h.pc ∧ fr.mask = h.lanes ∧ g'.pc = g.pc ∧ ∀ key, g'.cur key = g.cur key) ∧
      exec (.roundFetchAnswer gid) s = .fault (.notEnabled "ldb")) ∧
    (s.chipTime < h.time + 2 ^ (12 + r.tmo) →
      (s.incBegun (s.ctxOf g * 256 + x) = false →
        exec (.roundFetchAnswer gid) s = .next ((s.performHeld gid h.id (1#64 <<< j)).afterLand gid)) ∧
      (s.incBegun (s.ctxOf g * 256 + x) = true → exec (.roundFetchAnswer gid) s = .fault (.notEnabled "ldb")))

/-- A fence whose waits are over ends when chip time is looked at, and its group's later memory instructions are free of it
(05 R131). -/
def Claim.FenceEnds : Prop :=
  ∀ s gid g h sc, KMap.sorted s.groups = true → KMap.look s.groups gid = some g → KMap.look s.halves g.hid = some h →
    h.gateArr = [] → (∃ n, g.fences = [⟨sc, .nothing, n⟩]) → (∀ sc' ids, g.sched ≠ .blocked (.drain sc' ids)) →
    s.fenceDone gid g sc none = true →
    ∃ t g', exec (.chipTimeReachesGw gid) s = .next t ∧ KMap.look t.groups gid = some g' ∧ g'.fences = [] ∧ t.mem = s.mem ∧
      g'.pc = g.pc ∧ g'.sched = g.sched ∧ ∀ key, g'.cur key = g.cur key

/-- Results land, stores return, time limits pass and fences end (01 R23, R24; 05 R131, R138; 09 R224): first, that RESULT_LANDS,
GWCT_RETURN, WATCHDOG, TRYW_TIMEOUT and CHIP_TIME_REACHES_GW complete wherever a result may land, a completion time is on its way, the
limit is reached, the window has ended, or the waits of the oldest fence are over; then what each of them does. -/
def Obligations.GroupEvents : Prop :=
  (∀ (s : State) gid g, KMap.look s.groups gid = some g →
    (∀ idx, g.canLand s.chipTime idx = true → ∃ t, exec (.resultLands gid idx) s = .next t) ∧
    (g.gwPend ≠ [] → ∃ t, exec (.gwctReturn gid) s = .next t) ∧
    (∀ h lr, KMap.look s.halves g.hid = some h → s.lrOf h = some lr → g.sched = .ready → g.stopped = false →
      (if lr.wdog = 0 then 2 ^ 24 else 2 ^ lr.wdog) ≤ g.watch.toNat → ∃ t, exec (.watchdog gid) s = .next t) ∧
    (∀ hid off p kd t0, g.sched = .blocked (.tryw hid off p kd t0) → t0 ≤ s.chipTime →
      ∃ t, exec (.trywTimeout gid) s = .next t) ∧
    (∀ f rest, g.fences = f :: rest → s.fenceDone gid g f.scope f.act.own = true →
      ∃ t, exec (.chipTimeReachesGw gid) s = .next t)) ∧
  Claim.Landings ∧ Claim.Timeouts ∧ Claim.FenceEnds

/-! ### Tile operations -/

/-- The C and A slots: scalar arithmetic, moves and comparison write their register with the value of 07 R174, R175; pointers,
strides and loop counts take their values, and `apadd` wraps in the pointer's field (07 R185; 06 R157). -/
def Obligations.TileScalars : Prop :=
  let any : State → Half → Tile → Prop := fun _ _ _ => True
  let nothing : State → Half → Tile → Tile → Prop := fun _ _ _ _ => True
  let b (f : GFmt) (s : State) (t : Tile) : Word := if f.sub = 1#5 then f.imm.signExtend 32 else t.rc s.stamp f.b
  let bz (f : GFmt) (s : State) (t : Tile) : Word := if f.sub = 1#5 then f.imm.setWidth 32 else t.rc s.stamp f.b
  (∀ f : GFmt, TileRuns (.cnop f) any [] nothing ∧
    TileRuns (.cadd f) any [f.d.toNat] (ScalarIs f.d (fun s _ t => t.rc s.stamp f.a + b f s t)) ∧
    TileRuns (.csub f) any [f.d.toNat] (ScalarIs f.d (fun s _ t => t.rc s.stamp f.a - b f s t)) ∧
    TileRuns (.cmul f) any [f.d.toNat] (ScalarIs f.d (fun s _ t => t.rc s.stamp f.a * b f s t)) ∧
    TileRuns (.cand f) any [f.d.toNat] (ScalarIs f.d (fun s _ t => t.rc s.stamp f.a &&& bz f s t)) ∧
    TileRuns (.cor f) any [f.d.toNat] (ScalarIs f.d (fun s _ t => t.rc s.stamp f.a ||| bz f s t)) ∧
    TileRuns (.cxor f) any [f.d.toNat] (ScalarIs f.d (fun s _ t => t.rc s.stamp f.a ^^^ bz f s t)) ∧
    TileRuns (.cshl f) any [f.d.toNat] (ScalarIs f.d (fun s _ t => t.rc s.stamp f.a <<< (bz f s t).toNat)) ∧
    TileRuns (.cshr f) any [f.d.toNat] (ScalarIs f.d (fun s _ t => t.rc s.stamp f.a >>> (bz f s t).toNat)) ∧
    TileRuns (.csar f) any [f.d.toNat] (ScalarIs f.d (fun s _ t => (t.rc s.stamp f.a).sshiftRight (bz f s t).toNat)) ∧
    TileRuns (.cmov f) any [f.d.toNat] (ScalarIs f.d (fun s _ t => t.rc s.stamp f.a)) ∧
    TileRuns (.ccmp f) any [f.d.toNat] (fun s _ t t' =>
      let y : Word := if f.sub.getLsbD 4 then f.imm.signExtend 32 else t.rc s.stamp f.b
      (f.sub.toNat % 16 = 2 → t'.c.get f.d.toNat = if (t.rc s.stamp f.a).toInt < y.toInt then 1#32 else 0#32) ∧
      (f.sub.toNat % 16 = 0 → t'.c.get f.d.toNat = if t.rc s.stamp f.a = y then 1#32 else 0#32) ∧
      (t'.c.get f.d.toNat = 0#32 ∨ t'.c.get f.d.toNat = 1#32)) ∧
    TileRuns (.apadd f) any [tkAp f.d.toNat] (fun s _ t t' =>
      let by_ : Int := if f.sub = 0#5 then (BitVec.ofNat 32 (t.read s.stamp (tkSd f.b.toNat)) : Word).toInt else f.imm.toInt
      let old := (t.rap s.stamp f.d.toNat).toNat
      let new := (t'.ap.get f.d.toNat).toNat
      let m : Nat := if old / 2 ^ 63 = 1 then 2 ^ 57 else 2 ^ 32
      new / m = old / m ∧ ((new % m : Nat) : Int) = ((old % m : Nat) + by_) % (m : Int))) ∧
  ∀ f : KFmt,
    TileRuns (.cmovi f) any [f.d.toNat] (ScalarIs f.d (fun _ _ _ => f.imm)) ∧
    TileRuns (.apset f) any [tkAp f.d.toNat] (fun _ _ _ t' => t'.ap.get f.d.toNat = f.imm.setWidth 64) ∧
    TileRuns (.sdset f) any [tkSd f.d.toNat] (fun _ _ _ t' => t'.sd.get f.d.toNat = f.imm) ∧
    TileRuns (.lcset f) any [tkLc f.d.toNat] (fun _ _ _ t' => t'.lc.get f.d.toNat = f.imm)

/-- Jumps enter their target behind the two bundles that follow, and go on where their condition fails; `jal` links the bundle
after those two; `loop` of a count that is not zero starts its body and of zero goes past it (06 R165; 07 R178 to R181).
The model's own choices here: log entry 30. -/
def Obligations.TileJumps : Prop :=
  ∀ s hid h t m,
    let goes (i : Instr) (nn : Nat) (ds : List Nat) (P : Tile → Prop) : Prop := ∃ u t', exec i s = .next u ∧ OnlyTile s u hid h t' ∧
      t.steps m t' nn ∧ t'.beside = t.beside ∧ t.leaves t' ds ∧ P t'
    let target (off : BitVec 20) : Nat := (((t.pc : Int) + 8 * off.toInt) % 2 ^ 64).toNat
    (∀ f : JFmt, s.tileAtWork hid h t m (.jmp f) → goes (.jmp f) (target f.off) [] (fun _ => True)) ∧
    (∀ f : JFmt, s.tileAtWork hid h t m (.jc f) →
      let a := (t.rc s.stamp f.a).toInt
      let holds : Bool := match f.sub.toNat with
        | 0 => decide (a ≠ 0)
        | 1 => decide (a = 0)
        | 2 => decide (a < 0)
        | 3 => decide (0 ≤ a)
        | 4 => decide (0 < a)
        | _ => decide (a ≤ 0)
      goes (.jc f) (if holds then target f.off else t.after) [] (fun _ => True)) ∧
    (∀ f : JFmt, s.tileAtWork hid h t m (.jal f) →
      goes (.jal f) (target f.off) [f.d.toNat] (fun t' => t'.c.get f.d.toNat = BitVec.ofNat 32 t.after)) ∧
    (∀ f : GFmt, s.tileAtWork hid h t m (.jr f) → goes (.jr f) (t.rc s.stamp f.a).toNat [] (fun _ => True)) ∧
    (∀ f : JFmt, s.tileAtWork hid h t m (.loop f) → t.queued = 0 →
      let n := if f.sub = 0#5 then t.rc s.stamp f.a else (BitVec.ofNat 32 (t.read s.stamp (tkLc f.d.toNat)) : Word)
      t.pc < target f.off →
      ∃ u t', exec (.loop f) s = .next u ∧ OnlyTile s u hid h t' ∧ { t'.beside with cfx := t.cfx } = t.beside ∧
        (n ≠ 0#32 → t'.pc = m.seq t.pc ∧ ∃ lv, KMap.look t'.loops f.d.toNat = some lv ∧ lv.start = m.seq t.pc ∧ lv.end_ = target f.off) ∧
        (n = 0#32 → t'.pc = m.seq (target f.off) ∧ t'.loops = []))

/-- `cgets` reads and `csets` writes the special values; a value of `cfm` with a reserved bit raises ILLEGAL; `gret` waits
while a command of the context has not completed, and closes the gate once none is left (07 R183, R184).
The model's own choices here: log entries 17 and 104. -/
def Obligations.TileSpecials : Prop :=
  ∀ (f : GFmt) s hid h t m,
    (s.tileAtWork hid h t m (.cgets f) →
      let x := f.imm.toNat
      ∃ u t', exec (.cgets f) s = .next u ∧ OnlyTile s u hid h t' ∧ t.steps m t' t.after ∧
        { t'.beside with latchT := t.latchT } = t.beside ∧ t.leaves t' [f.d.toNat] ∧
        t'.latchT = (if x = 3 then BitVec.ofNat 64 s.chipTime else t.latchT) ∧
        (x = 0 → t'.c.get f.d.toNat = t.cfm) ∧ (x = 1 → t'.c.get f.d.toNat = t.cfx) ∧ (x = 2 → t'.c.get f.d.toNat = t.batch) ∧
        (x = 3 → t'.c.get f.d.toNat = loWord (BitVec.ofNat 64 s.chipTime)) ∧ (x = 4 → t'.c.get f.d.toNat = hiWord t.latchT) ∧
        (x = 5 → t'.c.get f.d.toNat = BitVec.ofNat 32 h.half) ∧ (x = 6 → t'.c.get f.d.toNat = BitVec.ofNat 32 h.team) ∧
        (x = 7 → t'.c.get f.d.toNat = t.migrations)) ∧
    (s.tileAtWork hid h t m (.csets f) →
      let v := t.rc s.stamp f.a
      let goes (ds : List Nat) (P : Tile → Prop) : Prop := ∃ u t', exec (.csets f) s = .next u ∧ OnlyTile s u hid h t' ∧
        t.steps m t' t.after ∧ { t'.beside with cfx := t.cfx, q := t.q } = t.beside ∧ t.leaves t' ds ∧ P t'
      (f.imm = 0#16 → v.toNat < 64 → goes [] (fun t' => t'.cfmNext = [(1, v)] ∧ t'.cfx = t.cfx ∧ t'.q = t.q)) ∧
      (f.imm = 1#16 → goes [] (fun t' => t'.cfx = v &&& 0x1F#32 ∧ t'.q = t.q)) ∧
      (8 ≤ f.imm.toNat → f.imm.toNat < 12 → goes [tkLc (f.imm.toNat - 8)] (fun t' => t'.lc.get (f.imm.toNat - 8) = v ∧
        t'.cfx = t.cfx ∧ t'.q = t.q)) ∧
      (16 ≤ f.imm.toNat → v = 0#32 → (t.stream (f.imm.toNat - 16)).level = 0 → s.entries = [] →
        goes [] (fun t' => t'.cfx = t.cfx ∧ KMap.look t'.q (f.imm.toNat - 16) = some ⟨0#32, 0, 0⟩))) ∧
    (s.tileAtWork hid h t m (.gret f) →
      ((∃ e ∈ s.entries, e.issuer = .tile hid) → exec (.gret f) s = .next s) ∧
      ((∀ e ∈ s.entries, e.issuer ≠ .tile hid) → ∃ u t', exec (.gret f) s = .next u ∧ OnlyTile s u hid h t' ∧ t'.closing = true ∧
        { t'.beside with closing := t.closing } = t.beside ∧ t'.pc = t.pc ∧ t.leaves t' []))

/-- Sequencer loads and stores of local memory move their bytes, `vld` and `vst` also a row of an accumulator that the
context was granted (07 R176, R191, R192). -/
def Obligations.TileMemory : Prop :=
  ∀ f : GFmt,
    let clean (al n : Nat) : State → Half → Tile → Prop := fun s h t => ∃ q, h.tile = some t ∧
      (∃ hid, KMap.look s.halves hid = some h ∧ s.cur = .tile hid ∧ s.seqPlace hid t f.p.toNat f.imm n al q) ∧ s.locPoisoned q n = false
    let at_ (n : Nat) (s : State) (t : Tile) (q : LPlace) : Prop := ∃ hid, s.cur = .tile hid ∧
      s.localPlace hid (loWord (t.rap s.stamp f.p.toNat) + f.imm.signExtend 32).toNat n = some q
    let idle (a : Nat) (s : State) (t : Tile) : Prop := a < t.grant ∧ s.entries = []
    let stores (i : Instr) (n al : Nat) (bytes : State → Tile → List Byte) : Prop :=
      ∀ s hid h t m q, s.tileAtWork hid h t m i → s.seqPlace hid t f.p.toNat f.imm n al q →
        s.inFrame { q with off := q.off + n - 1 } = false → ∃ u h' t', exec i s = .next u ∧ u.mem = s.mem ∧ u.groups = s.groups ∧
          KMap.look u.halves hid = some h' ∧ h'.tile = some t' ∧ t.steps m t' t.after ∧ t'.beside = t.beside ∧ t.leaves t' [] ∧
          u.locBytes q n = bytes s t ∧
          ∀ hd tob off, ¬ q.covers n hd tob off → u.locByte hd tob off = s.locByte hd tob off
    TileRuns (.cld f) (clean 4 4) [f.d.toNat] (fun s _ t t' => ∀ q, at_ 4 s t q →
      t'.c.get f.d.toNat = BitVec.ofNat 32 (leNat (s.locBytes q 4))) ∧
    stores (.cst f) 4 4 (fun s t => leBytes 4 (t.rc s.stamp f.a).toNat) ∧
    (f.sub = 0#5 → TileRuns (.vld f) (clean 64 512) [tkW f.d.toNat] (fun s _ t t' => ∀ q, at_ 512 s t q →
      t'.vec f.d.toNat = leNat (s.locBytes q 512))) ∧
    (f.sub = 1#5 → TileRuns (.vld f) (fun s _ t => idle f.a.toNat s t) [tkW f.d.toNat] (fun _ _ t t' => ∀ j < 128,
      elem (t'.vec f.d.toNat) 32 j = (t.acc.get (accKey f.a.toNat f.imm.toNat j)).toNat)) ∧
    TileRuns (.vldb f) (clean 64 512) [tkW f.d.toNat] (fun s _ t t' => ∀ q, at_ 512 s t q →
      t'.vec f.d.toNat = leNat (s.locBytes q 512)) ∧
    (f.sub = 0#5 → stores (.vst f) 512 64 (fun s t => leBytes 512 (t.rw s.stamp f.a.toNat))) ∧
    (f.sub = 1#5 → ∀ s hid h t m, s.tileAtWork hid h t m (.vst f) → idle f.d.toNat s t →
      ∃ u t', exec (.vst f) s = .next u ∧ OnlyTile s u hid h t' ∧ t.steps m t' t.after ∧ { t'.beside with acc := t.acc } = t.beside ∧
        t.leaves t' [] ∧ (∀ j < 128, t'.acc.get (accKey f.d.toNat f.imm.toNat j) = BitVec.ofNat 32 (elem (t.rw s.stamp f.a.toNat) 32 j)) ∧
        ∀ k, (∀ j < 128, k ≠ accKey f.d.toNat f.imm.toNat j) → t'.acc.get k = t.acc.get k)

/-- The V slot's cascade, conversions, reductions and moves write their registers only, with the sticky flags where they
round; broadcasts, permutations and selections act element by element, and so does a cascade of s32 elements (07 R186 to
R189, R193 to R195). -/
def Obligations.TileVectors : Prop :=
  let any : State → Half → Tile → Prop := fun _ _ _ => True
  let nothing : State → Half → Tile → Tile → Prop := fun _ _ _ _ => True
  (∀ f : VFmt,
    TileRuns (.vcas f) any (tkW f.wz.toNat :: if f.xw then [tkW (f.wz.toNat + 1)] else []) (fun s _ t t' =>
      f.ty = 3#2 → f.op2.toNat = 6 → f.op3.toNat = 6 → f.ma = 0#2 → f.mb = 0#2 → f.cl = 0#2 → ∀ j < 128,
        let a := elem (t.rw s.stamp f.wa.toNat) 32 j
        let b := elem (t.rw s.stamp f.wb.toNat) 32 j
        (f.op1.toNat = 0 → elem (t'.vec f.wz.toNat) 32 j = (a + b) % 2 ^ 32) ∧
        (f.op1.toNat = 3 → elem (t'.vec f.wz.toNat) 32 j = a * b % 2 ^ 32) ∧
        (f.op1.toNat = 7 → elem (t'.vec f.wz.toNat) 32 j = b))) ∧
  ∀ f : GFmt,
    TileRuns (.vcvt f) any ((List.range (max 1 (elemBits f.f2.toNat / elemBits f.f1.toNat))).map (fun k => tkW (f.d.toNat + k)))
      nothing ∧
    TileRuns (.vred f) any [f.d.toNat] nothing ∧
    TileRuns (.vbcast f) any [tkW f.d.toNat] (VectorIs f.d.toNat (elemBits f.f2.toNat) (fun s t _ =>
      if f.sub = 0#5 then (t.rc s.stamp f.a).toNat % 2 ^ elemBits f.f2.toNat
      else elem (t.rw s.stamp f.a.toNat) (elemBits f.f2.toNat) f.imm.toNat)) ∧
    TileRuns (.vperm f) any [tkW f.d.toNat] (VectorIs f.d.toNat (elemBits f.f1.toNat) (fun s t j =>
      elem (t.rw s.stamp f.a.toNat) (elemBits f.f1.toNat)
        (elem (t.rw s.stamp f.b.toNat) 16 j % (4096 / elemBits f.f1.toNat)))) ∧
    TileRuns (.vsel f) any [tkW f.d.toNat] (VectorIs f.d.toNat (elemBits f.f1.toNat) (fun s t j =>
      if elem (t.rw s.stamp f.c.toNat) (elemBits f.f1.toNat) j ≠ 0 then elem (t.rw s.stamp f.a.toNat) (elemBits f.f1.toNat) j
      else elem (t.rw s.stamp f.b.toNat) (elemBits f.f1.toNat) j))

/-- Every queued E-slot command that passes its checks enters one queue of its core with everything it captures: the matrix
queue of the quarter, a Clove channel, Anise or Cumin (07 R196, R203 to R209; 13 R303; 16 R321).
The model's own choices here: log entry 27. -/
def Claim.TileEntries : Prop :=
  ∀ f : GFmt,
    let matrix : TileX → Nat := fun x => qkey x.h.core (4 + x.h.quarter)
    let clove : TileX → Nat := fun x => qkey x.h.core (f.sub.toNat % 4)
    let bar (x : TileX) (b : Option (Nat × Nat)) : Prop :=
      if f.sub.getLsbD 2 then b.isSome ∧ x.s.copyBar x.hid false [] (x.c f.b) = b else b = none
    let granted (r : BitVec 5) (x : TileX) : Prop := r.toNat < x.t.grant
    let words (x : TileX) (w : List DWord) : Prop := (x.ap f.p.toNat).getLsbD 63 = false ∧ (loWord (x.ap f.p.toNat)).toNat % 32 = 0 ∧
      ∃ q, x.s.localPlace x.hid (loWord (x.ap f.p.toNat)).toNat 32 = some q ∧ x.s.locPoisoned q 32 = false ∧ maskBad w = none ∧
        w = (List.range 4).map (fun j => BitVec.ofNat 64 (leNat (Machine.sub (x.s.locBytes q 32) (8 * j) 8)))
    (∀ a b, TilePushes (.sfill f) (fun x => x.ring f.d.toNat = true ∧ x.handle f.a = some a ∧ bar x b ∧
      x.s.copyFull x.h.core 0#64 = false) clove (fun _ => .fill a.side f.d.toNat) b) ∧
    TilePushes (.sdrop f) (fun x => x.ring f.d.toNat = true) matrix (fun x => .sdrop f.d.toNat (x.c f.a).toNat) none ∧
    TilePushes (.mma f) (fun x => granted f.d x ∧ x.ring f.a.toNat = true ∧ x.ring f.b.toNat = true) matrix
      (fun _ => .mma false f.d.toNat f.a.toNat f.b.toNat f.f1.toNat f.f2.toNat) none ∧
    TilePushes (.mmaz f) (fun x => granted f.d x ∧ x.ring f.a.toNat = true ∧ x.ring f.b.toNat = true) matrix
      (fun _ => .mma true f.d.toNat f.a.toNat f.b.toNat f.f1.toNat f.f2.toNat) none ∧
    (∀ d, TilePushes (.ast f) (fun x => granted f.a x ∧ x.handle f.d = some d ∧ d.lh.lay.count = 8192) matrix
      (fun _ => .ast f.a.toNat d.side (f.sub == 1#5)) none) ∧
    (∀ a, TilePushes (.ald f) (fun x => granted f.d x ∧ x.handle f.a = some a ∧ a.lh.lay.count = 8192) matrix
      (fun _ => .ald f.d.toNat a.side) none) ∧
    (∀ w, TilePushes (.amask f) (fun x => granted f.d x ∧ words x w) matrix
      (fun x => .amask f.d.toNat (x.c f.a) (x.c f.b) w) none) ∧
    (∀ a d, TilePushes (.trn f) (fun x => x.handle f.a = some a ∧ x.handle f.d = some d ∧
      permOk (trnPerm f.imm) a.lh.lay.ndim = true ∧ a.lh.lay.count = d.lh.lay.count ∧ a.lh.lay.fmt = d.lh.lay.fmt)
      (fun x => qkey x.h.core 9) (fun _ => .trn d.side a.side (trnPerm f.imm)) none) ∧
    (∀ a b d, TilePushes (.vgmv f) (fun x => x.handle f.a = some a ∧ x.handle f.b = some b ∧ x.handle f.d = some d ∧
      a.lh.lay.fmt = 11 ∧ b.lh.lay.fmt < 3 ∧ b.lh.lay.count ≤ 65535 ∧ d.lh.lay.fmt = 0 ∧ (x.c f.c).toNat ≤ d.lh.lay.count)
      (fun x => qkey x.h.core 8) (fun x => .vgmv d.side a.side b.side (x.c f.c).toNat) none)

/-- A copy between tile handles that passes the checks of a copy enters its channel, once its issue time has come; one that
names a later time waits in the time-sorted buffer (07 R209; 05 R145; 10 R250). -/
def Claim.TileCopies : Prop :=
  ∀ (f : GFmt) (a d : TileH) (b : Option (Nat × Nat)),
    let clove : TileX → Nat := fun x => qkey x.h.core (f.sub.toNat % 4)
    let bar (cast : Bool) (x : TileX) : Prop :=
      let to_ := if cast then (x.s.gangDsts x.h ((x.c f.c).toNat % 256)).1.map Prod.snd else []
      if f.sub.getLsbD 2 then b.isSome ∧ x.s.copyBar x.hid cast to_ (x.c f.b) = b else b = none
    let mode := f.imm.toNat % 4
    let scale (x : TileX) : Nat := if mode = 2 then (loWord (x.ap f.p.toNat)).toNat else f.imm.toNat / 4 % 256
    let idx (x : TileX) : List Nat := (List.range d.lh.lay.outer).map (fun j => elem (x.w f.c.toNat) 32 j)
    let mask (x : TileX) : Nat := (x.c f.c).toNat % 256
    let time (x : TileX) : DWord := if f.sub.getLsbD 3 then x.cPair f.c else 0#64
    let ready (x : TileX) (cast : Bool) (blocks : Option Nat) (m : Option (Nat × Bool)) (tm : DWord) : Prop :=
      x.handle f.a = some a ∧ x.handle f.d = some d ∧ bar cast x ∧ (mode = 2 → (x.ap f.p.toNat).getLsbD 63 = false) ∧
        copyBad x.s.chipTime mode a.lh d.lh a.side.handle d.side.handle a.side.base d.side.base blocks m tm = none ∧
        x.s.copyFull x.h.core tm = false
    TilePushes (.tileCpy f) (fun x => ready x false none none (time x) ∧ (time x).toNat ≤ x.s.chipTime) clove
      (fun x => .copy mode (scale x) a.side [(0, d.side)] none) b ∧
    TilePushes (.tileCpyx f) (fun x => ready x false (some (idx x).length) none 0#64 ∧ a.kind ≠ 1 ∧ d.kind ≠ 1 ∧
      d.lh.lay.outer ≤ 128) clove (fun x => .copy mode (scale x) a.side [(0, d.side)] (some (idx x))) b ∧
    TilePushes (.tileCpym f) (fun x => ready x true none (some (mask x, (x.s.gangDsts x.h (mask x)).2)) 0#64 ∧ a.kind ≠ 1 ∧
      d.kind = 0 ∧ d.side.base < 0x10000000) clove (fun x => .copy mode (scale x) a.side
        ((x.s.gangDsts x.h (mask x)).1.map (fun e => (e.1, { d.side with space := .loc e.2 }))) none) b ∧
    ∀ s hid h t m, s.tileAtWork hid h t m (.tileCpy f) →
      let x : TileX := ⟨s, hid, h, t, s.nextId⟩
      ready x false none none (time x) → s.chipTime < (time x).toNat →
      ∃ u t' h' e, exec (.tileCpy f) s = .next u ∧ KMap.look u.halves hid = some h' ∧ h'.tile = some t' ∧ t.steps m t' t.after ∧
        t.leaves t' [] ∧ u.queues = s.queues ∧ u.mem = s.mem ∧ e.time = time x ∧ e.id = s.nextId ∧ e.bar = b ∧ e.fm = t.cfm ∧
        e.cmd = .copy mode (scale x) a.side [(0, d.side)] none ∧
        KMap.look u.timed h.core = some ((KMap.look s.timed h.core).getD [] ++ [(f.sub.toNat % 4, e)])

/-- E-slot commands enter their queues with everything they capture (07 R196, R203 to R209). -/
def Obligations.TileCommands : Prop := Claim.TileEntries ∧ Claim.TileCopies

/-- The operations that act in the sequencer: `tbind` binds a handle whose record fits and unbinds one, `tskip` tells whether
the mask excludes the whole tile; `apld` loads a virtual pointer, and fills a translation register as `xlat` does where it names one
(07 R185, R197, R201, R206; 13 R305; 04 R91). -/
def Claim.TileHandles : Prop :=
  ∀ f : GFmt,
    let bound (word : State → Tile → Nat) : State → Half → Tile → Tile → Prop :=
      fun s _ t t' => (t'.t.get f.d.toNat).toNat = 2 ^ 63 + (t.rc s.stamp f.a).toNat * 2 ^ 51 + word s t
    let low (s : State) (t : Tile) : Nat := (loWord (t.rap s.stamp f.p.toNat) + f.imm.signExtend 32).toNat
    let va (s : State) (t : Tile) : Int := ((t.rap s.stamp f.p.toNat).toNat % 2 ^ 57 : Nat) + f.imm.toInt
    let off (s : State) (t : Tile) : Int := va s t - (((KMap.look t.xb (f.sub.toNat % 4)).getD Bx.invalid).vbase.toNat : Nat)
    let fits (s : State) (h : Half) (t : Tile) (base : Nat) : Prop := f.sub.getLsbD 2 = false ∧ (t.rc s.stamp f.a).toNat < 4096 ∧
      ∃ l, s.layout h.ctx (t.rc s.stamp f.a).toNat = some l ∧ l.fits base = true
    TileRuns (.tbind f) (fun _ _ _ => f.sub.getLsbD 2 = true) [tkT f.d.toNat] (fun _ _ _ t' => t'.t.get f.d.toNat = 0#64) ∧
    TileRuns (.tbind f) (fun s h t => (t.rap s.stamp f.p.toNat).getLsbD 63 = false ∧ fits s h t (low s t)) [tkT f.d.toNat]
      (bound low) ∧
    TileRuns (.tbind f) (fun s h t => (t.rap s.stamp f.p.toNat).getLsbD 63 = true ∧ 0 ≤ off s t ∧ off s t < 2 ^ 48 ∧
      fits s h t (va s t).toNat) [tkT f.d.toNat] (bound (fun s t => (4 + f.sub.toNat % 4) * 2 ^ 48 + (off s t).toNat)) ∧
    (let pair (s : State) (t : Tile) : DWord := t.rc s.stamp (f.a + 1#5) ++ t.rc s.stamp f.a
     ∀ s hid h t m, s.tileAtWork hid h t m (.apld f) → (pair s t).toNat < 2 ^ 57 →
      ∃ u t' h', exec (.apld f) s = .next u ∧ KMap.look u.halves hid = some h' ∧ h'.tile = some t' ∧ t.steps m t' t.after ∧
        { t'.beside with xb := t.xb } = t.beside ∧ t.leaves t' [tkAp f.d.toNat] ∧ u.mem = s.mem ∧ u.groups = s.groups ∧
        (t'.ap.get f.d.toNat).toNat = (pair s t).toNat + 2 ^ 63 ∧ (f.sub = 0#5 → t'.xb = t.xb) ∧
        (f.sub ≠ 0#5 → ∃ b, KMap.look t'.xb (f.sub.toNat - 1) = some b ∧ b.vbase = pair s t ∧
          (∀ k, k ≠ f.sub.toNat - 1 → KMap.look t'.xb k = KMap.look t.xb k) ∧
          (isLocal (pair s t).toNat = false → ∀ e, (s.leafOf h.core h.ctx (pair s t).toNat).1 = .error e → b.limit = 0#32) ∧
          (isLocal (pair s t).toNat = false → ∀ l, (s.leafOf h.core h.ctx (pair s t).toNat).1 = .ok l → b.leaf = some l))) ∧
    ∀ w pos docs, TileRuns (.tskip f) (fun s _ t => ∃ hid q, s.cur = .tile hid ∧ (t.rap s.stamp f.p.toNat).getLsbD 63 = false ∧
      (loWord (t.rap s.stamp f.p.toNat)).toNat % 32 = 0 ∧
      s.localPlace hid (loWord (t.rap s.stamp f.p.toNat)).toNat 32 = some q ∧ s.locPoisoned q 32 = false ∧ maskBad w = none ∧
      w = (List.range 4).map (fun j => BitVec.ofNat 64 (leNat (Machine.sub (s.locBytes q 32) (8 * j) 8))) ∧
      s.maskLists none hid (maskOf w) ((maskOf w).poslist && (maskOf w).structural) = .ok (pos, docs)) [f.d.toNat] (fun s _ t t' =>
        (t'.c.get f.d.toNat = 0#32 ∨ t'.c.get f.d.toNat = 1#32) ∧
        (t'.c.get f.d.toNat = 1#32 ↔ ∀ r < 64, ∀ c < 128,
          (maskOf w).excludes pos docs (t.rc s.stamp f.a).toNat (t.rc s.stamp f.b).toNat r c = true))

/-- `bfence` closes the batch under the next number and writes it; `bwait` and `drain` go on once what they name is complete
and wait before; `qfence` enters one fence at the tail of every queue it names; `round` joins the batch and goes out behind
the commands before it (07 R198 to R200). -/
def Claim.TileOrder : Prop :=
  ∀ f : GFmt,
    (∀ s hid h t m, s.tileAtWork hid h t m (.bfence f) →
      ∃ u t' h', exec (.bfence f) s = .next u ∧ KMap.look u.halves hid = some h' ∧ h'.tile = some t' ∧ t.steps m t' t.after ∧
        t.leaves t' [f.d.toNat] ∧ t'.c.get f.d.toNat = t.batch + 1#32 ∧ t'.batch = t.batch + 1#32 ∧ t'.batchOpen = [] ∧
        { t'.beside with batch := t.batch, batchOpen := t.batchOpen, batches := t.batches } = t.beside ∧ u.mem = s.mem ∧
        u.groups = s.groups ∧ u.queues = s.queues) ∧
    TileRuns (.bwait f) (fun s _ t => (t.rc s.stamp f.a - t.batch).toInt ≤ 0 ∧
      ∀ b ∈ t.batches, (b.1 - t.batch).toInt ≤ (t.rc s.stamp f.a - t.batch).toInt → b.2 = []) [] (fun _ _ _ _ => True) ∧
    (∀ s hid h t m, s.tileAtWork hid h t m (.bwait f) → (t.rc s.stamp f.a - t.batch).toInt ≤ 0 →
      (∃ b ∈ t.batches, (b.1 - t.batch).toInt ≤ (t.rc s.stamp f.a - t.batch).toInt ∧ b.2 ≠ []) → exec (.bwait f) s = .next s) ∧
    TileRuns (.tileDrain f) (fun s h _ => s.channelIds h.core f.sub.toNat = [] ∧
      ∀ v ∈ s.visible, ¬ (v.core = h.core ∧ v.channel = f.sub.toNat)) [] (fun _ _ _ _ => True) ∧
    (∀ s hid h t m, s.tileAtWork hid h t m (.tileDrain f) → (∃ id, id ∈ s.channelIds h.core f.sub.toNat) →
      exec (.tileDrain f) s = .next s) ∧
    ∀ r, TilePushes (.tileRound f) (fun x => (x.c f.a).toNat < 256 ∧
      ((KMap.look x.s.ctxs x.h.ctx).bind (fun c => KMap.look c.regions (x.c f.a).toNat)) = some r ∧ r.v = true)
      (fun x => roundQueue x.h.core x.h.quarter x.t.index)
      (fun x => .round (x.c f.a).toNat x.t.gw ((x.s.entries.filter (fun e => e.issuer == .tile x.hid)).map (fun e => e.id) ++
        (x.s.visible.filter (fun v => v.core == x.h.core)).map (fun v => v.id))) none

/-- `qfence` of tile code enters one fence at the tail of every queue it names, and in no other (07 R199; 05 R132). -/
def Claim.TileQueueFence : Prop :=
  ∀ (f : GFmt) s hid h t m, s.tileAtWork hid h t m (.tileQfence f) → h.core < 192 → h.quarter < 4 →
    (f.imm.toNat.testBit 8 = true → (t.rc s.stamp f.a).toNat < 128) → s.cloveCount h.core < 512 →
    let named (x : Nat) : Prop := (x < 4 ∧ f.imm.toNat.testBit x = true) ∨ (x = 4 + h.quarter ∧ f.imm.toNat.testBit 4 = true) ∨
      (x = 8 ∧ f.imm.toNat.testBit 5 = true) ∨ (x = 9 ∧ f.imm.toNat.testBit 6 = true) ∨ (x = 10 ∧ f.imm.toNat.testBit 7 = true)
    ∃ u t' h' e, exec (.tileQfence f) s = .next u ∧ KMap.look u.halves hid = some h' ∧ h'.tile = some t' ∧ t.steps m t' t.after ∧
      t.leaves t' [] ∧ t'.batchOpen = t.batchOpen ++ [s.nextId] ∧ u.mem = s.mem ∧ u.groups = s.groups ∧ e.id = s.nextId ∧
      e.cmd = .qfence s.nextId f.f1.toNat ∧ e.issuer = .tile hid ∧
      (∀ x < 32, named x → u.queue (qkey h.core x) = s.queue (qkey h.core x) ++ [e]) ∧
      (∀ x < 32, ¬ named x → u.queue (qkey h.core x) = s.queue (qkey h.core x)) ∧
      (f.imm.toNat.testBit 8 = true → ∃ q, KMap.look u.loch (t.rc s.stamp f.a).toNat = some q ∧
        q.entries = ((KMap.look s.loch (t.rc s.stamp f.a).toNat).getD Loch.reset).entries ++ [e])

/-- Handles bound and skipped, pointers loaded; batches, drains, fences and rounds of tile code (04 R91; 07 R185, R197 to R201,
R206; 13 R305). -/
def Obligations.TileSync : Prop := Claim.TileHandles ∧ Claim.TileOrder ∧ Claim.TileQueueFence

/-- Every operation of the C and A slots completes in one step, whatever else the sequencer is doing (hardware loops, results
on their way): its own effect takes place and the sequencer moves on by one bundle, a jump's target entering behind the two
that follow (06 R165; 07 R174 to R185). A load or store needs a place in the half's banks; `gret` and `loop` need what 07 R180 and
R184 ask. The model's own choices here: log entry 104. -/
def Obligations.TileScalarsComplete : Prop :=
  ∀ (f : GFmt) (k : KFmt) (j : JFmt) s hid h t, s.cur = .tile hid → KMap.look s.halves hid = some h → h.tile = some t →
    let runs (i : Instr) : Prop := i.check 256 = none
    let m := (s.imageOf h).getD Image.empty
    let tileOf (u : State) (P : Tile → Prop) : Prop := ∃ h' t', KMap.look u.halves hid = some h' ∧ h'.tile = some t' ∧ P t'
    let moved (u : State) (P : Tile → Prop) : Prop := tileOf u (fun t' => t'.pc = t.npc ∧ t'.npc = t.nnpc ∧ P t')
    let goal : Nat := (((t.pc : Int) + 8 * j.off.toInt) % 2 ^ 64).toNat
    let a := t.rc s.stamp f.a
    let b : Word := if f.sub = 1#5 then f.imm.signExtend 32 else t.rc s.stamp f.b
    let bz : Word := if f.sub = 1#5 then f.imm.setWidth 32 else t.rc s.stamp f.b
    let gets (d : BitVec 5) (x : Word) (t' : Tile) : Prop := t'.c.get d.toNat = x
    (runs (.cnop f) → ∃ u, exec (.cnop f) s = .next u ∧ moved u (fun _ => True)) ∧
    (runs (.cadd f) → ∃ u, exec (.cadd f) s = .next u ∧ moved u (gets f.d (a + b))) ∧
    (runs (.csub f) → ∃ u, exec (.csub f) s = .next u ∧ moved u (gets f.d (a - b))) ∧
    (runs (.cmul f) → ∃ u, exec (.cmul f) s = .next u ∧ moved u (gets f.d (a * b))) ∧
    (runs (.cand f) → ∃ u, exec (.cand f) s = .next u ∧ moved u (gets f.d (a &&& bz))) ∧
    (runs (.cor f) → ∃ u, exec (.cor f) s = .next u ∧ moved u (gets f.d (a ||| bz))) ∧
    (runs (.cxor f) → ∃ u, exec (.cxor f) s = .next u ∧ moved u (gets f.d (a ^^^ bz))) ∧
    (runs (.cshl f) → ∃ u, exec (.cshl f) s = .next u ∧ moved u (gets f.d (a <<< bz.toNat))) ∧
    (runs (.cshr f) → ∃ u, exec (.cshr f) s = .next u ∧ moved u (gets f.d (a >>> bz.toNat))) ∧
    (runs (.csar f) → ∃ u, exec (.csar f) s = .next u ∧ moved u (gets f.d (a.sshiftRight bz.toNat))) ∧
    (runs (.cmov f) → ∃ u, exec (.cmov f) s = .next u ∧ moved u (gets f.d a)) ∧
    (runs (.cmovi k) → ∃ u, exec (.cmovi k) s = .next u ∧ moved u (gets k.d k.imm)) ∧
    (runs (.ccmp f) → ∃ u, exec (.ccmp f) s = .next u ∧ moved u (fun t' => gets f.d 0#32 t' ∨ gets f.d 1#32 t')) ∧
    (∀ q, runs (.cld f) → s.seqPlace hid t f.p.toNat f.imm 4 4 q → s.locPoisoned q 4 = false →
      ∃ u, exec (.cld f) s = .next u ∧ moved u (gets f.d (BitVec.ofNat 32 (leNat (s.locBytes q 4))))) ∧
    (∀ q, runs (.cst f) → s.seqPlace hid t f.p.toNat f.imm 4 4 q → s.inFrame { q with off := q.off + 4 - 1 } = false →
      ∃ u, exec (.cst f) s = .next u ∧ moved u (fun _ => True) ∧ u.locBytes q 4 = leBytes 4 a.toNat) ∧
    (runs (.jmp j) → ∃ u, exec (.jmp j) s = .next u ∧ moved u (fun t' => t'.nnpc = goal)) ∧
    (runs (.jc j) → ∃ u, exec (.jc j) s = .next u ∧ moved u (fun t' =>
      (j.sub = 0#5 → t.rc s.stamp j.a ≠ 0#32 → t'.nnpc = goal) ∧ (j.sub = 1#5 → t.rc s.stamp j.a = 0#32 → t'.nnpc = goal))) ∧
    (runs (.jal j) → ∃ u, exec (.jal j) s = .next u ∧ moved u (fun t' => t'.nnpc = goal ∧ gets j.d (BitVec.ofNat 32 t.after) t')) ∧
    (runs (.jr f) → ∃ u, exec (.jr f) s = .next u ∧ moved u (fun t' => t'.nnpc = a.toNat)) ∧
    (runs (.loop j) → t.queued = 0 → (∀ e ∈ t.loops, e.1 ≠ j.d.toNat → e.2.has (m.seq t.pc) = true ∧ e.2.has goal = true) →
      let n : Word := if j.sub = 0#5 then t.rc s.stamp j.a else BitVec.ofNat 32 (t.read s.stamp (tkLc j.d.toNat))
      ∃ u, exec (.loop j) s = .next u ∧ tileOf u (fun t' => t'.pc = if n = 0#32 then m.seq goal else m.seq t.pc)) ∧
    (runs (.cgets f) → ∃ u, exec (.cgets f) s = .next u ∧ moved u (fun t' =>
      (f.imm = 0#16 → gets f.d t.cfm t') ∧ (f.imm = 1#16 → gets f.d t.cfx t') ∧ (f.imm = 2#16 → gets f.d t.batch t'))) ∧
    (let r : StreamQ := ⟨a, 0, 0⟩
     let x := f.imm.toNat - 16
     runs (.csets f) → (f.imm = 0#16 → a.toNat < 64) →
      (16 ≤ f.imm.toNat → (r.geom.2 ≠ 0 → r.geom.1 + r.geom.2 ≤ 16384 * h.tobBanks) ∧ (∀ y < 8, y ≠ x → ringsMeet r (t.stream y) = false) ∧
        (t.stream x).level = 0 ∧ s.streamBusy hid x = false) →
      ∃ u, exec (.csets f) s = .next u ∧ moved u (fun t' => (f.imm = 0#16 → (1, a) ∈ t'.cfmNext) ∧
        (f.imm = 1#16 → t'.cfx = a &&& 0x1F#32) ∧ (16 ≤ f.imm.toNat → KMap.look t'.q x = some r))) ∧
    (runs (.gret f) → (∀ e ∈ s.entries, e.issuer ≠ .tile hid) →
      ∃ u, exec (.gret f) s = .next u ∧ tileOf u (fun t' => t'.closing = true ∧ t'.pc = t.pc)) ∧
    (runs (.apset k) → ∃ u, exec (.apset k) s = .next u ∧ moved u (fun t' => t.loops = [] → t'.ap.get k.d.toNat = k.imm.setWidth 64)) ∧
    (runs (.apadd f) → ∃ u, exec (.apadd f) s = .next u ∧ moved u (fun _ => True)) ∧
    (runs (.sdset k) → ∃ u, exec (.sdset k) s = .next u ∧ moved u (fun t' => t'.sd.get k.d.toNat = k.imm)) ∧
    (runs (.lcset k) → ∃ u, exec (.lcset k) s = .next u ∧ moved u (fun t' => t.loops = [] → t'.lc.get k.d.toNat = k.imm)) ∧
    (runs (.apld f) → (t.rc s.stamp (f.a + 1#5) ++ t.rc s.stamp f.a : DWord).toNat < 2 ^ 57 →
      ∃ u, exec (.apld f) s = .next u ∧ moved u (fun t' => t.loops = [] →
        (t'.ap.get f.d.toNat).toNat = (t.rc s.stamp (f.a + 1#5) ++ t.rc s.stamp f.a : DWord).toNat + 2 ^ 63))

/-- Every operation of the V slot, and of the E slots that acts in the sequencer, completes in one step, whatever else the
sequencer is doing: its own effect takes place and the sequencer moves on by one bundle (06 R165; 07 R186 to R195, R198, R199,
R201, R206; 13 R305). An access needs a place in the half's banks or a granted accumulator that no command names; `tbind` a record
that fits; `tskip` a mask it can read; `bwait` and `drain` that what they name is complete. -/
def Obligations.TileVectorsComplete : Prop :=
  ∀ (f : GFmt) (v : VFmt) s hid h t, s.cur = .tile hid → KMap.look s.halves hid = some h → h.tile = some t →
    let runs (i : Instr) : Prop := i.check 256 = none
    let moved (u : State) (P : Tile → Prop) : Prop := ∃ h' t', KMap.look u.halves hid = some h' ∧ h'.tile = some t' ∧
      t'.pc = t.npc ∧ t'.npc = t.nnpc ∧ P t'
    let place (q : LPlace) : Prop := s.seqPlace hid t f.p.toNat f.imm 512 64 q
    let idle (a : BitVec 5) : Prop := a.toNat < t.grant ∧ s.accBusy hid a.toNat = false
    let ap := t.rap s.stamp f.p.toNat
    let n := t.rc s.stamp f.a
    (runs (.vcas v) → ∃ u, exec (.vcas v) s = .next u ∧ moved u (fun _ => True)) ∧
    (∀ q, runs (.vld f) → f.sub = 0#5 → place q → s.locPoisoned q 512 = false →
      ∃ u, exec (.vld f) s = .next u ∧ moved u (fun t' => t'.vec f.d.toNat = leNat (s.locBytes q 512))) ∧
    (runs (.vld f) → f.sub = 1#5 → idle f.a → ∃ u, exec (.vld f) s = .next u ∧ moved u (fun t' => ∀ j < 128,
      elem (t'.vec f.d.toNat) 32 j = (t.acc.get (accKey f.a.toNat f.imm.toNat j)).toNat)) ∧
    (∀ q, runs (.vst f) → f.sub = 0#5 → place q → s.inFrame { q with off := q.off + 512 - 1 } = false →
      ∃ u, exec (.vst f) s = .next u ∧ moved u (fun _ => True) ∧ u.locBytes q 512 = leBytes 512 (t.rw s.stamp f.a.toNat)) ∧
    (runs (.vst f) → f.sub = 1#5 → idle f.d → ∃ u, exec (.vst f) s = .next u ∧ moved u (fun t' => ∀ j < 128,
      t'.acc.get (accKey f.d.toNat f.imm.toNat j) = BitVec.ofNat 32 (elem (t.rw s.stamp f.a.toNat) 32 j))) ∧
    (∀ q, runs (.vldb f) → place q → s.locPoisoned q 512 = false →
      ∃ u, exec (.vldb f) s = .next u ∧ moved u (fun t' => t'.vec f.d.toNat = leNat (s.locBytes q 512))) ∧
    (runs (.vcvt f) → ∃ u, exec (.vcvt f) s = .next u ∧ moved u (fun _ => True)) ∧
    (runs (.vred f) → ∃ u, exec (.vred f) s = .next u ∧ moved u (fun _ => True)) ∧
    (runs (.vbcast f) → ∃ u, exec (.vbcast f) s = .next u ∧ moved u (fun t' => f.sub = 0#5 → ∀ j < 4096 / elemBits f.f2.toNat,
      elem (t'.vec f.d.toNat) (elemBits f.f2.toNat) j = n.toNat % 2 ^ elemBits f.f2.toNat)) ∧
    (runs (.vperm f) → ∃ u, exec (.vperm f) s = .next u ∧ moved u (fun _ => True)) ∧
    (runs (.vsel f) → ∃ u, exec (.vsel f) s = .next u ∧ moved u (fun _ => True)) ∧
    (runs (.tbind f) → f.sub.getLsbD 2 = true → ∃ u, exec (.tbind f) s = .next u ∧ moved u (fun t' => t'.t.get f.d.toNat = 0#64)) ∧
    (∀ l, runs (.tbind f) → f.sub.getLsbD 2 = false → n.toNat < 4096 → s.layout h.ctx n.toNat = some l → ap.getLsbD 63 = false →
      l.fits (loWord ap + f.imm.signExtend 32).toNat = true → ∃ u, exec (.tbind f) s = .next u ∧ moved u (fun t' =>
        (t'.t.get f.d.toNat).toNat = 2 ^ 63 + n.toNat * 2 ^ 51 + (loWord ap + f.imm.signExtend 32).toNat)) ∧
    (∀ w pos docs q, runs (.tskip f) → ap.getLsbD 63 = false → (loWord ap).toNat % 32 = 0 →
      s.localPlace hid (loWord ap).toNat 32 = some q → s.locPoisoned q 32 = false → maskBad w = none →
      w = (List.range 4).map (fun j => BitVec.ofNat 64 (leNat (Machine.sub (s.locBytes q 32) (8 * j) 8))) →
      s.maskLists none hid (maskOf w) ((maskOf w).poslist && (maskOf w).structural) = .ok (pos, docs) →
      ∃ u, exec (.tskip f) s = .next u ∧ moved u (fun t' => t'.c.get f.d.toNat = 0#32 ∨ t'.c.get f.d.toNat = 1#32)) ∧
    (runs (.bfence f) → ∃ u, exec (.bfence f) s = .next u ∧ moved u (fun t' => t'.batch = t.batch + 1#32 ∧ t'.batchOpen = [] ∧
      t'.c.get f.d.toNat = t.batch + 1#32)) ∧
    (runs (.bwait f) → (n - t.batch).toInt ≤ 0 → (∀ b ∈ t.batches, (b.1 - t.batch).toInt ≤ (n - t.batch).toInt → b.2 = []) →
      ∃ u, exec (.bwait f) s = .next u ∧ moved u (fun _ => True)) ∧
    (runs (.tileDrain f) → s.channelIds h.core f.sub.toNat = [] →
      (∀ x ∈ s.visible, ¬ (x.core = h.core ∧ x.channel = f.sub.toNat)) →
      ∃ u, exec (.tileDrain f) s = .next u ∧ moved u (fun _ => True))

/-- BUNDLE_ISSUE of a ready tile context: an annulled bundle takes no effect and steps, a fetched bundle of one slot has the
effect of its operation and steps, and one whose header word breaks the format traps with ILLEGAL CAUSE 8; GATE_CLOSE resumes
every group of the half at RETPC with its saved `em`, and unbinds the map's handles (06 R161, R162, R165; 12 R293; 17 R333).
The model's own choices here: log entries 96 and 100. -/
def Obligations.Bundles : Prop :=
  ∀ (s : State) hid h t m, KMap.look s.halves hid = some h → h.tile = some t → s.imageOf h = some m →
    (s.tileReady hid = true → ∃ u, exec (.bundleIssue hid) s = .next u) ∧
    (s.tileReady hid = true → t.loops = [] → t.lands = [] → t.cfmNext = [] →
      (t.an0 = true → ∃ u t', exec (.bundleIssue hid) s = .next u ∧ OnlyTile s u hid h t' ∧ t.steps m t' t.after ∧
        t'.beside = t.beside ∧ t.leaves t' []) ∧
      (t.an0 = false → (s.fetchBundle h m t.pc).1 = .ok () →
        let s1 := (s.fetchBundle h m t.pc).2
        (∀ k i x w, t.skips = [] → m.bundle t.pc = .ok [(k, i)] → i.check 256 = none →
          slotEff i ⟨s1, hid, h, t, s1.nextId⟩ = .ok x w .next →
          exec (.bundleIssue hid) s = .next ((if k = 4 then x.nameSlot 4 s1.nextId else x).tileStep hid true w .next)) ∧
        (t.pc % 8 = 0 → t.pc / 8 < m.words.length → (m.word t.pc).extractLsb' 0 5 = 0#5 →
          exec (.bundleIssue hid) s = .next (match s1.tileTrap hid 0 (m.indexOf t.pc)
              (trapRec 1 8 (m.word t.pc) (BitVec.ofNat 64 t.pc) 0#64 0#64) with
            | (some u, _) => u
            | (none, u) => u.stepOver hid m true)))) ∧
    ∀ g, h.gate = some g → t.valid = true → t.closing = true → t.stopped = false → s.tilePosted hid s.nextId = false →
      let frame (o n : Nat) : Nat := leNat (Machine.sub (s.locBytes ⟨hid, false, h.frameOff⟩ 256) o n)
      ∃ u h' t', exec (.gateClose hid) s = .next u ∧ u.mem = s.mem ∧ KMap.look u.halves hid = some h' ∧ h'.gate = none ∧
        h'.tile = some t' ∧ t'.valid = false ∧ (∀ e ∈ g.map, t'.t.get e.handle = 0#64) ∧ h'.spad = h.spad ∧ h'.tob = h.tob ∧
        (∀ gid ∈ s.liveGids hid, ∀ x, KMap.look s.groups gid = some x → ∃ x', KMap.look u.groups gid = some x' ∧
          x'.pc.toNat = frame 0 8 ∧ x'.em = BitVec.ofNat 64 (frame (0x40 + 8 * x.idx) 8) &&& x.live ∧ x'.sched = .ready ∧
          x'.watch = 0#32 ∧ ∀ key, x'.cur key = x.cur key) ∧
        ∀ gid, gid ∉ s.liveGids hid → KMap.look u.groups gid = KMap.look s.groups gid

/-! ### Engines and faults -/

/-- A queued command of a group of half `hid`, or of its tile context, stands at the head of a queue and may perform: it has
no fault and nothing of it is done, nothing halts, no earlier command of its channel waits for an issue time, no access to a peer
is under way, no fence is pending, no other command's reads are noted and no drain waits; a group of the half is ready. -/
def Claim.atHead (s : State) (k : Nat) (e : QEnt) (rest : List QEnt) (hid : Nat) : Prop :=
  s.queue k = e :: rest ∧ (∀ x ∈ rest, x.id ≠ e.id) ∧ (KMap.look s.timed (k / 32)).getD [] = [] ∧
    e.fault = none ∧ s.entHalted e = false ∧ e.skip = 0 ∧ e.done = 0 ∧ e.buf = [] ∧ e.gw ≤ s.chipTime ∧ e.bar = none ∧ s.remote = [] ∧
    (∃ gid g, KMap.look s.groups gid = some g ∧ g.hid = hid ∧ g.sched ≠ .exited ∧ (e.issuer = .group gid ∨ e.issuer = .tile hid)) ∧
    (∃ h, KMap.look s.halves hid = some h ∧ h.spadBanks ≤ 64) ∧
    (∀ x ∈ s.groups, x.2.fences = []) ∧ (∀ q ∈ s.queues, ∀ x ∈ q.2, x.shadows = false) ∧
    ∀ x ∈ s.groups, ∀ sc ids, x.2.sched ≠ .blocked (.drain sc ids)

/-- A byte of a half's local memory outside the frame of its open gate (10 R238). -/
def Claim.offFrame (s : State) (hid : Nat) (tob : Bool) (off : Nat) : Prop :=
  tob = true ∨ ∀ h, KMap.look s.halves hid = some h → h.gate.isSome = true → off < h.frameOff

/-- The layout of `n` bytes in a row. -/
def Claim.bytesOf (n : Nat) : Layout := ⟨11, 1, 0, [n, 0, 0, 0, 0], [1, 0, 0, 0, 0]⟩

/-- CLOVE_COMMAND_COMPLETE of a copy, and ANISE_COMMAND_COMPLETE of a `trn`, of `n` bytes of local memory to other bytes of
local memory: the destination holds them, every other byte of local memory outside a gate's frame and all of memory stay, and
the command leaves its queue (10 R251, R252, R255; 11 R275).
The model's own choices here: log entry 22. -/
def Claim.MoveCompletes : Prop :=
  ∀ (s : State) core e rest hid n sb db p q, 0 < n →
    let src : Side := ⟨.loc hid, sb, Claim.bytesOf n, 0⟩
    let dst : Side := ⟨.loc hid, db, Claim.bytesOf n, 0⟩
    s.localPlace hid sb n = some p → s.localPlace hid db n = some q → p.hid = hid → q.hid = hid → s.locPoisoned p n = false →
    (p.tob ≠ q.tob ∨ p.off + n ≤ q.off ∨ q.off + n ≤ p.off) → Claim.offFrame s hid q.tob (q.off + n - 1) →
    let done (i : Instr) (k : Nat) : Prop := ∃ t, exec i s = .next t ∧ t.mem = s.mem ∧ t.queue k = rest ∧
      t.locBytes q n = s.locBytes p n ∧
      ∀ tob off, ¬ q.covers n hid tob off → Claim.offFrame s hid tob off → t.locByte hid tob off = s.locByte hid tob off
    (∀ ch < 4, Claim.atHead s (qkey core ch) e rest hid → e.cmd = .copy 0 0 src [(0, dst)] none →
      done (.cloveCommandComplete core ch) (qkey core ch)) ∧
    (Claim.atHead s (qkey core 9) e rest hid → e.cmd = .trn dst src [0, 1, 2, 3, 4] →
      done (.aniseCommandComplete core) (qkey core 9))

/-- MATRIX_COMMAND_COMPLETE of an `sdrop` whose bytes are present takes them from the head of the stream; CUMIN_COMMAND_COMPLETE
of a `vgmv` of one empty row writes +0; both leave their queue (07 R203, R208; 02 R60; 16 R322).
The model's own choices here: log entries 22 and 31. -/
def Claim.EnginesComplete : Prop :=
  ∀ (s : State) core e rest hid,
    let stays (u : State) : Prop := ∀ tob off, Claim.offFrame s hid tob off → u.locByte hid tob off = s.locByte hid tob off
    (∀ qr h t n x, qr < 4 → Claim.atHead s (qkey core (4 + qr)) e rest hid → KMap.look s.halves hid = some h →
      h.tile = some t → e.cmd = .sdrop n x → x ≤ (t.stream n).level → ∃ u h' t', exec (.matrixCommandComplete core qr) s = .next u ∧
        u.mem = s.mem ∧ u.queue (qkey core (4 + qr)) = rest ∧ KMap.look u.halves hid = some h' ∧ h'.tile = some t' ∧
        t'.stream n = { t.stream n with head := (t.stream n).head + x } ∧ (∀ y, y ≠ n → t'.stream y = t.stream y) ∧ stays u) ∧
    (∀ sb xb db w x q, Claim.atHead s (qkey core 8) e rest hid →
      e.cmd = .vgmv ⟨.loc hid, db, ⟨0, 1, 0, [1, 0, 0, 0, 0], [4, 0, 0, 0, 0]⟩, 0⟩ ⟨.loc hid, sb, Claim.bytesOf 4, 0⟩ xb 1 →
      s.localPlace hid sb 4 = some w → w.hid = hid → s.locPoisoned w 4 = false → s.locBytes w 4 = [0#8, 0#8, 0#8, x] → 1 ≤ x.toNat → x.toNat ≤ 5 →
      s.localPlace hid db 4 = some q → q.hid = hid → Claim.offFrame s hid q.tob (q.off + 3) →
      ∃ u, exec (.cuminCommandComplete core) s = .next u ∧ u.mem = s.mem ∧ u.queue (qkey core 8) = rest ∧
        leNat (u.locBytes q 4) = 0 ∧
        ∀ tob off, ¬ q.covers 4 hid tob off → Claim.offFrame s hid tob off → u.locByte hid tob off = s.locByte hid tob off)

/-- TIMED_COMMAND_RELEASE enters the command of the least issue time that has come, of those that do not halt; QFENCE_ENTRY_RELEASE takes a fence that is
ready out of every queue, and only it; RESIDUE_MISMATCH replays its operation three times, then is HW_FAILURE (10 R250,
11 R276, 26 R439).
The model's own choices here: log entry 27. -/
def Claim.QueueEvents : Prop :=
  (∀ (s : State) core l, KMap.look s.timed core = some l → (∃ x ∈ l, s.entHalted x.2 = false ∧ x.2.time.toNat ≤ s.chipTime) →
    ∃ t ch e, exec (.timedCommandRelease core) s = .next t ∧ (ch, e) ∈ l ∧ (∀ x ∈ l, s.entHalted x.2 = false → e.time.toNat ≤ x.2.time.toNat) ∧
      e ∈ t.queue (qkey core ch) ∧ (∀ x, x ∈ t.queue (qkey core ch) ↔ x = e ∨ x ∈ s.queue (qkey core ch)) ∧
      KMap.look t.timed core = some (l.filter (fun x => x.2.id != e.id)) ∧ t.mem = s.mem ∧ t.groups = s.groups ∧
      t.halves = s.halves ∧ ∀ k, k ≠ qkey core ch → t.queue k = s.queue k) ∧
  (∀ (s : State) fid e sc, s.fence fid = some e → e.cmd = .qfence fid sc → s.fenceReady fid sc = true → s.entHalted e = false →
    (∀ w ∈ s.waits, w.1 < 2 ^ 70) → ∃ t, exec (.qfenceEntryRelease fid) s = .next t ∧ t.mem = s.mem ∧
      (∀ k, t.queue k = (s.queue k).filter (fun x => !x.isFence fid)) ∧
      ∀ k q, KMap.look s.loch k = some q → ∃ q', KMap.look t.loch k = some q' ∧
        q'.entries = q.entries.filter (fun x => !x.isFence fid)) ∧
  ∀ (s : State) k e, s.headOf k = some e → 4 ≤ k % 32 → k % 32 ≤ 8 →
    (e.replays < 3 → ∃ t, exec (.residueMismatch k) s = .next t ∧ t.mem = s.mem ∧ t.groups = s.groups ∧ t.halves = s.halves ∧
      ∃ e' ∈ t.queue k, e'.id = e.id ∧ e'.replays = e.replays + 1) ∧
    (3 ≤ e.replays → exec (.residueMismatch k) s =
      .next ({ s with ibmir := { s.ibmir with retired := s.ibmir.retired ++ [(k / 32, k % 32 - 4)] } }.fatal e.ctx 0x32
        (fatalRec 0x32 0#64)))

/-- The engines at work (10 R250 to R255; 11 R275, R276; 26 R439): first, that TIMED_COMMAND_RELEASE, QFENCE_ENTRY_RELEASE and
RESIDUE_MISMATCH complete wherever a command's time has come, a fence is ready, or a checked command stands at its head; then
what commands and these events do. -/
def Obligations.EngineEvents : Prop :=
  (∀ (s : State) core k fid sc e,
    ((∃ x ∈ (KMap.look s.timed core).getD [], s.entHalted x.2 = false ∧ x.2.time.toNat ≤ s.chipTime) →
      ∃ t, exec (.timedCommandRelease core) s = .next t) ∧
    (s.fence fid = some e → e.cmd = .qfence fid sc → s.fenceReady fid sc = true → s.entHalted e = false →
      ∃ t, exec (.qfenceEntryRelease fid) s = .next t) ∧
    (s.headOf k = some e → 4 ≤ k % 32 → k % 32 ≤ 8 → ∃ t, exec (.residueMismatch k) s = .next t)) ∧
  Claim.MoveCompletes ∧ Claim.EnginesComplete ∧ Claim.QueueEvents

/-- The fault service's answers. To a fault of a group: after a replay it goes on where it stands, and its record is
outstanding no more; unresolvable under retry at group level does the same up to three times, each counted. To a
fault of a command: skip leaves the rest to be filled with the FILL register, retry begins it again. An identifier that is not
outstanding is counted in BADRESP (26 R444, 17 R337, 10 R257, 09 R231). -/
def Claim.Resolutions : Prop :=
  ∀ (s : State) cn c, KMap.look s.ctxs cn = some c →
    (∀ id, (∀ r ∈ c.fq.recs, ¬ (r.id = id ∧ r.cls = 0)) →
      let counted (i : Instr) : Prop := ∃ t c', exec i s = .next t ∧ KMap.look t.ctxs cn = some c' ∧ t.mem = s.mem ∧ t.groups = s.groups ∧
        t.halves = s.halves ∧ t.queues = s.queues ∧ c' = { c with fq := { c.fq with badresp := c.fq.badresp + 1#32 } }
      counted (.resolveReplayPatch cn id) ∧ counted (.resolveSkip cn id) ∧ counted (.resolveRetry cn id) ∧
        counted (.resolveUnresolvable cn id)) ∧
    ∀ r, c.fq.recs.find? (fun x => x.id == r.id && x.cls == 0) = some r → c.fq.held = [] → s.away c r = false →
      let answered (t : State) : Prop := t.mem = s.mem ∧ ∃ c', KMap.look t.ctxs cn = some c' ∧ (∀ x ∈ c'.fq.recs, x.id ≠ r.id) ∧
        c'.fq.badresp = c.fq.badresp
      (∀ g h f, r.source = 0 → r.cmd = 0 → KMap.look s.groups r.unit = some g → KMap.look s.halves g.hid = some h →
        g.fault = some f → g.sched = .parked → g.mark = false → g.held = [] → g.fences = [] → h.gateArr = [] →
        (∃ t g', exec (.resolveReplayPatch cn r.id) s = .next t ∧ answered t ∧ KMap.look t.groups r.unit = some g' ∧ g'.fault = none ∧
          g'.sched = .ready ∧ g'.pc = g.pc ∧ g'.em = g.em ∧ ∀ key, g'.cur key = g.cur key) ∧
        ∀ lr, s.lrOf h = some lr → lr.polgrp = 1 → (g.retries.get 0).toNat < 3 → h.ctx = cn →
          ∃ t g', exec (.resolveUnresolvable cn r.id) s = .next t ∧ answered t ∧ KMap.look t.groups r.unit = some g' ∧ g'.fault = none ∧
            g'.sched = .ready ∧ g'.pc = g.pc ∧ g'.retries.get 0 = g.retries.get 0 + 1#8 ∧ ∀ key, g'.cur key = g.cur key) ∧
      (∀ e, r.source = 0 → r.cmd ≠ 0 → s.entry r.cmd = some e → e.id = r.cmd → e.issuer = .group r.unit →
        (∀ q ∈ s.queues, ∀ x ∈ q.2, x.id = r.cmd → x = e) → s.timed = [] →
        (∃ t, exec (.resolveSkip cn r.id) s = .next t ∧ answered t ∧
          t.entry r.cmd = some { e with fault := none, skip := 2, fill := c.fq.fill }) ∧
        ∃ t, exec (.resolveRetry cn r.id) s = .next t ∧ answered t ∧ t.entry r.cmd = some e.again)

/-- FAULT_RECORD_WRITE writes the next record that has room, where the host holds no line of its place: 128 bytes at its slot of the ring, and moves TAIL by one; no
other byte of memory changes (26 R442, R443). -/
def Claim.FaultRecords : Prop :=
  ∀ (s : State) cn c r, KMap.look s.ctxs cn = some c → c.fq.nextRec = some r →
    (∀ x ∈ c.fq.recs, x.id = r.id → x.written = false → x = r) →
    let at_ := c.fq.base.toNat + 128 * (c.fq.tail.toNat % 2 ^ c.fq.logn)
    s.hostHas at_ 128 = false → s.homeBusy at_ = false →
    ∃ t c', exec (.faultRecordWrite cn) s = .next t ∧ KMap.look t.ctxs cn = some c' ∧ c'.fq.tail = c.fq.tail + 1#64 ∧
      c'.fq.head = c.fq.head ∧ t.memBytes at_ 128 = r.bytes ∧ (∀ a, a < at_ ∨ at_ + 128 ≤ a → t.mem.get a = s.mem.get a) ∧
      t.groups = s.groups ∧ (∀ x ∈ c'.fq.recs, x.id = r.id → x.written = true) ∧
      (r.cls = 0 → ∃ x ∈ c'.fq.recs, x.id = r.id ∧ x.frec = r.frec)

/-- The fault service (26 R442 to R444, 17 R337, 10 R257, 09 R231): first, that a write of each resolution to a context's block,
and the writing of a record that has room, complete; then what they do. -/
def Obligations.FaultService : Prop :=
  (∀ (s : State) cn c id, KMap.look s.ctxs cn = some c →
    (∃ t, exec (.resolveReplayPatch cn id) s = .next t) ∧ (∃ t, exec (.resolveSkip cn id) s = .next t) ∧
    (∃ t, exec (.resolveRetry cn id) s = .next t) ∧ (∃ t, exec (.resolveUnresolvable cn id) s = .next t) ∧
    (c.fq.nextRec.isSome = true → ∃ t, exec (.faultRecordWrite cn) s = .next t)) ∧
  Claim.Resolutions ∧ Claim.FaultRecords

/-! ### Streams and launches -/

/-- `snop`, `jump`, `twait`, `waitev`, `halt`, and `sigev` in both modes, in every form: each starts, and completes at once or
waits for its delay, its event, or the earlier instructions (22 R386, R388, R390, R391, R394, R395). -/
def Claim.StreamControl : Prop :=
  ∀ (s : State) n x c (f : SFmt),
    let event := f.opnd.toNat % 4096
    let value : Word := f.opnd.extractLsb' 18 32
    let starts (i : Instr) (w : Option SWait) : Prop := ∃ t, exec i s = .next t ∧ OnlyStream s t n (x.started w)
    (s.streamAtWork n x c (.snop f) → starts (.snop f) none) ∧
    (s.streamAtWork n x c (.jump f) → ∃ t, exec (.jump f) s = .next t ∧
      OnlyStream s t n { x.started none with pc := x.pc + 8#64 * (f.opnd.setWidth 32).signExtend 64 }) ∧
    (s.streamAtWork n x c (.twait f) →
      starts (.twait f) (if f.opnd = 0#50 then none else some (.time (s.chipTime + f.opnd.toNat)))) ∧
    (s.streamAtWork n x c (.waitev f) →
      starts (.waitev f) (if 0 ≤ (c.events.get event - value).toInt then none else some (.event event value))) ∧
    (s.streamAtWork n x c (.halt f) → (∀ e ∈ x.ins, e.idx < x.base ∨ e.idx = x.count) →
      ∃ t, exec (.halt f) s = .next t ∧ OnlyStream s t n { x.started none with state := 2 }) ∧
    (s.streamAtWork n x c (.halt f) → (∃ e ∈ x.ins, x.base ≤ e.idx ∧ e.idx ≠ x.count) → starts (.halt f) (some .halt)) ∧
    ((∀ e ∈ s.streams, ∀ i ∈ e.2.ins, ∀ ev tg, i.wait ≠ .event ev tg) →
      let signals (i : Instr) (new : Word) : Prop := ∃ t c', exec i s = .next t ∧ KMap.look t.streams n = some (x.started none) ∧
        KMap.look t.ctxs x.ctx = some c' ∧ c'.events.get event = new ∧ (∀ ev, ev ≠ event → c'.events.get ev = c.events.get ev) ∧
        { c' with events := c.events } = c ∧ { t with ctxs := s.ctxs, streams := s.streams } = s
      (s.streamAtWork n x c (.sigevAdd f) → signals (.sigevAdd f) (c.events.get event + value)) ∧
      (s.streamAtWork n x c (.sigevSet f) → signals (.sigevSet f) value))

/-- A kick of a stream of a context that lives, and that does not run, starts it at the aligned address with an empty history, and of a running one sets
LOST only; a delay that has passed completes its `twait`, and no other instruction (22 R382, R388). -/
def Claim.StreamEvents : Prop :=
  ∀ (s : State) n x, KMap.look s.streams n = some x → (∀ c, KMap.look s.ctxs x.ctx = some c → c.killed = false) →
    (∀ va : DWord, x.state ≠ 1 → va.toNat % 8 = 0 → ∃ t x', exec (.kick n va) s = .next t ∧ OnlyStream s t n x' ∧ x'.state = 1 ∧
      x'.code = 0 ∧ x'.field = 0 ∧ x'.killed = false ∧ x'.lost = false ∧ x'.errpc = 0#64 ∧ x'.pc = va ∧ x'.base = x.count ∧
      x'.count = x.count ∧ x'.ctx = x.ctx) ∧
    (∀ va, x.state = 1 → exec (.kick n va) s = .next { s with streams := KMap.put s.streams n { x with lost := true } }) ∧
    ∀ idx e d c, s.insOf n idx = some e → e.wait = .time d → d ≤ s.chipTime → KMap.look s.ctxs x.ctx = some c → c.halted = false →
      ∃ t x', exec (.twaitExpiry n idx) s = .next t ∧ OnlyStream s t n x' ∧ (∀ y ∈ x'.ins, y.idx ≠ idx) ∧
        (∀ y ∈ x.ins, y.idx ≠ idx → y.wait ≠ .halt → y ∈ x'.ins) ∧ x'.pc = x.pc ∧ x'.count = x.count

/-- `res` pins the lines of its list and waits for them, `res` with REL releases the earliest pin of its list, and
RANGES_RESIDENT completes a `res` and queues the teams of a launch; `hand` drops the L1 copies and writes its value to the
host's word (22 R392, R393, R398).
The model's own choices here: log entry 51. -/
def Claim.Residency : Prop :=
  ∀ (s : State) n x c (f : SFmt),
    let ptr := f.opnd.toNat % 2 ^ 49 * 256
    let k := s.streamHome x c
    (∀ b lines, s.streamAtWork n x c (.res f) → ((s.nextIns n x).fetch k ptr 128).2 = .ok b →
      (∀ e ∈ entriesOf b 8, e.1 % 128 = 0 ∧ e.2 % 128 = 0) → k.lines (entriesOf b 8) = .ok lines → lines ≠ [] →
      s.overPinned x.ctx c lines = false → ∃ t, exec (.res f) s = .next t ∧ t = { s with
          streams := KMap.put s.streams n (x.started (some .resident))
          pins := s.pins ++ [⟨x.ctx, n, ptr, none, lines⟩] }) ∧
    (s.streamAtWork n x c (.resRelease f) → ∃ t, exec (.resRelease f) s = .next t ∧
      ((∀ p ∈ s.pins, ¬ (p.stream = n ∧ p.list = ptr ∧ p.launch = none)) → OnlyStream s t n (x.started none)) ∧
      ∀ a p b, s.pins = a ++ p :: b → p.stream = n → p.list = ptr → p.launch = none →
        (∀ y ∈ a, ¬ (y.stream = n ∧ y.list = ptr ∧ y.launch = none)) →
        t = { s with streams := KMap.put s.streams n (x.started none), pins := a ++ b }) ∧
    (∀ idx e, KMap.look s.streams n = some x → KMap.look s.ctxs x.ctx = some c → c.halted = false → s.insOf n idx = some e →
      (e.wait = .resident → ∃ t x', exec (.rangesResident n idx) s = .next t ∧ OnlyStream s t n x' ∧ ∀ y ∈ x'.ins, y.idx ≠ idx) ∧
      ∀ lid l, e.wait = .launch lid → KMap.look s.launches lid = some l → l.queued = false → l.killed = false →
        ∃ t l', exec (.rangesResident n idx) s = .next t ∧ KMap.look t.launches lid = some l' ∧ l'.queued = true ∧ t.mem = s.mem ∧
          KMap.look t.dist (s.partOf l.ctx) = some ((KMap.look s.dist (s.partOf l.ctx)).getD [] ++ unitsOf lid l.lr s.chipTime)) ∧
    ∀ b l, s.streamAtWork n x c (.hand f) → ((s.nextIns n x).fetch k ptr 256).2 = .ok b →
      let u (o : Nat) : Nat := leNat (Machine.sub b o 8)
      leNat (Machine.sub b 32 224) = 0 → u 0 % 8 = 0 → u 16 % 65536 = 0 → u 24 % 65536 = 0 → b.length = 256 →
      s.xferLeaf c (u 0) true = .ok l → l.rem = false → isDevice (l.pa (u 0)) = false → isRegSpace (l.pa (u 0)) = false →
      s.incAt (l.pa (u 0)) 8 = false →
      ∃ t, exec (.hand f) s = .next t ∧ KMap.look t.streams n = some (x.started none) ∧
        t.memBytes (l.pa (u 0)) 8 = Machine.sub b 8 8 ∧
        (∀ a, a < l.pa (u 0) ∨ l.pa (u 0) + 8 ≤ a → t.mem.get a = s.mem.get a) ∧ t.groups = s.groups ∧ t.halves = s.halves ∧
        ∀ z ∈ t.l1, ∀ o, o < u 24 → o % 65536 = 0 → ∀ lf, s.walkCtx c (u 16 + o) = .ok lf → lf.rem = false →
          ¬ (lf.pa (u 16 + o) / 128 ≤ z.line ∧ z.line < lf.pa (u 16 + o) / 128 + 512)

/-- `xfer` reads its descriptor, refuses a reserved bit with ILLEGAL, and then moves its bytes: XFER_COMPLETE of a copy inside
one aligned word of either side writes them, and completes it once they are visible (22 R383 to R385, R389).
The model's own choices here: log entry 50. -/
def Claim.Transfers : Prop :=
  ∀ (s : State) n x c (f : SFmt),
    let ptr := f.opnd.toNat % 2 ^ 49 * 256
    (∀ b, s.streamAtWork n x c (.xfer f) → ((s.nextIns n x).fetch (s.streamHome x c) ptr 256).2 = .ok b →
      let u (o k : Nat) : Nat := leNat (Machine.sub b o k)
      let clean : Prop := u 36 220 = 0 ∧ u 24 8 < 256 ∧ u 24 8 / 4 % 4 = 0
      (clean → u 24 8 % 4 < 2 → u 24 8 / 16 = 6 ∨ u 24 8 / 16 = 7 → u 16 8 ≤ 2 ^ 40 → ∃ t, exec (.xfer f) s = .next t ∧
        OnlyStream s t n (x.started (some (.xfer (u 0 8) (u 8 8) (u 16 8)
          (if u 24 8 % 4 = 1 then some (BitVec.ofNat 32 (u 32 4)) else none) (u 24 8 / 16) 0 0)))) ∧
      (u 36 220 ≠ 0 → exec (.xfer f) s = .next (s.streamStop n 1 1 0 x.pc x.pc))) ∧
    ∀ idx e src dst len sc ls ld, KMap.look s.streams n = some x → KMap.look s.ctxs x.ctx = some c → c.halted = false →
      s.insOf n idx = some e → e.fault = false → e.wait = .xfer src dst len none sc 0 0 → 0 < len → src % 8 + len ≤ 8 →
      dst % 8 + len ≤ 8 → s.xferLeaf c src false = .ok ls → s.xferLeaf c dst true = .ok ld → ls.rem = false → ld.rem = false →
      isRegSpace (ls.pa src) = false → isRegSpace (ld.pa dst) = false → s.workAt x.ctx sc (ls.pa src) = none →
      s.workAt x.ctx sc (ld.pa dst) = none → s.poisoned (ls.pa src) len = false → s.homeBusy (ls.pa src) = false →
      s.writeWaits x.ctx sc (ld.pa dst) len = false → s.remote = [] →
      ∃ t, exec (.xferComplete n idx) s = .next t ∧ t.memBytes (ld.pa dst) len = s.memBytes (ls.pa src) len ∧
        (∀ a, a < ld.pa dst ∨ ld.pa dst + len ≤ a → t.mem.get a = s.mem.get a) ∧ t.groups = s.groups ∧ t.halves = s.halves ∧
        (s.gwct (ld.pa dst) ≤ s.chipTime → t.insOf n idx = none)

/-- A launch with sound fields and no ranges gives its teams to the distributor's queue at once and runs on; the first field
that fails stops the stream with LAUNCH_RESOURCE and its offset, and no team starts; LAUNCH_COMPLETE ends a launch whose waits
are over (22 R384, R396 to R399).
The model's own choices here: log entry 51. -/
def Claim.Launches : Prop :=
  ∀ (s : State) n x c (f : SFmt),
    let ptr := f.opnd.toNat % 2 ^ 49 * 256
    (∀ b, s.streamAtWork n x c (.launch f) → ((s.nextIns n x).fetch (s.streamHome x c) ptr 256).2 = .ok b →
      let r := launchRecOf b
      (∀ o, firstField (s.launchField c b r) = some o →
        exec (.launch f) s = .next (s.streamStop n 0x20 0 o x.pc x.pc)) ∧
      (firstField (s.launchField c b r) = none → r.nres = 0 → firstField (c.launchRest b r) = none →
        ∃ t l, exec (.launch f) s = .next t ∧ KMap.look t.streams n = some (x.started (some (.launch s.nextId))) ∧
          KMap.look t.launches s.nextId = some l ∧ l.lr = r ∧ l.ctx = x.ctx ∧ l.stream = n ∧ l.idx = x.count ∧ l.queued = true ∧
          l.early = f.opnd.getLsbD 49 ∧ t.mem = s.mem ∧ t.groups = s.groups ∧ t.halves = s.halves ∧ t.pins = s.pins ∧
          t.nextId = s.nextId + 1 ∧
          KMap.look t.dist c.part = some ((KMap.look s.dist c.part).getD [] ++ unitsOf s.nextId r s.chipTime))) ∧
    ∀ lid l, KMap.look s.launches lid = some l → s.launchDone lid l = true →
      ∃ t, exec (.launchComplete lid) s = .next t ∧ KMap.look t.launches lid = none ∧ t.insOf l.stream l.idx = none ∧ t.mem = s.mem ∧
        (∀ h ∈ t.halves, h.2.launch ≠ lid) ∧ (∀ p ∈ t.pins, p.launch ≠ some lid) ∧
        ∀ k h, KMap.look s.halves k = some h → h.launch ≠ lid → KMap.sorted s.halves = true → KMap.look t.halves k = some h

/-- The stream instructions in every form, kicks and delays, and launches (22 R382 to R399). -/
def Obligations.Streams : Prop :=
  Claim.StreamControl ∧ Claim.StreamEvents ∧ Claim.Residency ∧ Claim.Transfers ∧ Claim.Launches

/-! ### The distributor -/

/-- The distributor starts a single unpaired team that heads its queue at the first seat where it fits: its half stands on the
seat's core and quarter with zeroed banks but for its tag table, and every group of it starts ready at the kernel's entry with
the reset values of its registers, the argument pointer in `g0` and `g1`, and all launched lanes present and enabled (01 R13,
R17; 09 R217; 10 R235; 22 R402).
The model's own choices here: log entry 73. -/
def Claim.TeamStart : Prop :=
  ∀ (s : State) part u l x, s.waiting part = [u] → u.saved = [] → s.launchOf u = some l → s.findSeats part u [] = some [x] →
    ∃ t h, exec (.distributorPlace part) s = .next t ∧ t.mem = s.mem ∧ KMap.look t.halves s.nextId = some h ∧ h.launch = u.launch ∧
      h.ctx = l.ctx ∧ h.team = x.team ∧ h.core = x.core ∧ h.quarter = x.quarter ∧ h.gate = none ∧ h.bar = [] ∧ h.barm = [] ∧
      h.tile.isSome = l.lr.tilectx ∧ (∀ tile, h.tile = some tile → tile.grant = l.lr.acc ∧ tile.cfm = 0#32 ∧ tile.valid = false ∧
        ∀ k, tile.cur k = 0) ∧
      (∀ off, h.spad.get off = if l.lr.tagoff ≤ off ∧ off < l.lr.tagoff + 4 * l.lr.tagent then 0xFF#8 else 0#8) ∧ h.tob = [] ∧
      ∀ i < l.lr.groups, ∃ g, KMap.look t.groups (s.nextId + 1 + i) = some g ∧ g.hid = s.nextId ∧ g.idx = i ∧ g.width = l.lr.width ∧
        g.n = l.lr.regs ∧ g.sched = .ready ∧ g.pc = BitVec.ofNat 64 (l.codeBase + l.entry) ∧
        g.live = BitVec.ofNat 64 (2 ^ min l.lr.width (l.lr.lanes - i * l.lr.width) - 1) ∧ g.em = g.live ∧ g.fm = 0#32 ∧ g.gw = 0#64 ∧
        (∀ c < 4, g.wc.get c = 0#8) ∧ (∀ b < 8, ((KMap.look g.bx b).getD Bx.invalid).limit = 0#32) ∧
        g.cur (kg 0) = (loWord l.lr.argptr).setWidth 64 ∧ g.cur (kg 1) = (hiWord l.lr.argptr).setWidth 64 ∧
        ∀ key, key ≠ kg 0 → key ≠ kg 1 → g.cur key = 0#64

/-- A unit that has been passed over for 2^20 ticks becomes blocking, and no unit moves for it in that step (22 R403). -/
def Claim.Blocking : Prop :=
  ∀ (s : State) part u, s.overdue part = some u → ∃ t l, exec (.unitBlocking part) s = .next t ∧
    t = { s with dist := KMap.put s.dist part l } ∧
    l = ((KMap.look s.dist part).getD []).map (fun x => if x.launch = u.launch ∧ x.first = u.first then { x with blocking := true } else x)

/-- Teams start at their seats, and units that wait too long block (01 R13, 09 R217, 22 R402, R403). -/
def Obligations.Distributor : Prop := Claim.TeamStart ∧ Claim.Blocking

/-! ### Partitions and contexts -/

/-- CREATE, DESTROY, LOAD and UNLOAD of a partition whose block is idle: each does its work and leaves its tag, status and
result in the completion word; a context that is not the partition's is ILLEGAL (24 R415, R416; 23 R409, R411).
The model's own choices here: log entries 42, 53, 55 and 56. -/
def Claim.ContextCommands : Prop :=
  ∀ (s : State) (c : PCmd), s.cmdHeld = [] → s.ibmir.update = none → c.part < 8 →
    let inBlock (op : Nat) : State := { s with cmdHeld := [(op, c)] }
    let answered (t : State) (status result : Nat) : Prop := t.cmdHeld = [] ∧
      KMap.look t.cmdDone c.part = some (BitVec.ofNat 64 (status % 256 + result % 2 ^ 32 * 2 ^ 16 + c.tag.toNat * 2 ^ 48))
    (∀ x n, (inBlock 1).newCtx c.part c.w1.toNat = .ok x → n < 4096 → KMap.look s.ctxs n = none →
      (∀ m < n, (KMap.look s.ctxs m).isSome = true) → ∃ t, exec (.create c) s = .next t ∧ answered t 0 n ∧
        KMap.look t.ctxs n = some x ∧ (∀ k, k ≠ n → KMap.look t.ctxs k = KMap.look s.ctxs k) ∧ t.mem = s.mem ∧
        ∀ k ∈ x.streams, KMap.look t.streams k = some (Stream.fresh n)) ∧
    (∀ e, (inBlock 1).newCtx c.part c.w1.toNat = .error e → ∃ t, exec (.create c) s = .next t ∧ answered t 6 e ∧ t.ctxs = s.ctxs ∧
      t.mem = s.mem) ∧
    (s.names c = true → ((inBlock 2).haltCtx c.ctx).ctxQuiet c.ctx = true → ∃ t, exec (.destroy c) s = .next t ∧ answered t 0 0 ∧
      KMap.look t.ctxs c.ctx = none ∧ (∀ x ∈ t.streams, x.2.ctx ≠ c.ctx) ∧ (∀ h ∈ t.halves, h.2.ctx ≠ c.ctx) ∧
      ∀ x ∈ t.saved, x.half.ctx ≠ c.ctx) ∧
    (s.names c = true → ∃ t, exec (.load c) s = .next t ∧
      answered t ((inBlock 3).loadObject c.ctx c.w1.toNat c.w2.toNat).1.1 ((inBlock 3).loadObject c.ctx c.w1.toNat c.w2.toNat).1.2 ∧
      t.mem = s.mem ∧ t.groups = s.groups) ∧
    (∀ x k va n, s.names c = true → KMap.look s.ctxs c.ctx = some x → KMap.look x.handles c.w1.toNat = some (k, va, n) →
      ∃ t x', exec (.unload c) s = .next t ∧ answered t 0 0 ∧ t.mem = s.mem ∧ t.groups = s.groups ∧ KMap.look t.ctxs c.ctx = some x' ∧
        KMap.look x'.handles c.w1.toNat = (if n ≤ 1 then none else some (k, va, n - 1)) ∧
        ∀ j, j ≠ c.w1.toNat → KMap.look x'.handles j = KMap.look x.handles j) ∧
    (s.names c = false →
      let refused (i : Instr) : Prop := ∃ t, exec i s = .next t ∧ answered t 7 0 ∧ t.ctxs = s.ctxs ∧ t.mem = s.mem ∧ t.groups = s.groups
      refused (.destroy c) ∧ refused (.load c) ∧ refused (.unload c) ∧ refused (.resume c) ∧ refused (.spill c) ∧
        (c.w1.getLsbD 0 = false → refused (.preempt c)))

/-- PREEMPT of a quiet context halts it and takes its units off the cores, and of one that has been saved does nothing; RESUME of a
halted one lets it go on; SPILL moves its images and its record out of Mere; MIGOUT asks another device to load the context's
objects, then halts a quiet context and sends its package there, whose answer frees its number or lets it go on; MIGIN takes the
package that it names in under a new number, or refuses where there is none (23 R411; 24 R415, R417 to R421).
The model's own choices here: log entries 55, 57, 58 and 119. -/
def Claim.UnitCommands : Prop :=
  ∀ (s : State) (c : PCmd), s.cmdHeld = [] → s.ibmir.update = none → c.part < 8 →
    let inBlock (op : Nat) : State := { s with cmdHeld := [(op, c)] }
    let answered (t : State) (status result : Nat) : Prop := t.cmdHeld = [] ∧
      KMap.look t.cmdDone c.part = some (BitVec.ofNat 64 (status % 256 + result % 2 ^ 32 * 2 ^ 16 + c.tag.toNat * 2 ^ 48))
    let still : Prop := s.dist = [] ∧ s.saved = [] ∧ s.loch = [] ∧ s.streams = []
    (s.names c = true → c.w1.getLsbD 0 = false → s.recorded c.ctx = false → ((inBlock 5).haltCtx c.ctx).ctxQuiet c.ctx = true →
      ∃ t x, exec (.preempt c) s = .next t ∧ answered t 0 0 ∧ KMap.look t.ctxs c.ctx = some x ∧ x.halted = true ∧
      x.record.isSome = true ∧ ∀ h ∈ t.halves, h.2.ctx = c.ctx → h.2.released = true) ∧
    (s.names c = true → c.w1.getLsbD 0 = false → s.recorded c.ctx = false → ((inBlock 5).haltCtx c.ctx).ctxQuiet c.ctx = false →
      ∃ t x, exec (.preempt c) s = .next t ∧ t.cmdHeld = [(5, c)] ∧ KMap.look t.ctxs c.ctx = some x ∧ x.halted = true ∧
      t.groups = s.groups ∧ t.mem = s.mem ∧
      ∀ k h, KMap.look s.halves k = some h → ∃ h', KMap.look t.halves k = some h' ∧ { h' with finishing := h.finishing } = h) ∧
    (s.names c = true → c.w1.getLsbD 0 = false → s.recorded c.ctx = true → ∃ t, exec (.preempt c) s = .next t ∧ answered t 0 0 ∧
      { t with cmdDone := s.cmdDone } = s) ∧
    (∀ x, s.names c = true → KMap.look s.ctxs c.ctx = some x → x.halted = true → x.fq.held = [] → still → ∃ t x',
      exec (.resume c) s = .next t ∧ answered t 0 0 ∧ t.mem = s.mem ∧ KMap.look t.ctxs c.ctx = some x' ∧
      x' = { x with halted := false, record := none }) ∧
    (∀ x, s.names c = true → KMap.look s.ctxs c.ctx = some x → x.halted = true → (s.saved.map (fun y => y.hid)).Nodup →
      ∃ t x', exec (.spill c) s = .next t ∧ answered t 0 0 ∧
      (∀ y ∈ t.saved, y.half.ctx = c.ctx → y.inMere = false) ∧ t.saved.map (fun y => y.hid) = s.saved.map (fun y => y.hid) ∧
      t.groups = s.groups ∧ KMap.look t.ctxs c.ctx = some x' ∧ { x' with record := x.record } = x ∧
      ∀ r, x'.record = some r → r.inMere = false) ∧
    (s.names c = true → c.w1.toNat ≠ Config.deviceNumber.toNat → s.migIn = [] →
      (∀ m ∈ s.migOut, ¬ (m.origin = c.part ∧ m.source = c.ctx ∧ m.answer = none)) →
      s.migLoad.find? (fun x => x.1 == c.part && x.2.1 == c.ctx) = none →
      ∃ t, exec (.migout c) s = .next t ∧ t.cmdHeld = [(8, c)] ∧ t.ctxs = s.ctxs ∧ t.mem = s.mem ∧ t.groups = s.groups ∧
        ∀ k ∈ s.imagesOf c.ctx, ∀ i, KMap.look s.images k = some i → .load c.w1.toNat c.w2.toNat i.hash ∈ t.outbox) ∧
    (∀ dev, s.names c = true → c.w1.toNat ≠ Config.deviceNumber.toNat → s.migIn = [] →
      (∀ m ∈ s.migOut, ¬ (m.origin = c.part ∧ m.source = c.ctx ∧ m.answer = none)) →
      s.migLoad.find? (fun x => x.1 == c.part && x.2.1 == c.ctx) = some (c.part, c.ctx, dev, true) →
      ((inBlock 8).haltCtx c.ctx).ctxQuiet c.ctx = true →
      ∃ t m x, exec (.migout c) s = .next t ∧ t.cmdHeld = [(8, c)] ∧ KMap.look t.ctxs c.ctx = some x ∧ x.halted = true ∧
        t.migOut = s.migOut ++ [m] ∧ m.origin = x.part ∧ m.source = c.ctx ∧ m.device = c.w1.toNat ∧ m.part = c.w2.toNat ∧
        m.answer = none) ∧
    (∀ m, s.migIn = [] → s.migOut = [m] → m.origin = c.part → m.source = c.ctx → m.answer = none →
      (Config.migAnswer s.stamp c.ctx = none → exec (.migout c) s = .next (inBlock 8)) ∧
      (Config.migAnswer s.stamp c.ctx = some 0 → ∃ t, exec (.migout c) s = .next t ∧ answered t 0 0 ∧
        KMap.look t.ctxs c.ctx = none ∧ t.migOut = [{ m with answer := some 0 }] ∧ ∀ h ∈ t.halves, h.2.ctx ≠ c.ctx) ∧
      ∀ r x, Config.migAnswer s.stamp c.ctx = some r → r ≠ 0 → KMap.look s.ctxs c.ctx = some x → x.fq.held = [] → still →
        ∃ t, exec (.migout c) s = .next t ∧ answered t 6 r ∧ t.migOut = [{ m with answer := some r }] ∧
          KMap.look t.ctxs c.ctx = some { x with halted := false }) ∧
    (s.migIn = [] → ∃ t, exec (.migin c) s = .next t ∧ answered t 6 421 ∧ t.ctxs = s.ctxs ∧ t.mem = s.mem) ∧
    ∀ m x n, s.migIn = [m] → s.packageFor c = some m → m.foreign = false → m.saved = [] → m.units = [] → m.streams = [] → m.launches = [] →
      m.ctx.fq.held = [] → still → (KMap.look s.ctxs m.source).isSome = true → (inBlock 9).checkIn m c.part c.w1.toNat = .ok x →
      x.streams = [] → x.part = c.part → n < 4096 →
      KMap.look s.ctxs n = none → (∀ k < n, (KMap.look s.ctxs k).isSome = true) → ∃ t x', exec (.migin c) s = .next t ∧ answered t 0 n ∧
        KMap.look t.ctxs m.source = none ∧ KMap.look t.ctxs n = some x' ∧ x'.halted = false ∧ x'.troot = x.troot ∧
        x'.events = m.ctx.events ∧ x'.layouts = m.ctx.layouts ∧ t.mem = s.mem

/-- A partition's descriptor is taken or refused by Ibmir, and held during the window of an update; a migrated context issues
once chip time has passed every SAVETIME it waits for (24 R413, R421; 27 R448).
The model's own choices here: log entry 57. -/
def Claim.PartitionEvents : Prop :=
  (∀ (s : State) part w0 w1 w2 w3,
    let p : Partition := ⟨w1.setWidth 32 ++ w0, bitsOf w3.toNat 25 16, bitsOf w3.toNat 9 0, bitsOf w2.toNat 41 32, bitsOf w2.toNat 9 0⟩
    (s.ibmir.update = none → part < 8 → s.ibmir.ready = true → s.ibmir.recovery = false →
      (s.partRefused part p = false → exec (.partitionDescriptorWrite part w0 w1 w2 w3) s =
        .next { s with parts := KMap.put s.parts part p }) ∧
      (768 < p.hbmBase + p.hbmLen → exec (.partitionDescriptorWrite part w0 w1 w2 w3) s = .next s) ∧
      ∀ k q, k ≠ part → KMap.look s.parts k = some q → q.pairs &&& p.pairs ≠ 0#96 →
        exec (.partitionDescriptorWrite part w0 w1 w2 w3) s = .next s) ∧
    (s.ibmir.update.isSome = true → exec (.partitionDescriptorWrite part w0 w1 w2 w3) s =
      .next { s with ibmir := { s.ibmir with held := s.ibmir.held ++ [.partition part w0 w1 w2 w3] } })) ∧
  ∀ (s : State) cn c, KMap.look s.ctxs cn = some c → c.waitSave ≠ [] → (∀ t ∈ c.waitSave, t.toNat < s.chipTime) →
    exec (.savetimePassed cn) s = .next { s with ctxs := KMap.put s.ctxs cn { c with waitSave := [] } }

/-- The commands of a partition (24 R413, R415 to R421). -/
def Obligations.PartitionCommands : Prop := Claim.ContextCommands ∧ Claim.UnitCommands ∧ Claim.PartitionEvents

/-! ### Translation, the host link and Tarn's background work -/

/-- A shootdown of a free slot drops every translation of its range that its context holds, and completes with its tag once
every access of the context has performed; a handover counts its event and drops the L1 copies of its range (17 R338 to R341;
01 R22).
The model's own choices here: log entry 60. -/
def Claim.Shootdowns : Prop :=
  ∀ (s : State) slot base what, slot < 16 →
    let cn := bitsOf what.toNat 43 32
    let lo := base.toNat / 65536 * 65536
    let len := bitsOf what.toNat 31 0
    (KMap.look s.shoot slot = none → ∃ t, exec (.shootdown slot base what) s = .next t ∧ t.mem = s.mem ∧
      KMap.look t.shoot slot = some (base, what &&& ~~~0x0000F00000000000#64) ∧
      (∀ e ∈ t.tlb, e ∈ s.tlb ∧ ¬ (e.ctx = cn ∧ (len = 0 ∨ (e.leaf.va < lo + len * 65536 ∧ lo < e.leaf.va + e.leaf.size)))) ∧
      (∀ e ∈ s.tlb, e.ctx ≠ cn → e ∈ t.tlb) ∧
      ∀ gid g h, KMap.sorted s.groups = true → KMap.sorted s.halves = true → KMap.look s.groups gid = some g →
        KMap.look s.halves g.hid = some h →
        ∃ g', KMap.look t.groups gid = some g' ∧ (h.ctx ≠ cn → g' = g) ∧
          (h.ctx = cn → { g' with bx := g.bx, g := g.g, landings := g.landings } = g ∧
            (g.landings = [] → g'.g = g.g ∧ g'.landings = []) ∧
            (len = 0 → ∀ b x, KMap.look g'.bx b = some x → x.limit = 0#32))) ∧
    (∀ x, KMap.look s.shoot slot = some x → exec (.shootdown slot base what) s =
      .next { s with shootHeld := s.shootHeld ++ [(slot, base, some what)] }) ∧
    (KMap.look s.shoot slot = some (base, what) → s.shootHeld = [] → (∀ a ∈ s.remote, a.ctx ≠ cn) →
      exec (.shootdownComplete slot) s = .next { s with
        shoot := KMap.del s.shoot slot, shootDone := KMap.put s.shootDone slot (BitVec.ofNat 64 (bitsOf what.toNat 63 48))
        remTlb := s.remTlb.filter (fun e => e.ctx != cn) }) ∧
    ∀ c, KMap.look s.ctxs cn = some c → s.streams = [] → ∃ t c', exec (.handoverKick base what) s = .next t ∧ t.mem = s.mem ∧
      t.groups = s.groups ∧ KMap.look t.ctxs cn = some c' ∧ c' = { c with events := c'.events } ∧
      (∀ e, c'.events.get e = if e = bitsOf what.toNat 59 48 then c.events.get e + 1#32 else c.events.get e) ∧
      ∀ z ∈ t.l1, z ∈ s.l1

/-- The host's accesses inside an HDM decoder's share perform at their home, a snoop of host memory changes nothing, a write of the host to its own memory
changes the bytes written, a lost link kills every context, and a
store that waited for the host's answer performs with it (25 R423 to R425).
The model's own choices here: log entries 23, 67 and 91. -/
def Claim.HostLink : Prop :=
  ∀ s : State,
    (∀ pa n, s.hdm pa n = true → (∀ l ∈ linesOf pa n, s.homeBusy (l * 128) = false) → ∃ l, exec (.cxlMemRead pa n) s = .next { s with hostLines := s.hostLines ++ l } ∧
      ∀ x ∈ l, pa / 128 ≤ x ∧ x ≤ (pa + n - 1) / 128) ∧
    (∀ pa bytes, s.hdm pa bytes.length = true → s.incAt pa bytes.length = false → ∃ t, exec (.cxlMemWrite pa bytes) s = .next t ∧
      t.memBytes pa bytes.length = bytes ∧ (∀ a, a < pa ∨ pa + bytes.length ≤ a → t.mem.get a = s.mem.get a) ∧
      { t with mem := s.mem, poison := s.poison, cover := s.cover, l1 := s.l1 } = s) ∧
    (∀ pa, isDevice pa = false → isRegSpace pa = false → exec (.hostSnoop pa) s = .next s) ∧
    (∀ pa bytes, bytes ≠ [] → (∀ k < bytes.length, isDevice (pa + k) = false ∧ isRegSpace (pa + k) = false) →
      ∃ t, s.turn (.hostWrite pa bytes) = .next t ∧ t.memBytes pa bytes.length = bytes ∧
        (∀ a, a < pa ∨ pa + bytes.length ≤ a → t.mem.get a = s.mem.get a) ∧
        { t with mem := s.mem, poison := s.poison, cover := s.cover, l1 := s.l1 } = s) ∧
    (∃ t, exec .hostLinkLost s = .next t ∧ ∀ cn c, KMap.look s.ctxs cn = some c → ∃ c', KMap.look t.ctxs cn = some c' ∧ c'.killed = true) ∧
    ∀ idx line, s.backInv[idx]? = some line →
      ((∀ w ∈ s.waits, w.1 ≠ line) → exec (.backInvalidationAnswer idx) s = .next
        { s with backInv := s.backInv.erase line, hostLines := s.hostLines.filter (fun l => l != line) }) ∧
      ∀ gid g h f op j l, s.groups = [(gid, g)] → g.held = [h] → g.fault = none → g.fences = [] → h.instr = .st f →
        memOp h.instr = some op → op.f.ac = 0#4 → h.lanes = 1#64 <<< j → j < 64 → h.bad = none → h.lost = 0#64 → s.waits = [(line, gid, h.id)] →
        let va := (h.va.get j).toNat
        let pa := l.pa va
        isLocal va = false → (s.translateBx (s.coreOf g) (s.ctxOf g) ((KMap.look g.bx op.f.bx.toNat).getD Bx.invalid) va op.size .write).1 = .ok l →
        l.rem = false → isRegSpace pa = false → pa / 128 = line → pa % op.size = 0 → line ∉ s.backInv.erase line → s.incs = [] →
        s.workOf (s.ctxOf g) pa = none → s.loch = [] →
        (∀ x ∈ s.halves, x.2.gateArr = []) → s.remote = [] →
        ∃ t g', exec (.backInvalidationAnswer idx) s = .next t ∧ line ∉ t.hostLines ∧ t.memBytes pa op.size = leBytes op.size (h.data.get j).toNat ∧
          (∀ a, a < pa ∨ pa + op.size ≤ a → t.mem.get a = s.mem.get a) ∧
          KMap.look t.groups gid = some g' ∧ g'.held = [] ∧ g'.gwPend = g.gwPend ++ [BitVec.ofNat 64 (s.gwct pa)]

/-- A write of a context's kick word: one with a reserved bit set, or where there is no Tarn, only counts as dropped; an accepted
request waits behind those under way, and its new frame is in memory. The swap puts the new frame and encoding into the
descriptor and counts its generation up, or is abandoned where the descriptor has changed (18 R360).
The model's own choices here: log entry 47. -/
def Claim.Requantisation : Prop :=
  ∀ (s : State) cn c, KMap.look s.ctxs cn = some c →
    (∀ w : DWord, c.tarn = none ∨ w.extractLsb' 21 43 ≠ 0#43 → exec (.requantisationKick cn w) s = .next { s with
      requantStatus := KMap.put s.requantStatus cn ((KMap.look s.requantStatus cn).getD 0#64 + 1#64) }) ∧
    ∀ t, c.tarn = some t →
      let k : Kv := ⟨s.streamHome (Stream.fresh cn) c, t⟩
      (∀ (w : DWord) k' r, w.extractLsb' 21 43 = 0#43 → c.killed = false → c.kicks = [] → k.requant (bitsOf w.toNat 19 0) (w.toNat / 2 ^ 20 % 2) = .ok (some (k', r)) →
        KMap.look k'.s.ctxs cn = some c → ∃ u c', exec (.requantisationKick cn w) s = .next u ∧ KMap.look u.ctxs cn = some c' ∧
          c' = { c with requant := c.requant ++ [r] } ∧ u.mem = k'.s.mem ∧ r.desc = bitsOf w.toNat 19 0 ∧
          ∃ x, k.desc r.desc = .ok x ∧ x.refcnt ≠ 0 ∧ x.fill = t.rows ∧ x.enc ≠ r.enc ∧ r.gen = x.gen ∧ r.refcnt = x.refcnt ∧
            r.oldFrame = x.frame ∧ r.oldEnc = x.enc ∧
            r.frame ∈ k.freeFrames r.enc) ∧
      ∀ r rest x, c.requant = r :: rest → k.desc r.desc = .ok x →
        (x.gen ≠ r.gen ∨ x.refcnt ≠ r.refcnt ∨ x.frame ≠ r.oldFrame ∨ x.enc ≠ r.oldEnc → exec (.requantSwap cn) s =
          .next { s with ctxs := KMap.put s.ctxs cn { c with requant := rest } }) ∧
        ∀ k', x.gen = r.gen → x.refcnt = r.refcnt → x.refcnt ≠ 0 → x.frame = r.oldFrame → x.enc = r.oldEnc → c.halted = false →
          k.putDesc r.desc { x with frame := r.frame, enc := r.enc, gen := (x.gen + 1) % 2 ^ 32 } = .ok k' →
          KMap.look k'.s.ctxs cn = some c → ∃ u c', exec (.requantSwap cn) s = .next u ∧ KMap.look u.ctxs cn = some c' ∧
            c' = { c with requant := rest } ∧ u.mem = k'.s.mem ∧ u.groups = k'.s.groups

/-- Shootdowns, handovers, the host's link, and Tarn's background work (17 R338 to R341; 18 R360; 25 R423 to R425): first, that each
of these events completes under its conditions on the state and its operands; then what it does. -/
def Obligations.HostServices : Prop :=
  (∀ (s : State) slot base what x cn c pa (w : DWord) bytes n idx line,
    (slot < 16 → ∃ t, exec (.shootdown slot base what) s = .next t) ∧
    (KMap.look s.shoot slot = some x → (∀ a ∈ s.remote, a.ctx ≠ bitsOf x.2.toNat 43 32) →
      ∃ t, exec (.shootdownComplete slot) s = .next t) ∧
    (∃ t, exec (.handoverKick base what) s = .next t) ∧
    (s.hdm pa n = true → (∀ l ∈ linesOf pa n, s.homeBusy (l * 128) = false) → ∃ t, exec (.cxlMemRead pa n) s = .next t) ∧
    (s.hdm pa bytes.length = true → s.incAt pa bytes.length = false → ∃ t, exec (.cxlMemWrite pa bytes) s = .next t) ∧
    (isDevice pa = false → isRegSpace pa = false → ∃ t, exec (.hostSnoop pa) s = .next t) ∧
    (∃ t, exec .hostLinkLost s = .next t) ∧
    (s.backInv[idx]? = some line → ∃ t, exec (.backInvalidationAnswer idx) s = .next t) ∧
    (KMap.look s.ctxs cn = some c → ∃ t, exec (.requantisationKick cn w) s = .next t) ∧
    ∀ r rest y tarn k', KMap.look s.ctxs cn = some c → c.tarn = some tarn → c.requant = r :: rest →
      let k : Kv := ⟨s.streamHome (Stream.fresh cn) c, tarn⟩
      k.desc r.desc = .ok y → k.putDesc r.desc { y with frame := r.frame, enc := r.enc, gen := (y.gen + 1) % 2 ^ 32 } = .ok k' →
        ∃ t, exec (.requantSwap cn) s = .next t) ∧
  Claim.Shootdowns ∧ Claim.HostLink ∧ Claim.Requantisation

/-! ### Ports, peers and Loch -/

/-- A write of a port's words makes it retrain, or waits for the end of an update's window; when it has retrained, the fields are
those written (25 R427, 27 R448).
The model's own choices here: log entry 61. -/
def Claim.Ports : Prop :=
  ∀ (s : State) n w0 w1, n < 8 →
    (s.ibmir.update = none → exec (.portConfig n w0 w1) s =
      .next { s with ports := KMap.put s.ports n { s.port n with training := some (w0, w1) } }) ∧
    (s.ibmir.update.isSome = true → exec (.portConfig n w0 w1) s = .next { s with ibmir := { s.ibmir with
      held := s.ibmir.held ++ [.write (0x60000 + 0x20 * n) w0, .write (0x60008 + 0x20 * n) w1] } }) ∧
    ((s.port n).training = some (w0, w1) → ∃ p, exec (.portRetrained n) s = .next { s with ports := KMap.put s.ports n p } ∧
      p.training = none ∧ p.mode = w0.toNat % 4 ∧ p.pfc = w0.getLsbD 2 ∧ p.off = w0.toNat / 2 ^ 8 % 2 ^ 8 ∧
      p.etype = w0.toNat / 2 ^ 16 % 2 ^ 16 ∧ p.shift = w0.toNat / 2 ^ 32 % 2 ^ 5 ∧ p.mask.toNat = w1.toNat % 2 ^ 32 ∧
      p.table = (s.port n).table ∧ p.unmatched = (s.port n).unmatched ∧ (w0.toNat % 4 = 2 → (s.port n).mode ≠ 2 → p.seq = 0#64) ∧
      (w0.toNat % 4 ≠ 2 ∨ (s.port n).mode = 2 → p.seq = (s.port n).seq))

/-- A frame at a port that is not in fabric mode does nothing; a peer's read is answered with the bytes at its home, a peer's
write writes its bytes and no others, and an access that the leaf does not grant is answered with CAUSE 1; a page that the peer
names, as its remote translation cache holds it, stands for the leaf (17 R344, R345; 25 R427, R428; 11 R286).
The model's own choices here: log entry 63. -/
def Claim.PeerAccess : Prop :=
  ∀ (s : State) n, n < 8 →
    (∀ m, (s.port n).works ≠ some 1 → exec (.fabricFrame n m) s = .next s) ∧
    ∀ peer seq gen cn c (va : DWord) (via : Option PageInfo) l v, (s.port n).works = some 1 → (s.peerOf peer).gen.toNat ≤ gen →
      KMap.look s.ctxs cn = some c →
      (via = none ∧ s.walkCtx c va.toNat = .ok l ∧ v = l.level ∨ ∃ i, via = some i ∧ i.page = va.toNat / 65536 ∧
        l = leafFrom i ∧ v = i.level) →
      l.rem = false → l.rounds = false → isRegSpace (l.pa va.toNat) = false →
      let pa := l.pa va.toNat
      let frame (k : RemoteKind) : Instr := .fabricFrame n (.request peer seq gen cn va k via)
      let page : Option PageInfo := some { l.info va.toNat with level := v }
      let answer (f : Option (Nat × Nat)) (b : List Byte) (g : Option PageInfo) : Out := .frame n (.answer peer seq gen f b g)
      (∀ len, l.grants .read = true → s.poisoned pa len = false → s.homeBusy pa = false → ∃ t, exec (frame (.read len)) s = .next t ∧
        t.outbox = s.outbox ++ [answer none (s.memBytes pa len) page] ∧ t.mem = s.mem ∧ t.groups = s.groups) ∧
      (∀ b, b ≠ [] → l.grants .write = true → s.hostHas pa b.length = false → s.homeBusy pa = false → s.incAt pa b.length = false →
        ∃ t, exec (frame (.write b)) s = .next t ∧ t.memBytes pa b.length = b ∧
        (∀ a, a < pa ∨ pa + b.length ≤ a → t.mem.get a = s.mem.get a) ∧ t.groups = s.groups ∧
        (t.outbox = s.outbox ++ [answer none [] page] ∨ ∃ d, s.chipTime < d ∧ t.acks = s.acks ++ [(d, answer none [] page)])) ∧
      ∀ k, namesBlock k = false → l.grants (remoteAcc k) = false → ∃ t, exec (frame k) s = .next t ∧
        t.outbox = s.outbox ++ [answer (some (1, v)) [] none] ∧ t.mem = s.mem ∧ t.groups = s.groups

/-- With nothing under way, the loss of a peer advances its generation, drops its cached translations and keeps it away until it
is reached again, which sends this device's part of the handshake; a store whose link is not restored in time is reported to its
group with OUTCOME 1 and an unfinished mask of zero (17 R345, R346).
The model's own choices here: log entry 63. -/
def Claim.PeerLoss : Prop :=
  ∀ (s : State) peer, peer < 4096 →
    let p := s.peerOf peer
    let lost (q : Peer) : State := { s with
      peers := KMap.put s.peers peer q, remTlb := s.remTlb.filter (fun e => e.peer != peer) }
    let gone (cause : Nat) : Peer := { p with gen := p.gen + 1#32, up := false, cause := cause, since := s.chipTime }
    let anew (q : Peer) : Peer := { q with lastSeq := 0, performed := [], wrote := [] }
    (s.remote = [] → s.waits = [] → s.asked = [] →
      (p.up = true → exec (.linkFailure peer) s = .next (lost (gone 3))) ∧
      exec (.peerReset peer false) s = .next (lost (anew (gone 0))) ∧
      exec (.peerReset peer true) s = .next (lost (anew (gone 1))) ∧
      ∀ last res, p.up = false → p.cause < 2 ∨ s.chipTime < p.since + 2 ^ 26 → ∃ t, exec (.linkReconnect peer last res) s = .next t ∧
        t.peerOf peer = anew { p with up := true } ∧ t.mem = s.mem ∧ t.groups = s.groups ∧ t.remote = [] ∧
        ∃ port, .frame port (.handshake peer p.lastSeq p.performed) ∈ t.outbox ++ t.acks.map (fun a => a.2)) ∧
    ∀ a gid g, p.up = false → 2 ≤ p.cause → p.since + 2 ^ 26 ≤ s.chipTime → s.remote = [a] → a.peer = peer → remoteWrites a.kind = true →
      a.gid = some gid → KMap.look s.groups gid = some g → g.sched ≠ .exited → g.held = [] → p.wrote = [] → s.waits = [] → ∃ t g' r,
        exec (.linkNotRestored peer) s = .next t ∧ t.remote = [] ∧ t.mem = s.mem ∧ KMap.look t.groups gid = some g' ∧
        g' = { g with reports := g.reports ++ [r] } ∧ r.code = 0x13 ∧ r.cause = 3 ∧ r.w0.getLsbD 23 = true ∧ r.mask = 0#64 ∧
        r.w1.toNat = a.lva % 2 ^ 64

/-- Ports and peers (17 R344 to R346; 25 R427, R428): first, that each of these events completes under its conditions on the state
and its operands; then what it does. -/
def Obligations.PortsAndPeers : Prop :=
  (∀ (s : State) n w0 w1 m peer last res,
    (n < 8 → ∃ t, exec (.portConfig n w0 w1) s = .next t) ∧
    ((s.port n).training.isSome = true → ∃ t, exec (.portRetrained n) s = .next t) ∧
    (n < 8 → (∀ p l r, m ≠ .handshake p l r) → ∃ t, exec (.fabricFrame n m) s = .next t) ∧
    (peer < 4096 → (s.peerOf peer).up = true → ∃ t, exec (.linkFailure peer) s = .next t) ∧
    (peer < 4096 → ∀ down, ∃ t, exec (.peerReset peer down) s = .next t) ∧
    (peer < 4096 → (s.peerOf peer).up = false → ∃ t, exec (.linkReconnect peer last res) s = .next t) ∧
    ((s.peerOf peer).up = false → 2 ≤ (s.peerOf peer).cause → s.writesTo peer ≠ [] →
      (s.peerOf peer).since + 2 ^ 26 ≤ s.chipTime → ∃ t, exec (.linkNotRestored peer) s = .next t)) ∧
  Claim.Ports ∧ Claim.PeerAccess ∧ Claim.PeerLoss

/-- A frame at a port in Loch mode: IEEE 1588 frames go by, an unmatched one is counted, a matched one takes the next SEQ and is an
entry on its way into its queue's ring, or an overflow where the ring is full (25 R427, R430, R431, R433).
The model's own choices here: log entry 62. -/
def Claim.LochIngest : Prop :=
  ∀ (s : State) n b, n < 8 →
    let p := s.port n
    let ptp : Prop := nthD b 12 0#8 = 0x88#8 ∧ nthD b 13 0#8 = 0xF7#8
    let at_ (i : Nat) : Word := (nthD b (p.off + i) 0#8).setWidth 32
    let f : Word := at_ 0 <<< 24 ||| at_ 1 <<< 16 ||| at_ 2 <<< 8 ||| at_ 3
    let sid := ((f &&& p.mask) >>> p.shift).toNat % 4096
    let e := p.table.get sid
    let q := 16 * n + e.toNat % 16
    (p.works ≠ some 2 ∨ ptp → exec (.lochFrame n b) s = .next s) ∧
    (p.works = some 2 → ¬ ptp → e.getLsbD 31 = false →
      exec (.lochFrame n b) s = .next { s with ports := KMap.put s.ports n { p with unmatched := p.unmatched + 1#32 } }) ∧
    (p.works = some 2 → ¬ ptp → e.getLsbD 31 = true →
      let x := s.lochQ q
      let full : Prop := x.nslot ≤ (x.tail - x.head).toNat + x.entries.countP QEnt.frame
      let now := max s.chipTime (p.last + 1)
      ∃ t x', exec (.lochFrame n b) s = .next t ∧ t.ports = KMap.put s.ports n { p with seq := p.seq + 1#64, last := now } ∧
        t.loch = KMap.put s.loch q x' ∧ t.mem = s.mem ∧ t.groups = s.groups ∧
        (full → x' = { x with overflow := x.overflow + 1#32 }) ∧
        (¬ full → ∃ y, x' = { x with entries := x.entries ++ [y] } ∧ y.cmd = .loch n (BitVec.ofNat 64 now) p.seq sid b 0 ∧ y.id = s.nextId))

/-- An entry behind no earlier frame of its port is written to slot TAIL mod NSLOT with the layout of the ring; once it is visible, TAIL rises by one. A group's store to
BIND binds the queue of its context to the barrier object at the offset, and one of all ones unbinds it; another context's is
ignored (25 R432 to R434).
The model's own choices here: log entry 62. -/
def Claim.LochRing : Prop :=
  (∀ (s : State) n q e rest port time seq sid b slot, KMap.look s.loch n = some q → q.entries = e :: rest →
    e.cmd = .loch port time seq sid b slot → s.isKilled q.ctx = false → s.lochBefore port e = false →
    (∀ x ∈ s.loch, x.2.bind = none) →
    let done (s t : State) : Prop := ∃ q', t.loch = KMap.put s.loch n q' ∧ q'.tail = q.tail + 1#64 ∧ q'.head = q.head ∧ q'.entries = rest ∧
      q'.overflow = q.overflow ∧ q'.trunc = if 2 ^ q.slotlog - 64 < b.length then q.trunc + 1#32 else q.trunc
    (e.done = 1 → e.gw ≤ s.chipTime → ∃ t, exec (.lochEntryComplete n) s = .next t ∧ done s t ∧ { t with loch := s.loch } = s) ∧
    ∀ c k, e.done ≠ 1 → KMap.look s.ctxs q.ctx = some c →
      Home.write ⟨s, q.ctx, c, s.chipTime⟩ (q.base.toNat + q.tail.toNat % q.nslot * 2 ^ q.slotlog)
        (leBytes 8 time.toNat ++ leBytes 8 seq.toNat ++ leBytes 2 b.length ++ leBytes 2 sid ++
          leBytes 4 ((if 2 ^ q.slotlog - 64 < b.length then 1 else 0) + port * 2) ++ List.replicate 40 0#8 ++
          b.take (2 ^ q.slotlog - 64)) = .ok k → k.s.loch = s.loch →
      ∃ t, exec (.lochEntryComplete n) s = .next t ∧ t.mem = k.s.mem ∧ (k.due ≤ s.chipTime → done s t) ∧
        (s.chipTime < k.due → t.loch = KMap.put s.loch n { q with entries := { e with done := 1, gw := k.due } :: rest })) ∧
  ∀ (s : State) gid n g h, n < 128 → KMap.look s.groups gid = some g → KMap.look s.halves g.hid = some h →
    let q := s.lochQ n
    (∀ w p, q.ctx = h.ctx → q.bind = none → s.saved = [] → s.objPlace g.hid (w.setWidth 32) = some p → (∀ x ∈ s.loch, x.2.bind = none) →
      (KMap.look s.halves p.hid).isSome = true → q.tail = q.head → exec (.bind gid n w) s =
        .next { s with loch := KMap.put s.loch n { q with bind := some (p.hid, p.off), bindWord := w, held := 0 } }) ∧
    (∀ w, q.ctx ≠ h.ctx → exec (.bind gid n w) s = .next s ∧ exec (.unbind gid n) s = .next s) ∧
    ∀ off, q.ctx = h.ctx → q.bind = some (g.hid, off) → exec (.unbind gid n) s =
      .next { s with loch := KMap.put s.loch n { q with bind := none, bindWord := BitVec.allOnes 64, held := 0 } }

/-- Loch: frames matched, entries written, and queues bound (25 R430 to R434): first, that a frame at a port, a store to BIND, and an
entry that has been written and is visible complete; then what they do. -/
def Obligations.LochQueues : Prop :=
  (∀ (s : State) n b gid g w,
    (n < 8 → ∃ t, exec (.lochFrame n b) s = .next t) ∧
    (n < 128 → KMap.look s.groups gid = some g → (∃ t, exec (.bind gid n w) s = .next t) ∧ ∃ t, exec (.unbind gid n) s = .next t) ∧
    ∀ q e rest port time seq sid f slot, KMap.look s.loch n = some q → q.entries = e :: rest → e.cmd = .loch port time seq sid f slot →
      s.lochBefore port e = false → e.done = 1 → e.gw ≤ s.chipTime → ∃ t, exec (.lochEntryComplete n) s = .next t) ∧
  Claim.LochIngest ∧ Claim.LochRing

/-! ### Ibmir -/

/-- The mailbox: ATTEST gives the signed report of the rule's layout, a nonce of another length is ILLEGAL; an image that does not
verify is REFUSED and changes nothing else, a good one opens a window, during which requests wait; at its end the new firmware is
measured and the counter rises, or it is reverted without a trace; a power cap in range is taken, another is ILLEGAL
(27 R445 to R448, R450).
The model's own choices here: log entries 12, 65 and 71. -/
def Claim.Mailbox : Prop :=
  ∀ (s : State) (tag : BitVec 16),
    let i := s.ibmir
    let word (status : Nat) : DWord := BitVec.ofNat 64 (status + tag.toNat * 2 ^ 48)
    (i.update = none → i.recovery = false →
      (∀ nonce, nonce.length = 64 → ∃ sig, sig.length = 512 ∧ exec (.attest tag nonce) s = .next { s with ibmir := { i with
        mbox := word 0
        report := nonce ++ (List.range 16).map Config.serial ++ leBytes 4 0xB0 ++ leBytes 4 i.counter ++
          leBytes 8 (Config.mapDigest i.map).toNat ++ i.meas.flatten ++ leBytes 8 (if i.synced then s.chipTime else 0) ++
          sig } }) ∧
      (∀ nonce, nonce.length ≠ 64 → exec (.attest tag nonce) s = .next { s with ibmir := { i with mbox := word 7 } }) ∧
      (∀ w, i.ready = true → 800 ≤ w → w ≤ 2600 →
        exec (.powerCap tag w) s = .next { s with ibmir := { i with cap := w, mbox := word 0 } }) ∧
      ∀ w, i.ready = true → w < 800 ∨ 2600 < w → exec (.powerCap tag w) s = .next { s with ibmir := { i with mbox := word 7 } }) ∧
    (∀ image sig v, i.update = none →
      (s.imageGood image sig v = true → exec (.update tag image sig v) s =
        .next { s with ibmir := { i with update := some (sha512 image, v, tag, s.chipTime) } }) ∧
      (s.imageGood image sig v = false → exec (.update tag image sig v) s = .next { s with ibmir := { i with mbox := word 6 } }) ∧
      (v < i.counter ∨ sig.length ≠ 512 → s.imageGood image sig v = false)) ∧
    (i.update.isSome = true → ∀ nonce image sig v w,
      let held (r : IbmirReq) : State := { s with ibmir := { i with held := i.held ++ [r] } }
      exec (.attest tag nonce) s = .next (held (.attest tag nonce)) ∧
        exec (.update tag image sig v) s = .next (held (.update tag image sig v)) ∧
        exec (.powerCap tag w) s = .next (held (.cap tag w))) ∧
    ∀ d v start, i.update = some (d, v, tag, start) → i.held = [] → s.cmdHeld = [] →
      (s.chipTime ≤ start + 20000000 → exec (.updateWindowEnd true) s = .next { s with ibmir := { i with
        update := none, mbox := word 0, counter := max i.counter v
        meas := i.meas.set 7 (sha512 (nthD i.meas 7 [] ++ d)), firmware := some d } }) ∧
      (start + 20000000 ≤ s.chipTime → exec (.updateWindowEnd false) s =
        .next { s with ibmir := { i with update := none, mbox := word 6 } })

/-- Bring-up and upkeep: a cold reset leaves no agent, context or partition, clears the device's memory and keeps the host's, the
firmware and the retirements; chip time is loaded once from a grandmaster that has been heard, or 2^33 ticks after the reset as
zero where none has been, and Ibmir is ready; the clock moves in steps of 75 MHz up to 2250; telemetry is refreshed; the critical temperature kills every
context (00 R3, R5; 27 R446, R450 to R452).
The model's own choices here: log entries 10, 66, 69 and 106. -/
def Claim.Upkeep : Prop :=
  ∀ s : State,
    let i := s.ibmir
    let after (m : Nat × Nat) : Nat := m.1 + (s.chipTime - m.2)
    let loaded (l : KMap (Nat × Nat)) (t : Nat) : State := { s with
      chipTime := t, ibmir := { i with synced := true, ready := true, masters := KMap.mapv (fun _ m => (after m, t)) l } }
    (∃ t, exec .coldReset s = .next t ∧ t.groups = [] ∧ t.halves = [] ∧ t.ctxs = [] ∧ t.parts = [] ∧ t.streams = [] ∧ t.queues = [] ∧
      t.tlb = [] ∧ t.l1 = [] ∧ t.ibmir.booted = true ∧ t.ibmir.ready = false ∧ t.ibmir.cap = 2600 ∧ t.ibmir.clock = 2250 ∧
      i.counter ≤ t.ibmir.counter ∧ t.ibmir.firmware = i.firmware ∧ t.ibmir.retired = i.retired ∧ t.ibmir.map = i.retired ∧
      (∀ a, t.mem.get a = if isDevice a then 0#8 else s.mem.get a) ∧
      (∀ l ∈ t.poison, l ∈ s.poison ∧ isDevice (l * 128) = false) ∧ ∀ n < 8, (t.port n).works = some 0 ∧ (t.port n).etype = 0x88B5) ∧
    (i.booted = true → i.recovery = false → i.synced = false →
      (2 ^ 33 ≤ s.chipTime → ∃ t, exec .grandmasterTimeout s = .next (loaded i.masters t) ∧ (i.masters = [] → t = 0) ∧
        (i.masters ≠ [] → ∃ m ∈ i.masters, t = after m.2)) ∧
      ∀ n (time : DWord), n < 8 → (s.port n).training = none →
        let heard := KMap.put i.masters n (time.toNat, s.chipTime)
        exec (.ptpFrame n time) s = .next { s with ibmir := { i with masters := heard } } ∨
          ∃ m ∈ heard, exec (.ptpFrame n time) s = .next (loaded heard (after m.2))) ∧
    (i.synced = true → i.contextsMade = true → ∀ n time, n < 8 → ∃ l, exec (.ptpFrame n time) s =
      .next { s with ibmir := { i with masters := l } }) ∧
    (i.clock < 2250 → exec (.clockStep true) s = .next { s with ibmir := { i with clock := i.clock + 75 } }) ∧
    (75 < i.clock → exec (.clockStep false) s = .next { s with ibmir := { i with clock := i.clock - 75 } }) ∧
    (∃ power heat, exec .telemetryRefresh s = .next { s with ibmir := { i with telemetry := [power, heat, i.clock,
      (i.errors.get 0).toNat, (i.errors.get 1).toNat, (i.errors.get 2).toNat, (i.errors.get 3).toNat, (i.errors.get 4).toNat,
      (i.errors.get 5).toNat, (i.errors.get 6).toNat] } }) ∧
    ∃ t, exec .criticalTemperature s = .next t ∧ ∀ cn c, KMap.look s.ctxs cn = some c → ∃ c', KMap.look t.ctxs cn = some c' ∧ c'.killed = true

/-- Ibmir's services (00 R3; 27 R445 to R448, R450 to R452): first, that each of them completes under its conditions on the state and
its operands; then what it does. -/
def Obligations.Services : Prop :=
  (∀ (s : State) tag nonce image sig v w n time d start,
    (∃ t, exec (.attest tag nonce) s = .next t) ∧ (∃ t, exec (.update tag image sig v) s = .next t) ∧
    (∃ t, exec (.powerCap tag w) s = .next t) ∧
    (s.ibmir.update = some (d, v, tag, start) → s.chipTime ≤ start + 20000000 → ∃ t, exec (.updateWindowEnd true) s = .next t) ∧
    (s.ibmir.update = some (d, v, tag, start) → start + 20000000 ≤ s.chipTime → ∃ t, exec (.updateWindowEnd false) s = .next t) ∧
    (n < 8 → ∃ t, exec (.ptpFrame n time) s = .next t) ∧
    (s.ibmir.booted = true → s.ibmir.synced = false → s.ibmir.recovery = false → 2 ^ 33 ≤ s.chipTime →
      ∃ t, exec .grandmasterTimeout s = .next t) ∧
    (s.ibmir.clock < 2250 → ∃ t, exec (.clockStep true) s = .next t) ∧
    (75 < s.ibmir.clock → ∃ t, exec (.clockStep false) s = .next t) ∧
    (∃ t, exec .telemetryRefresh s = .next t) ∧ (∃ t, exec .criticalTemperature s = .next t) ∧ ∃ t, exec .coldReset s = .next t) ∧
  Claim.Mailbox ∧ Claim.Upkeep

/-- Errors: an uncorrectable one poisons its line or its 16-byte word, or kills the contexts that own the state; a correctable one
is counted and changes nothing else (26 R437). -/
def Claim.Errors : Prop :=
  (∀ (s : State) pa, isRegSpace pa = false → ∃ l c, exec (.uncorrectableError (.line pa)) s = .next { s with poison := l, cover := c } ∧
    ∀ x, x ∈ l ↔ x = pa / 128 ∨ x ∈ s.poison) ∧
  (∀ (s : State) hid h w, KMap.look s.halves hid = some h → w < 1024 * h.spadBanks → ∃ l,
    exec (.uncorrectableError (.localWord hid false w)) s =
      .next { s with halves := KMap.put s.halves hid { h with spadPoison := l, cover := KMap.del h.cover w } } ∧
    ∀ x, x ∈ l ↔ x = w ∨ x ∈ h.spadPoison) ∧
  (∀ (s : State) hid h w, KMap.look s.halves hid = some h → w < 1024 * h.tobBanks → ∃ l,
    exec (.uncorrectableError (.localWord hid true w)) s =
      .next { s with halves := KMap.put s.halves hid { h with tobPoison := l, cover := KMap.del h.cover (2 ^ 40 + w) } } ∧
    ∀ x, x ∈ l ↔ x = w ∨ x ∈ h.tobPoison) ∧
  (∀ (s : State) cn c, KMap.look s.ctxs cn = some c → ∃ t c', exec (.uncorrectableError (.ctxState cn)) s = .next t ∧
    KMap.look t.ctxs cn = some c' ∧ c'.killed = true) ∧
  (∀ (s : State) part, ∃ t, exec (.uncorrectableError (.shared part)) s = .next t ∧ ∀ cn c, KMap.look s.ctxs cn = some c → c.part = part →
    ∃ c', KMap.look t.ctxs cn = some c' ∧ c'.killed = true) ∧
  ∀ (s : State) kind, exec (.correctableError kind) s = .next { s with ibmir := { s.ibmir with
    errors := s.ibmir.errors.set (arrayIndex kind) (s.ibmir.errors.get (arrayIndex kind) + 1#64) } }

/-- A debugger that is attached to a context stops its groups and tile contexts and lets them go on, for one instruction where
it steps; after a breakpoint the group goes on at the next instruction (05 R117, 06 R167, 09 R219).
The model's own choices here: log entry 64. -/
def Claim.Debugger : Prop :=
  ∀ s : State,
    (∀ cn c, KMap.look s.ctxs cn = some c → ∃ l, exec (.debuggerAttach cn true) s = .next { s with attached := l } ∧
      ∀ x, x ∈ l ↔ x = cn ∨ x ∈ s.attached) ∧
    (∀ cn c, KMap.look s.ctxs cn = some c → ∃ l, exec (.debuggerAttach cn false) s = .next { s with attached := l } ∧
      ∀ x, x ∈ l ↔ x ≠ cn ∧ x ∈ s.attached) ∧
    (∀ gid g, KMap.look s.groups gid = some g →
      (s.ctxOf g ∈ s.attached → g.sched ≠ .exited →
        exec (.debuggerStop (.group gid)) s = .next { s with groups := KMap.put s.groups gid { g with stopped := true } }) ∧
      ∀ one, g.stopped = true →
        (g.fault = none → exec (.debuggerResume (.group gid) one) s =
          .next { s with groups := KMap.put s.groups gid { g with stopped := false, single := one } }) ∧
        ∀ r, g.fault = some r → r.code = 7 → exec (.debuggerResume (.group gid) one) s =
          .next { s with groups := KMap.put s.groups gid { g with stopped := false, single := one, pc := g.pc + 8#64, fault := none } }) ∧
    ∀ hid h t, KMap.look s.halves hid = some h → h.tile = some t →
      (h.ctx ∈ s.attached → h.tileFree = false → exec (.debuggerStop (.tile hid)) s =
        .next { s with halves := KMap.put s.halves hid { h with tile := some { t with stopped := true } } }) ∧
      ∀ one, t.stopped = true → exec (.debuggerResume (.tile hid) one) s =
        .next { s with halves := KMap.put s.halves hid { h with tile := some { t with stopped := false, single := one } } }

/-- A write of a word of the register space: a kick block's word 0 kicks its stream, HEAD of a Loch queue never passes TAIL, a
mailbox argument is kept as written, and an offset that is not listed ignores it (25 R426, R432; 22 R381; 27 R445). -/
def Claim.RegisterWrites : Prop :=
  ∀ (s : State) (v : DWord), s.ibmir.update = none →
    (∀ n t, n < 128 → exec (.kick n v) s = .next t → exec (.registerWrite (0x20 * n) v) s = .next t) ∧
    (∀ n, n < 128 → exec (.registerWrite (0x70010 + 0x40 * n) v) s = .next { s with loch := KMap.put s.loch n { s.lochQ n with
      head := if (s.lochQ n).tail.toNat < v.toNat then (s.lochQ n).tail else v } }) ∧
    (∀ k, 0 < k → k < 512 → exec (.registerWrite (0x200000 + 8 * k) v) s = .next { s with regs := s.regs.set (0x40000 + k) v }) ∧
    ∀ k, 0x8000 ≤ k → k < 0x20000 → exec (.registerWrite (0x200000 + 8 * k) v) s = .next s

/-- Errors, the debugger, and writes of the register space (05 R117; 06 R167; 25 R426; 26 R437). -/
def Obligations.OutsideEvents : Prop := Claim.Errors ∧ Claim.Debugger ∧ Claim.RegisterWrites

/-! ### Steps, invariants and encodings -/

/-- A quarter's turn runs the instruction that the word at the group's pc decodes to: the eight bytes at its translation, in a group
that is next, with no report to deliver and below its watchdog limit (03 R61, 09 R220, R224).
The model's own choices here: log entries 3 and 5. -/
def Claim.LaneStep : Prop :=
  ∀ (s : State) core q rest gid g l i, s.posted = [] → s.agenda = .quarter core q :: rest →
    State.choose { s with agenda := rest } (core * 4 + q) (fun _ => true) = some gid →
    let s0 : State := State.unstall { s with agenda := rest, last := KMap.put s.last (core * 4 + q) gid } gid
    KMap.look s0.groups gid = some g → g.reports = [] → g.watch.toNat < s0.watchLimit g →
    (s0.translate (s0.coreOf g) (s0.ctxOf g) g.pc.toNat .exec).1 = .ok l → l.rem = false → s0.poisoned (l.pa g.pc.toNat) 8 = false →
    decodeLane (BitVec.ofNat 64 (leNat (s0.memBytes (l.pa g.pc.toNat) 8))) = .ok i →
    step s = andThen (exec i { (s0.translate (s0.coreOf g) (s0.ctxOf g) g.pc.toNat .exec).2 with cur := .group gid })
      (fun t => (t.stepDone gid).after)

/-- A tile context's turn issues its bundle, and a bundle of one slot runs that slot's operation (06 R161, R165).
The model's own choices here: log entries 3 and 36. -/
def Claim.TileStep : Prop :=
  (∀ (s : State) hid rest, s.posted = [] → s.agenda = .tile hid :: rest →
    step s = andThen (exec (.bundleIssue hid) { s with agenda := rest, cur := .tile hid }) (fun t =>
      (t.updT hid (fun x => if x.single then { x with stopped := true, single := false } else x)).after)) ∧
  ∀ (s : State) hid h t m i, s.cur = .tile hid → KMap.look s.halves hid = some h → h.tile = some t → s.imageOf h = some m →
    s.tileReady hid = true → t.an0 = false → t.skips = [] → (s.fetchBundle h m t.pc).1 = .ok () →
    m.bundle t.pc = .ok [(slotOf i, i)] → i.check 256 = none →
    exec (.bundleIssue hid) s = exec i (s.fetchBundle h m t.pc).2

/-- A stream's turn starts the instruction at its pc, whose word it has read and keeps, once those it depends on have completed; so does
STREAM_INSTRUCTION_START, and a `snop` that starts has completed (22 R383, R385, R386, R394).
The model's own choices here: log entries 3 and 48. -/
def Claim.StreamStep : Prop :=
  ∀ (s : State) n x c r b i, KMap.look s.streams n = some x → KMap.look s.ctxs x.ctx = some c → s.streamReady x = true →
    (s.nextIns n x).fetch (s.streamHome x c) x.pc.toNat 8 = (r, .ok b) → s.depsDone x (BitVec.ofNat 64 (leNat b)) = true →
    decodeStream (BitVec.ofNat 64 (leNat b)) = .ok i →
    exec (.streamInstructionStart n) s = exec i { s.keepIns n r.ins with cur := .stream n } ∧
    (∀ f, i = .snop f → i.check 256 = none → exec (.streamInstructionStart n) s =
      .next { s with cur := .stream n, streams := KMap.put s.streams n (x.started none) }) ∧
    ∀ s0 : State, s = { s0 with agenda := s.agenda } → s0.posted = [] → s0.agenda = .stream n :: s.agenda →
      step s0 = andThen (exec i { s.keepIns n r.ins with cur := .stream n }) State.after

/-- A step takes the turn that the agenda names; an event on it happens; after it the 64-bit chip time has passed, no agent is at work,
and memory is as the step left it (00 R2, R3). The agenda is the model's own (log entry 3). -/
def Claim.EventStep : Prop :=
  (∀ (s : State) i rest, s.posted = [] → s.agenda = .event i :: rest → step s = andThen (exec i { s with agenda := rest }) State.after) ∧
  (∀ (s : State) turn rest, s.posted = [] → s.agenda = turn :: rest →
    step s = andThen (State.turn { s with agenda := rest } turn) State.after) ∧
  (∀ (s : State) gid off v rest, s.posted = (gid, off, v) :: rest →
    step s = .next (State.after (State.regWrite { s with posted := rest } (if gid = 0 then none else some gid) off v))) ∧
  ∀ s : State, (∃ e ≤ Config.elapsed s.stamp, s.after.chipTime = (s.chipTime + e) % 2 ^ 64 ∧
      (s.bcasts = [] → e = Config.elapsed s.stamp)) ∧ s.after.stamp = s.stamp + 1 ∧
    s.after.cur = .none ∧ s.after.mem = s.mem ∧ ((∀ e ∈ s.entries, e.fault = none) → s.after.groups = s.groups) ∧
    s.after.halves = s.halves ∧ s.after.streams = s.streams ∧ s.after.ctxs = s.ctxs

/-- A step runs the decoded instruction: of a group, of a tile context, of a stream, or an event (03 R61; 06 R161, R165; 09 R220;
22 R385, R386). -/
def Obligations.StepRuns : Prop := Claim.LaneStep ∧ Claim.TileStep ∧ Claim.StreamStep ∧ Claim.EventStep

/-- Between any two steps no agent is at work, no L1 copy is held past its lease, and no answer to a peer waits past its time: every
step answers such a state; and while chip time is loaded no more, a new round that is broadcast never outlives the time it has to reach
its core (11 R262, R286; 20 R370).
The model's own choices here: log entry 70. -/
def Obligations.TimelyKept : Prop :=
  (∀ s t : State, step s = .next t → t.timely) ∧
  ∀ s t : State, s.ibmir.synced = true → s.ibmir.contextsMade = true → s.roundsOnTime → step s = .next t → t.roundsOnTime

/-- Every step keeps the canonical form of memory, and the tables of groups, halves and contexts in their order (log entry 1). -/
def Obligations.CanonicalKept : Prop := ∀ s t : State, s.canonical → step s = .next t → t.canonical

/-- Reset: the machine is canonical and timely; every port is in mode 0 with EtherType 0x88B5, every peer in generation 1, the
measurements zero, no cap set and the clock nominal; no partition, context or stream exists (17 R345; 25 R427; 27 R446, R450, R452). -/
def Obligations.ResetValues : Prop :=
  let s := State.reset
  s.canonical ∧ s.timely ∧ (∀ n < 8, (s.port n).mode = 0 ∧ (s.port n).etype = 0x88B5 ∧ (s.port n).works = some 0) ∧
    (∀ p, (s.peerOf p).gen = 1#32) ∧ s.ibmir.meas = List.replicate 8 (List.replicate 64 0#8) ∧ s.ibmir.cap = 2600 ∧
    s.ibmir.clock = 2250 ∧ s.parts = [] ∧ s.ctxs = [] ∧ s.streams = [] ∧ s.groups = []

/-- Words written out from the encodings of the spec decode to the instructions they stand for: examples printed in 04, 05, 07
and 22, and words written out from 03 R62 to R67 and 06 R153 to R156. -/
def Obligations.DecodedWords : Prop :=
  let h : Head := ⟨false, false, 7#3⟩
  decodeLane 0x1000FF0504097278#64 = .ok (.shfl ⟨h, 1#3, 0#4, 0#2, 0#6, 255#8, 5#8, 4#8, 9#8, 2#4⟩) ∧
  decodeLane 0x0000070000027380#64 = .ok (.bnone ⟨h, 7#8, 2#24⟩) ∧
  decodeLane 0x8000FFFF010A7085#64 = .ok (.msplit ⟨⟨true, false, 7#3⟩, 0#3, 0#4, 0#2, 0#6, 255#8, 255#8, 1#8, 10#8, 0#4⟩) ∧
  decodeLane 0x000001FF04FF70B6#64 = .ok (.waitc ⟨h, 1#16, 255#8, 4#8, 255#8, 0#4⟩) ∧
  decodeTile 0x000800400004000E#64 = .ok (.cld ⟨8#16, 0#4, 0#4, 2#3, 0#5, 0#5, 0#5, 4#5, 0#5⟩) ∧
  decodeTile 0x000C004000A0000F#64 = .ok (.cst ⟨12#16, 0#4, 0#4, 2#3, 0#5, 0#5, 5#5, 0#5, 0#5⟩) ∧
  decodeTile 0x0011020000000370#64 = .ok (.tileQfence ⟨0x11#16, 0#4, 2#4, 0#3, 0#5, 0#5, 0#5, 0#5, 0#5⟩) ∧
  decodeStream 0x00001C0000004002#64 = .ok (.xfer ⟨0#8, 0x70000001#50⟩) ∧
  decodeStream 0x80001C000000C041#64 = .ok (.launch ⟨1#8, 0x2000070000003#50⟩) ∧
  decodeLane 0x00000000000070F0#64 = .error 0 ∧ decodeLane 0x0200FFFFFFFF70B0#64 = .error 1

/-- Decoding and encoding agree: the word of every well-formed instruction is read back as that instruction, with every field,
in its own set; and a word has one meaning in a set (03 R61 to R67, R75; 06 R152 to R157; 22 R385, R388). -/
def Obligations.EncodeDecode : Prop :=
  (∀ i : Instr, i.check 256 = none →
    (wordSetOf i = some .lane → decodeLane (encode i) = .ok i) ∧
    (wordSetOf i = some .tile → decodeTile (encode i) = .ok i) ∧
    (wordSetOf i = some .stream → decodeStream (encode i) = .ok i)) ∧
  ∀ (w : DWord) (i : Instr),
    (decodeLane w = .ok i → encode i = w ∧ wordSetOf i = some .lane) ∧
    (decodeTile w = .ok i → encode i = w ∧ wordSetOf i = some .tile) ∧
    (decodeStream w = .ok i → encode i = w ∧ wordSetOf i = some .stream)
end

