-- ==== Sys2Proof/Laws/Exec.lean ====
section
/-! SUPPORT. Laws/Exec.lean: `exec` of each constructor is its meaning. -/
namespace Sys2Proof.Machine

theorem exec_nop (f : RFmt) (s : State) : exec (.nop f) s = execNop f s := rfl
theorem exec_iadd (f : RFmt) (s : State) : exec (.iadd f) s = execIadd f s := rfl
theorem exec_isub (f : RFmt) (s : State) : exec (.isub f) s = execIsub f s := rfl
theorem exec_imul (f : RFmt) (s : State) : exec (.imul f) s = execImul f s := rfl
theorem exec_imad (f : RFmt) (s : State) : exec (.imad f) s = execImad f s := rfl
theorem exec_imulh (f : RFmt) (s : State) : exec (.imulh f) s = execImulh f s := rfl
theorem exec_imadw (f : RFmt) (s : State) : exec (.imadw f) s = execImadw f s := rfl
theorem exec_imin (f : RFmt) (s : State) : exec (.imin f) s = execImin f s := rfl
theorem exec_imax (f : RFmt) (s : State) : exec (.imax f) s = execImax f s := rfl
theorem exec_iabs (f : RFmt) (s : State) : exec (.iabs f) s = execIabs f s := rfl
theorem exec_iaddImm (f : IFmt) (s : State) : exec (.iaddImm f) s = execIaddImm f s := rfl
theorem exec_imulImm (f : IFmt) (s : State) : exec (.imulImm f) s = execImulImm f s := rfl
theorem exec_iminImm (f : IFmt) (s : State) : exec (.iminImm f) s = execIminImm f s := rfl
theorem exec_imaxImm (f : IFmt) (s : State) : exec (.imaxImm f) s = execImaxImm f s := rfl
theorem exec_shl (f : RFmt) (s : State) : exec (.shl f) s = execShl f s := rfl
theorem exec_shr (f : RFmt) (s : State) : exec (.shr f) s = execShr f s := rfl
theorem exec_sar (f : RFmt) (s : State) : exec (.sar f) s = execSar f s := rfl
theorem exec_shlImm (f : IFmt) (s : State) : exec (.shlImm f) s = execShlImm f s := rfl
theorem exec_shrImm (f : IFmt) (s : State) : exec (.shrImm f) s = execShrImm f s := rfl
theorem exec_sarImm (f : IFmt) (s : State) : exec (.sarImm f) s = execSarImm f s := rfl
theorem exec_and (f : RFmt) (s : State) : exec (.and f) s = execAnd f s := rfl
theorem exec_or (f : RFmt) (s : State) : exec (.or f) s = execOr f s := rfl
theorem exec_xor (f : RFmt) (s : State) : exec (.xor f) s = execXor f s := rfl
theorem exec_andn (f : RFmt) (s : State) : exec (.andn f) s = execAndn f s := rfl
theorem exec_andImm (f : IFmt) (s : State) : exec (.andImm f) s = execAndImm f s := rfl
theorem exec_orImm (f : IFmt) (s : State) : exec (.orImm f) s = execOrImm f s := rfl
theorem exec_xorImm (f : IFmt) (s : State) : exec (.xorImm f) s = execXorImm f s := rfl
theorem exec_andnImm (f : IFmt) (s : State) : exec (.andnImm f) s = execAndnImm f s := rfl
theorem exec_lop3 (f : RFmt) (s : State) : exec (.lop3 f) s = execLop3 f s := rfl
theorem exec_popc (f : RFmt) (s : State) : exec (.popc f) s = execPopc f s := rfl
theorem exec_clz (f : RFmt) (s : State) : exec (.clz f) s = execClz f s := rfl
theorem exec_brev (f : RFmt) (s : State) : exec (.brev f) s = execBrev f s := rfl
theorem exec_bfx (f : RFmt) (s : State) : exec (.bfx f) s = execBfx f s := rfl
theorem exec_bfi (f : RFmt) (s : State) : exec (.bfi f) s = execBfi f s := rfl
theorem exec_prm (f : RFmt) (s : State) : exec (.prm f) s = execPrm f s := rfl
theorem exec_sel (f : RFmt) (s : State) : exec (.sel f) s = execSel f s := rfl
theorem exec_mov (f : RFmt) (s : State) : exec (.mov f) s = execMov f s := rfl
theorem exec_iset (f : RFmt) (s : State) : exec (.iset f) s = execIset f s := rfl
theorem exec_isetImm (f : IFmt) (s : State) : exec (.isetImm f) s = execIsetImm f s := rfl
theorem exec_movi (f : IFmt) (s : State) : exec (.movi f) s = execMovi f s := rfl
theorem exec_movl (f : LFmt) (s : State) : exec (.movl f) s = execMovl f s := rfl
theorem exec_lea (f : RFmt) (s : State) : exec (.lea f) s = execLea f s := rfl
theorem exec_xlat (f : MFmt) (s : State) : exec (.xlat f) s = execXlat f s := rfl
theorem exec_fadd (f : RFmt) (s : State) : exec (.fadd f) s = execFadd f s := rfl
theorem exec_fsub (f : RFmt) (s : State) : exec (.fsub f) s = execFsub f s := rfl
theorem exec_fmul (f : RFmt) (s : State) : exec (.fmul f) s = execFmul f s := rfl
theorem exec_fma (f : RFmt) (s : State) : exec (.fma f) s = execFma f s := rfl
theorem exec_fmin (f : RFmt) (s : State) : exec (.fmin f) s = execFmin f s := rfl
theorem exec_fmax (f : RFmt) (s : State) : exec (.fmax f) s = execFmax f s := rfl
theorem exec_fset (f : RFmt) (s : State) : exec (.fset f) s = execFset f s := rfl
theorem exec_frnd (f : RFmt) (s : State) : exec (.frnd f) s = execFrnd f s := rfl
theorem exec_fclass (f : RFmt) (s : State) : exec (.fclass f) s = execFclass f s := rfl
theorem exec_hadd2 (f : RFmt) (s : State) : exec (.hadd2 f) s = execHadd2 f s := rfl
theorem exec_hmul2 (f : RFmt) (s : State) : exec (.hmul2 f) s = execHmul2 f s := rfl
theorem exec_hfma2 (f : RFmt) (s : State) : exec (.hfma2 f) s = execHfma2 f s := rfl
theorem exec_hmin2 (f : RFmt) (s : State) : exec (.hmin2 f) s = execHmin2 f s := rfl
theorem exec_hmax2 (f : RFmt) (s : State) : exec (.hmax2 f) s = execHmax2 f s := rfl
theorem exec_padd4 (f : RFmt) (s : State) : exec (.padd4 f) s = execPadd4 f s := rfl
theorem exec_pmul4 (f : RFmt) (s : State) : exec (.pmul4 f) s = execPmul4 f s := rfl
theorem exec_pmax4 (f : RFmt) (s : State) : exec (.pmax4 f) s = execPmax4 f s := rfl
theorem exec_dot4 (f : RFmt) (s : State) : exec (.dot4 f) s = execDot4 f s := rfl
theorem exec_dot8 (f : RFmt) (s : State) : exec (.dot8 f) s = execDot8 f s := rfl
theorem exec_dot4s (f : RFmt) (s : State) : exec (.dot4s f) s = execDot4s f s := rfl
theorem exec_dot8s (f : RFmt) (s : State) : exec (.dot8s f) s = execDot8s f s := rfl
theorem exec_cvt (f : RFmt) (s : State) : exec (.cvt f) s = execCvt f s := rfl
theorem exec_cvtp (f : RFmt) (s : State) : exec (.cvtp f) s = execCvtp f s := rfl
theorem exec_pack (f : RFmt) (s : State) : exec (.pack f) s = execPack f s := rfl
theorem exec_unpack (f : RFmt) (s : State) : exec (.unpack f) s = execUnpack f s := rfl
theorem exec_rcp (f : RFmt) (s : State) : exec (.rcp f) s = execRcp f s := rfl
theorem exec_rsq (f : RFmt) (s : State) : exec (.rsq f) s = execRsq f s := rfl
theorem exec_sqrt (f : RFmt) (s : State) : exec (.sqrt f) s = execSqrt f s := rfl
theorem exec_ex2 (f : RFmt) (s : State) : exec (.ex2 f) s = execEx2 f s := rfl
theorem exec_lg2 (f : RFmt) (s : State) : exec (.lg2 f) s = execLg2 f s := rfl
theorem exec_sin (f : RFmt) (s : State) : exec (.sin f) s = execSin f s := rfl
theorem exec_cos (f : RFmt) (s : State) : exec (.cos f) s = execCos f s := rfl
theorem exec_tanh (f : RFmt) (s : State) : exec (.tanh f) s = execTanh f s := rfl
theorem exec_shfl (f : RFmt) (s : State) : exec (.shfl f) s = execShfl f s := rfl
theorem exec_vote (f : RFmt) (s : State) : exec (.vote f) s = execVote f s := rfl
theorem exec_matchL (f : RFmt) (s : State) : exec (.matchL f) s = execMatchL f s := rfl
theorem exec_redx (f : RFmt) (s : State) : exec (.redx f) s = execRedx f s := rfl
theorem exec_plopAnd (f : RFmt) (s : State) : exec (.plopAnd f) s = execPlopAnd f s := rfl
theorem exec_plopOr (f : RFmt) (s : State) : exec (.plopOr f) s = execPlopOr f s := rfl
theorem exec_plopXor (f : RFmt) (s : State) : exec (.plopXor f) s = execPlopXor f s := rfl
theorem exec_plopAndn (f : RFmt) (s : State) : exec (.plopAndn f) s = execPlopAndn f s := rfl
theorem exec_pmov (f : RFmt) (s : State) : exec (.pmov f) s = execPmov f s := rfl
theorem exec_p2g (f : RFmt) (s : State) : exec (.p2g f) s = execP2g f s := rfl
theorem exec_g2p (f : RFmt) (s : State) : exec (.g2p f) s = execG2p f s := rfl
theorem exec_bra (f : BFmt) (s : State) : exec (.bra f) s = execBra f s := rfl
theorem exec_bany (f : BFmt) (s : State) : exec (.bany f) s = execBany f s := rfl
theorem exec_ball (f : BFmt) (s : State) : exec (.ball f) s = execBall f s := rfl
theorem exec_bnone (f : BFmt) (s : State) : exec (.bnone f) s = execBnone f s := rfl
theorem exec_call (f : BFmt) (s : State) : exec (.call f) s = execCall f s := rfl
theorem exec_brx (f : RFmt) (s : State) : exec (.brx f) s = execBrx f s := rfl
theorem exec_ret (f : RFmt) (s : State) : exec (.ret f) s = execRet f s := rfl
theorem exec_exit (f : RFmt) (s : State) : exec (.exit f) s = execExit f s := rfl
theorem exec_yield (f : RFmt) (s : State) : exec (.yield f) s = execYield f s := rfl
theorem exec_msplit (f : RFmt) (s : State) : exec (.msplit f) s = execMsplit f s := rfl
theorem exec_mjoin (f : RFmt) (s : State) : exec (.mjoin f) s = execMjoin f s := rfl
theorem exec_bkpt (f : IFmt) (s : State) : exec (.bkpt f) s = execBkpt f s := rfl
theorem exec_ld (f : MFmt) (s : State) : exec (.ld f) s = execLd f s := rfl
theorem exec_st (f : MFmt) (s : State) : exec (.st f) s = execSt f s := rfl
theorem exec_ldb (f : MFmt) (s : State) : exec (.ldb f) s = execLdb f s := rfl
theorem exec_ldacq (f : MFmt) (s : State) : exec (.ldacq f) s = execLdacq f s := rfl
theorem exec_strel (f : MFmt) (s : State) : exec (.strel f) s = execStrel f s := rfl
theorem exec_atom (f : MFmt) (s : State) : exec (.atom f) s = execAtom f s := rfl
theorem exec_red (f : MFmt) (s : State) : exec (.red f) s = execRed f s := rfl
theorem exec_atomc (f : MFmt) (s : State) : exec (.atomc f) s = execAtomc f s := rfl
theorem exec_prf (f : MFmt) (s : State) : exec (.prf f) s = execPrf f s := rfl
theorem exec_lkup (f : MFmt) (s : State) : exec (.lkup f) s = execLkup f s := rfl
theorem exec_tagset (f : MFmt) (s : State) : exec (.tagset f) s = execTagset f s := rfl
theorem exec_ckout (f : MFmt) (s : State) : exec (.ckout f) s = execCkout f s := rfl
theorem exec_ckin (f : MFmt) (s : State) : exec (.ckin f) s = execCkin f s := rfl
theorem exec_round (f : MFmt) (s : State) : exec (.round f) s = execRound f s := rfl
theorem exec_fence (f : MFmt) (s : State) : exec (.fence f) s = execFence f s := rfl
theorem exec_qfence (f : MFmt) (s : State) : exec (.qfence f) s = execQfence f s := rfl
theorem exec_bar (f : YFmt) (s : State) : exec (.bar f) s = execBar f s := rfl
theorem exec_barm (f : YFmt) (s : State) : exec (.barm f) s = execBarm f s := rfl
theorem exec_barinit (f : YFmt) (s : State) : exec (.barinit f) s = execBarinit f s := rfl
theorem exec_arrive (f : YFmt) (s : State) : exec (.arrive f) s = execArrive f s := rfl
theorem exec_waitb (f : YFmt) (s : State) : exec (.waitb f) s = execWaitb f s := rfl
theorem exec_tryw (f : YFmt) (s : State) : exec (.tryw f) s = execTryw f s := rfl
theorem exec_waitc (f : YFmt) (s : State) : exec (.waitc f) s = execWaitc f s := rfl
theorem exec_drain (f : YFmt) (s : State) : exec (.drain f) s = execDrain f s := rfl
theorem exec_trigger (f : YFmt) (s : State) : exec (.trigger f) s = execTrigger f s := rfl
theorem exec_waitpred (f : YFmt) (s : State) : exec (.waitpred f) s = execWaitpred f s := rfl
theorem exec_cpy (f : YFmt) (s : State) : exec (.cpy f) s = execCpy f s := rfl
theorem exec_cpyx (f : YFmt) (s : State) : exec (.cpyx f) s = execCpyx f s := rfl
theorem exec_cpym (f : YFmt) (s : State) : exec (.cpym f) s = execCpym f s := rfl
theorem exec_mklay (f : YFmt) (s : State) : exec (.mklay f) s = execMklay f s := rfl
theorem exec_rmlay (f : YFmt) (s : State) : exec (.rmlay f) s = execRmlay f s := rfl
theorem exec_gate (f : LFmt) (s : State) : exec (.gate f) s = execGate f s := rfl
theorem exec_reggrow (f : YFmt) (s : State) : exec (.reggrow f) s = execReggrow f s := rfl
theorem exec_regshr (f : YFmt) (s : State) : exec (.regshr f) s = execRegshr f s := rfl
theorem exec_trap (f : YFmt) (s : State) : exec (.trap f) s = execTrap f s := rfl
theorem exec_gets (f : YFmt) (s : State) : exec (.gets f) s = execGets f s := rfl
theorem exec_sets (f : YFmt) (s : State) : exec (.sets f) s = execSets f s := rfl
theorem exec_qfeat (f : YFmt) (s : State) : exec (.qfeat f) s = execQfeat f s := rfl
theorem exec_qphys (f : YFmt) (s : State) : exec (.qphys f) s = execQphys f s := rfl
theorem exec_kvnew (f : YFmt) (s : State) : exec (.kvnew f) s = execKvnew f s := rfl
theorem exec_kvfork (f : YFmt) (s : State) : exec (.kvfork f) s = execKvfork f s := rfl
theorem exec_kvapp (f : YFmt) (s : State) : exec (.kvapp f) s = execKvapp f s := rfl
theorem exec_kvmap (f : YFmt) (s : State) : exec (.kvmap f) s = execKvmap f s := rfl
theorem exec_kvret (f : YFmt) (s : State) : exec (.kvret f) s = execKvret f s := rfl
theorem exec_kvfree (f : YFmt) (s : State) : exec (.kvfree f) s = execKvfree f s := rfl
theorem exec_kvcpt (f : YFmt) (s : State) : exec (.kvcpt f) s = execKvcpt f s := rfl
theorem exec_resultLands (gid idx : Nat) (s : State) : exec (.resultLands gid idx) s = execResultLands gid idx s := rfl
theorem exec_gwctReturn (gid : Nat) (s : State) : exec (.gwctReturn gid) s = execGwctReturn gid s := rfl
theorem exec_watchdog (gid : Nat) (s : State) : exec (.watchdog gid) s = execWatchdog gid s := rfl
theorem exec_trywTimeout (gid : Nat) (s : State) : exec (.trywTimeout gid) s = execTrywTimeout gid s := rfl
theorem exec_roundStall (gid : Nat) (s : State) : exec (.roundStall gid) s = execRoundStall gid s := rfl
theorem exec_roundIncrement (ctx region : Nat) (s : State) : exec (.roundIncrement ctx region) s = execRoundIncrement ctx region s := rfl
theorem exec_roundBroadcast (core ctx region : Nat) (s : State) : exec (.roundBroadcast core ctx region) s = execRoundBroadcast core ctx region s := rfl
theorem exec_roundFetchAnswer (gid : Nat) (s : State) : exec (.roundFetchAnswer gid) s = execRoundFetchAnswer gid s := rfl
theorem exec_reggrowGrant (core quarter : Nat) (s : State) : exec (.reggrowGrant core quarter) s = execReggrowGrant core quarter s := rfl
theorem exec_arbiterTimeout (core quarter : Nat) (s : State) : exec (.arbiterTimeout core quarter) s = execArbiterTimeout core quarter s := rfl
theorem exec_gateClose (hid : Nat) (s : State) : exec (.gateClose hid) s = execGateClose hid s := rfl
theorem exec_bundleIssue (hid : Nat) (s : State) : exec (.bundleIssue hid) s = execBundleIssue hid s := rfl
theorem exec_cnop (f : GFmt) (s : State) : exec (.cnop f) s = execCnop f s := rfl
theorem exec_cadd (f : GFmt) (s : State) : exec (.cadd f) s = execCadd f s := rfl
theorem exec_csub (f : GFmt) (s : State) : exec (.csub f) s = execCsub f s := rfl
theorem exec_cmul (f : GFmt) (s : State) : exec (.cmul f) s = execCmul f s := rfl
theorem exec_cand (f : GFmt) (s : State) : exec (.cand f) s = execCand f s := rfl
theorem exec_cor (f : GFmt) (s : State) : exec (.cor f) s = execCor f s := rfl
theorem exec_cxor (f : GFmt) (s : State) : exec (.cxor f) s = execCxor f s := rfl
theorem exec_cshl (f : GFmt) (s : State) : exec (.cshl f) s = execCshl f s := rfl
theorem exec_cshr (f : GFmt) (s : State) : exec (.cshr f) s = execCshr f s := rfl
theorem exec_csar (f : GFmt) (s : State) : exec (.csar f) s = execCsar f s := rfl
theorem exec_cmov (f : GFmt) (s : State) : exec (.cmov f) s = execCmov f s := rfl
theorem exec_cmovi (f : KFmt) (s : State) : exec (.cmovi f) s = execCmovi f s := rfl
theorem exec_ccmp (f : GFmt) (s : State) : exec (.ccmp f) s = execCcmp f s := rfl
theorem exec_cld (f : GFmt) (s : State) : exec (.cld f) s = execCld f s := rfl
theorem exec_cst (f : GFmt) (s : State) : exec (.cst f) s = execCst f s := rfl
theorem exec_jmp (f : JFmt) (s : State) : exec (.jmp f) s = execJmp f s := rfl
theorem exec_jc (f : JFmt) (s : State) : exec (.jc f) s = execJc f s := rfl
theorem exec_jal (f : JFmt) (s : State) : exec (.jal f) s = execJal f s := rfl
theorem exec_jr (f : GFmt) (s : State) : exec (.jr f) s = execJr f s := rfl
theorem exec_loop (f : JFmt) (s : State) : exec (.loop f) s = execLoop f s := rfl
theorem exec_cgets (f : GFmt) (s : State) : exec (.cgets f) s = execCgets f s := rfl
theorem exec_csets (f : GFmt) (s : State) : exec (.csets f) s = execCsets f s := rfl
theorem exec_gret (f : GFmt) (s : State) : exec (.gret f) s = execGret f s := rfl
theorem exec_apset (f : KFmt) (s : State) : exec (.apset f) s = execApset f s := rfl
theorem exec_apadd (f : GFmt) (s : State) : exec (.apadd f) s = execApadd f s := rfl
theorem exec_sdset (f : KFmt) (s : State) : exec (.sdset f) s = execSdset f s := rfl
theorem exec_lcset (f : KFmt) (s : State) : exec (.lcset f) s = execLcset f s := rfl
theorem exec_apld (f : GFmt) (s : State) : exec (.apld f) s = execApld f s := rfl
theorem exec_vcas (f : VFmt) (s : State) : exec (.vcas f) s = execVcas f s := rfl
theorem exec_vld (f : GFmt) (s : State) : exec (.vld f) s = execVld f s := rfl
theorem exec_vst (f : GFmt) (s : State) : exec (.vst f) s = execVst f s := rfl
theorem exec_vldb (f : GFmt) (s : State) : exec (.vldb f) s = execVldb f s := rfl
theorem exec_vcvt (f : GFmt) (s : State) : exec (.vcvt f) s = execVcvt f s := rfl
theorem exec_vred (f : GFmt) (s : State) : exec (.vred f) s = execVred f s := rfl
theorem exec_vbcast (f : GFmt) (s : State) : exec (.vbcast f) s = execVbcast f s := rfl
theorem exec_vperm (f : GFmt) (s : State) : exec (.vperm f) s = execVperm f s := rfl
theorem exec_vsel (f : GFmt) (s : State) : exec (.vsel f) s = execVsel f s := rfl
theorem exec_tbind (f : GFmt) (s : State) : exec (.tbind f) s = execTbind f s := rfl
theorem exec_sfill (f : GFmt) (s : State) : exec (.sfill f) s = execSfill f s := rfl
theorem exec_sdrop (f : GFmt) (s : State) : exec (.sdrop f) s = execSdrop f s := rfl
theorem exec_mma (f : GFmt) (s : State) : exec (.mma f) s = execMma f s := rfl
theorem exec_mmaz (f : GFmt) (s : State) : exec (.mmaz f) s = execMmaz f s := rfl
theorem exec_ast (f : GFmt) (s : State) : exec (.ast f) s = execAst f s := rfl
theorem exec_ald (f : GFmt) (s : State) : exec (.ald f) s = execAld f s := rfl
theorem exec_amask (f : GFmt) (s : State) : exec (.amask f) s = execAmask f s := rfl
theorem exec_tskip (f : GFmt) (s : State) : exec (.tskip f) s = execTskip f s := rfl
theorem exec_trn (f : GFmt) (s : State) : exec (.trn f) s = execTrn f s := rfl
theorem exec_vgmv (f : GFmt) (s : State) : exec (.vgmv f) s = execVgmv f s := rfl
theorem exec_tileCpy (f : GFmt) (s : State) : exec (.tileCpy f) s = execTileCpy f s := rfl
theorem exec_tileCpyx (f : GFmt) (s : State) : exec (.tileCpyx f) s = execTileCpyx f s := rfl
theorem exec_tileCpym (f : GFmt) (s : State) : exec (.tileCpym f) s = execTileCpym f s := rfl
theorem exec_bfence (f : GFmt) (s : State) : exec (.bfence f) s = execBfence f s := rfl
theorem exec_bwait (f : GFmt) (s : State) : exec (.bwait f) s = execBwait f s := rfl
theorem exec_tileQfence (f : GFmt) (s : State) : exec (.tileQfence f) s = execTileQfence f s := rfl
theorem exec_tileDrain (f : GFmt) (s : State) : exec (.tileDrain f) s = execTileDrain f s := rfl
theorem exec_tileRound (f : GFmt) (s : State) : exec (.tileRound f) s = execTileRound f s := rfl
theorem exec_timedCommandRelease (core : Nat) (s : State) : exec (.timedCommandRelease core) s = execTimedCommandRelease core s := rfl
theorem exec_cloveCommandComplete (core channel : Nat) (s : State) : exec (.cloveCommandComplete core channel) s = execCloveCommandComplete core channel s := rfl
theorem exec_matrixCommandComplete (core quarter : Nat) (s : State) : exec (.matrixCommandComplete core quarter) s = execMatrixCommandComplete core quarter s := rfl
theorem exec_aniseCommandComplete (core : Nat) (s : State) : exec (.aniseCommandComplete core) s = execAniseCommandComplete core s := rfl
theorem exec_cuminCommandComplete (core : Nat) (s : State) : exec (.cuminCommandComplete core) s = execCuminCommandComplete core s := rfl
theorem exec_qfenceEntryRelease (fid : Nat) (s : State) : exec (.qfenceEntryRelease fid) s = execQfenceEntryRelease fid s := rfl
theorem exec_residueMismatch (queue : Nat) (s : State) : exec (.residueMismatch queue) s = execResidueMismatch queue s := rfl
theorem exec_resolveReplayPatch (ctx id : Nat) (s : State) : exec (.resolveReplayPatch ctx id) s = execResolveReplayPatch ctx id s := rfl
theorem exec_resolveSkip (ctx id : Nat) (s : State) : exec (.resolveSkip ctx id) s = execResolveSkip ctx id s := rfl
theorem exec_resolveRetry (ctx id : Nat) (s : State) : exec (.resolveRetry ctx id) s = execResolveRetry ctx id s := rfl
theorem exec_resolveUnresolvable (ctx id : Nat) (s : State) : exec (.resolveUnresolvable ctx id) s = execResolveUnresolvable ctx id s := rfl
theorem exec_faultRecordWrite (ctx : Nat) (s : State) : exec (.faultRecordWrite ctx) s = execFaultRecordWrite ctx s := rfl
theorem exec_kick (stream : Nat) (va : DWord) (s : State) : exec (.kick stream va) s = execKick stream va s := rfl
theorem exec_streamInstructionStart (stream : Nat) (s : State) : exec (.streamInstructionStart stream) s = execStreamInstructionStart stream s := rfl
theorem exec_launch (f : SFmt) (s : State) : exec (.launch f) s = execLaunch f s := rfl
theorem exec_launchComplete (launch : Nat) (s : State) : exec (.launchComplete launch) s = execLaunchComplete launch s := rfl
theorem exec_xfer (f : SFmt) (s : State) : exec (.xfer f) s = execXfer f s := rfl
theorem exec_xferComplete (stream idx : Nat) (s : State) : exec (.xferComplete stream idx) s = execXferComplete stream idx s := rfl
theorem exec_sigevAdd (f : SFmt) (s : State) : exec (.sigevAdd f) s = execSigevAdd f s := rfl
theorem exec_sigevSet (f : SFmt) (s : State) : exec (.sigevSet f) s = execSigevSet f s := rfl
theorem exec_waitev (f : SFmt) (s : State) : exec (.waitev f) s = execWaitev f s := rfl
theorem exec_twait (f : SFmt) (s : State) : exec (.twait f) s = execTwait f s := rfl
theorem exec_twaitExpiry (stream idx : Nat) (s : State) : exec (.twaitExpiry stream idx) s = execTwaitExpiry stream idx s := rfl
theorem exec_hand (f : SFmt) (s : State) : exec (.hand f) s = execHand f s := rfl
theorem exec_res (f : SFmt) (s : State) : exec (.res f) s = execRes f s := rfl
theorem exec_resRelease (f : SFmt) (s : State) : exec (.resRelease f) s = execResRelease f s := rfl
theorem exec_jump (f : SFmt) (s : State) : exec (.jump f) s = execJump f s := rfl
theorem exec_halt (f : SFmt) (s : State) : exec (.halt f) s = execHalt f s := rfl
theorem exec_snop (f : SFmt) (s : State) : exec (.snop f) s = execSnop f s := rfl
theorem exec_distributorPlace (part : Nat) (s : State) : exec (.distributorPlace part) s = execDistributorPlace part s := rfl
theorem exec_unitBlocking (part : Nat) (s : State) : exec (.unitBlocking part) s = execUnitBlocking part s := rfl
theorem exec_create (c : PCmd) (s : State) : exec (.create c) s = execCreate c s := rfl
theorem exec_destroy (c : PCmd) (s : State) : exec (.destroy c) s = execDestroy c s := rfl
theorem exec_load (c : PCmd) (s : State) : exec (.load c) s = execLoad c s := rfl
theorem exec_unload (c : PCmd) (s : State) : exec (.unload c) s = execUnload c s := rfl
theorem exec_preempt (c : PCmd) (s : State) : exec (.preempt c) s = execPreempt c s := rfl
theorem exec_resume (c : PCmd) (s : State) : exec (.resume c) s = execResume c s := rfl
theorem exec_spill (c : PCmd) (s : State) : exec (.spill c) s = execSpill c s := rfl
theorem exec_migout (c : PCmd) (s : State) : exec (.migout c) s = execMigout c s := rfl
theorem exec_migin (c : PCmd) (s : State) : exec (.migin c) s = execMigin c s := rfl
theorem exec_shootdown (slot : Nat) (base : DWord) (what : DWord) (s : State) : exec (.shootdown slot base what) s = execShootdown slot base what s := rfl
theorem exec_shootdownComplete (slot : Nat) (s : State) : exec (.shootdownComplete slot) s = execShootdownComplete slot s := rfl
theorem exec_handoverKick (base : DWord) (what : DWord) (s : State) : exec (.handoverKick base what) s = execHandoverKick base what s := rfl
theorem exec_requantisationKick (ctx : Nat) (word : DWord) (s : State) : exec (.requantisationKick ctx word) s = execRequantisationKick ctx word s := rfl
theorem exec_requantSwap (ctx : Nat) (s : State) : exec (.requantSwap ctx) s = execRequantSwap ctx s := rfl
theorem exec_portConfig (port : Nat) (w0 w1 : DWord) (s : State) : exec (.portConfig port w0 w1) s = execPortConfig port w0 w1 s := rfl
theorem exec_portRetrained (port : Nat) (s : State) : exec (.portRetrained port) s = execPortRetrained port s := rfl
theorem exec_ptpFrame (port : Nat) (time : DWord) (s : State) : exec (.ptpFrame port time) s = execPtpFrame port time s := rfl
theorem exec_fabricFrame (port : Nat) (msg : FabricMsg) (s : State) : exec (.fabricFrame port msg) s = execFabricFrame port msg s := rfl
theorem exec_linkFailure (peer : Nat) (s : State) : exec (.linkFailure peer) s = execLinkFailure peer s := rfl
theorem exec_peerReset (peer : Nat) (down : Bool) (s : State) : exec (.peerReset peer down) s = execPeerReset peer down s := rfl
theorem exec_linkReconnect (peer lastSeq : Nat) (results : List (Nat × DWord)) (s : State) : exec (.linkReconnect peer lastSeq results) s = execLinkReconnect peer lastSeq results s := rfl
theorem exec_lochFrame (port : Nat) (bytes : List Byte) (s : State) : exec (.lochFrame port bytes) s = execLochFrame port bytes s := rfl
theorem exec_lochEntryComplete (queue : Nat) (s : State) : exec (.lochEntryComplete queue) s = execLochEntryComplete queue s := rfl
theorem exec_bind (gid queue : Nat) (offset : DWord) (s : State) : exec (.bind gid queue offset) s = execBind gid queue offset s := rfl
theorem exec_unbind (gid queue : Nat) (s : State) : exec (.unbind gid queue) s = execUnbind gid queue s := rfl
theorem exec_cxlMemRead (pa n : Nat) (s : State) : exec (.cxlMemRead pa n) s = execCxlMemRead pa n s := rfl
theorem exec_cxlMemWrite (pa : Nat) (bytes : List Byte) (s : State) : exec (.cxlMemWrite pa bytes) s = execCxlMemWrite pa bytes s := rfl
theorem exec_hostSnoop (pa : Nat) (s : State) : exec (.hostSnoop pa) s = execHostSnoop pa s := rfl
theorem exec_hostLinkLost (s : State) : exec (.hostLinkLost) s = execHostLinkLost s := rfl
theorem exec_uncorrectableError (site : ErrSite) (s : State) : exec (.uncorrectableError site) s = execUncorrectableError site s := rfl
theorem exec_correctableError (kind : ArrayKind) (s : State) : exec (.correctableError kind) s = execCorrectableError kind s := rfl
theorem exec_attest (tag : BitVec 16) (nonce : List Byte) (s : State) : exec (.attest tag nonce) s = execAttest tag nonce s := rfl
theorem exec_update (tag : BitVec 16) (image signature : List Byte) (version : Nat) (s : State) : exec (.update tag image signature version) s = execUpdate tag image signature version s := rfl
theorem exec_updateWindowEnd (ready : Bool) (s : State) : exec (.updateWindowEnd ready) s = execUpdateWindowEnd ready s := rfl
theorem exec_powerCap (tag : BitVec 16) (watts : Nat) (s : State) : exec (.powerCap tag watts) s = execPowerCap tag watts s := rfl
theorem exec_clockStep (up : Bool) (s : State) : exec (.clockStep up) s = execClockStep up s := rfl
theorem exec_criticalTemperature (s : State) : exec (.criticalTemperature) s = execCriticalTemperature s := rfl
theorem exec_telemetryRefresh (s : State) : exec (.telemetryRefresh) s = execTelemetryRefresh s := rfl
theorem exec_coldReset (s : State) : exec (.coldReset) s = execColdReset s := rfl
theorem exec_grandmasterTimeout (s : State) : exec (.grandmasterTimeout) s = execGrandmasterTimeout s := rfl
theorem exec_registerWrite (offset : Nat) (value : DWord) (s : State) : exec (.registerWrite offset value) s = execRegisterWrite offset value s := rfl
theorem exec_chipTimeReachesGw (gid : Nat) (s : State) : exec (.chipTimeReachesGw gid) s = execChipTimeReachesGw gid s := rfl
theorem exec_rangesResident (stream idx : Nat) (s : State) : exec (.rangesResident stream idx) s = execRangesResident stream idx s := rfl
theorem exec_linkNotRestored (peer : Nat) (s : State) : exec (.linkNotRestored peer) s = execLinkNotRestored peer s := rfl
theorem exec_partitionDescriptorWrite (part : Nat) (w0 w1 w2 w3 : DWord) (s : State) : exec (.partitionDescriptorWrite part w0 w1 w2 w3) s = execPartitionDescriptorWrite part w0 w1 w2 w3 s := rfl
theorem exec_debuggerStop (target : DebugTarget) (s : State) : exec (.debuggerStop target) s = execDebuggerStop target s := rfl
theorem exec_debuggerResume (target : DebugTarget) (single : Bool) (s : State) : exec (.debuggerResume target single) s = execDebuggerResume target single s := rfl
theorem exec_debuggerAttach (ctx : Nat) (on : Bool) (s : State) : exec (.debuggerAttach ctx on) s = execDebuggerAttach ctx on s := rfl
theorem exec_backInvalidationAnswer (idx : Nat) (s : State) : exec (.backInvalidationAnswer idx) s = execBackInvalidationAnswer idx s := rfl
theorem exec_savetimePassed (ctx : Nat) (s : State) : exec (.savetimePassed ctx) s = execSavetimePassed ctx s := rfl

end Sys2Proof.Machine
end

