-- ==== Sys2Proof/Laws/State.lean ====
section
/-! SUPPORT. Laws/State.lean: what each update of one record of the state leaves alone, and what it leaves behind. -/
namespace Sys2Proof.Machine

variable (s : State)

@[simp] theorem State.updG_chipTime (gid : Nat) (f : Group → Group) : (s.updG gid f).chipTime = s.chipTime := by unfold State.updG; split <;> rfl
@[simp] theorem State.updG_stamp (gid : Nat) (f : Group → Group) : (s.updG gid f).stamp = s.stamp := by unfold State.updG; split <;> rfl
@[simp] theorem State.updG_agenda (gid : Nat) (f : Group → Group) : (s.updG gid f).agenda = s.agenda := by unfold State.updG; split <;> rfl
@[simp] theorem State.updG_cur (gid : Nat) (f : Group → Group) : (s.updG gid f).cur = s.cur := by unfold State.updG; split <;> rfl
@[simp] theorem State.updG_outbox (gid : Nat) (f : Group → Group) : (s.updG gid f).outbox = s.outbox := by unfold State.updG; split <;> rfl
@[simp] theorem State.updG_nextId (gid : Nat) (f : Group → Group) : (s.updG gid f).nextId = s.nextId := by unfold State.updG; split <;> rfl
@[simp] theorem State.updG_halves (gid : Nat) (f : Group → Group) : (s.updG gid f).halves = s.halves := by unfold State.updG; split <;> rfl
@[simp] theorem State.updG_last (gid : Nat) (f : Group → Group) : (s.updG gid f).last = s.last := by unfold State.updG; split <;> rfl
@[simp] theorem State.updG_grow (gid : Nat) (f : Group → Group) : (s.updG gid f).grow = s.grow := by unfold State.updG; split <;> rfl
@[simp] theorem State.updG_growTime (gid : Nat) (f : Group → Group) : (s.updG gid f).growTime = s.growTime := by unfold State.updG; split <;> rfl
@[simp] theorem State.updG_arrivals (gid : Nat) (f : Group → Group) : (s.updG gid f).arrivals = s.arrivals := by unfold State.updG; split <;> rfl
@[simp] theorem State.updG_roles (gid : Nat) (f : Group → Group) : (s.updG gid f).roles = s.roles := by unfold State.updG; split <;> rfl
@[simp] theorem State.updG_queues (gid : Nat) (f : Group → Group) : (s.updG gid f).queues = s.queues := by unfold State.updG; split <;> rfl
@[simp] theorem State.updG_timed (gid : Nat) (f : Group → Group) : (s.updG gid f).timed = s.timed := by unfold State.updG; split <;> rfl
@[simp] theorem State.updG_visible (gid : Nat) (f : Group → Group) : (s.updG gid f).visible = s.visible := by unfold State.updG; split <;> rfl
@[simp] theorem State.updG_mem (gid : Nat) (f : Group → Group) : (s.updG gid f).mem = s.mem := by unfold State.updG; split <;> rfl
@[simp] theorem State.updG_poison (gid : Nat) (f : Group → Group) : (s.updG gid f).poison = s.poison := by unfold State.updG; split <;> rfl
@[simp] theorem State.updG_cover (gid : Nat) (f : Group → Group) : (s.updG gid f).cover = s.cover := by unfold State.updG; split <;> rfl
@[simp] theorem State.updG_l1 (gid : Nat) (f : Group → Group) : (s.updG gid f).l1 = s.l1 := by unfold State.updG; split <;> rfl
@[simp] theorem State.updG_tlb (gid : Nat) (f : Group → Group) : (s.updG gid f).tlb = s.tlb := by unfold State.updG; split <;> rfl
@[simp] theorem State.updG_leases (gid : Nat) (f : Group → Group) : (s.updG gid f).leases = s.leases := by unfold State.updG; split <;> rfl
@[simp] theorem State.updG_floors (gid : Nat) (f : Group → Group) : (s.updG gid f).floors = s.floors := by unfold State.updG; split <;> rfl
@[simp] theorem State.updG_kr (gid : Nat) (f : Group → Group) : (s.updG gid f).kr = s.kr := by unfold State.updG; split <;> rfl
@[simp] theorem State.updG_incs (gid : Nat) (f : Group → Group) : (s.updG gid f).incs = s.incs := by unfold State.updG; split <;> rfl
@[simp] theorem State.updG_bcasts (gid : Nat) (f : Group → Group) : (s.updG gid f).bcasts = s.bcasts := by unfold State.updG; split <;> rfl
@[simp] theorem State.updG_twins (gid : Nat) (f : Group → Group) : (s.updG gid f).twins = s.twins := by unfold State.updG; split <;> rfl
@[simp] theorem State.updG_works (gid : Nat) (f : Group → Group) : (s.updG gid f).works = s.works := by unfold State.updG; split <;> rfl
@[simp] theorem State.updG_backInv (gid : Nat) (f : Group → Group) : (s.updG gid f).backInv = s.backInv := by unfold State.updG; split <;> rfl
@[simp] theorem State.updG_hostLines (gid : Nat) (f : Group → Group) : (s.updG gid f).hostLines = s.hostLines := by unfold State.updG; split <;> rfl
@[simp] theorem State.updG_waits (gid : Nat) (f : Group → Group) : (s.updG gid f).waits = s.waits := by unfold State.updG; split <;> rfl
@[simp] theorem State.updG_pins (gid : Nat) (f : Group → Group) : (s.updG gid f).pins = s.pins := by unfold State.updG; split <;> rfl
@[simp] theorem State.updG_streams (gid : Nat) (f : Group → Group) : (s.updG gid f).streams = s.streams := by unfold State.updG; split <;> rfl
@[simp] theorem State.updG_launches (gid : Nat) (f : Group → Group) : (s.updG gid f).launches = s.launches := by unfold State.updG; split <;> rfl
@[simp] theorem State.updG_dist (gid : Nat) (f : Group → Group) : (s.updG gid f).dist = s.dist := by unfold State.updG; split <;> rfl
@[simp] theorem State.updG_parts (gid : Nat) (f : Group → Group) : (s.updG gid f).parts = s.parts := by unfold State.updG; split <;> rfl
@[simp] theorem State.updG_cmdDone (gid : Nat) (f : Group → Group) : (s.updG gid f).cmdDone = s.cmdDone := by unfold State.updG; split <;> rfl
@[simp] theorem State.updG_cmdHeld (gid : Nat) (f : Group → Group) : (s.updG gid f).cmdHeld = s.cmdHeld := by unfold State.updG; split <;> rfl
@[simp] theorem State.updG_ctxs (gid : Nat) (f : Group → Group) : (s.updG gid f).ctxs = s.ctxs := by unfold State.updG; split <;> rfl
@[simp] theorem State.updG_images (gid : Nat) (f : Group → Group) : (s.updG gid f).images = s.images := by unfold State.updG; split <;> rfl
@[simp] theorem State.updG_saved (gid : Nat) (f : Group → Group) : (s.updG gid f).saved = s.saved := by unfold State.updG; split <;> rfl
@[simp] theorem State.updG_migOut (gid : Nat) (f : Group → Group) : (s.updG gid f).migOut = s.migOut := by unfold State.updG; split <;> rfl
@[simp] theorem State.updG_migIn (gid : Nat) (f : Group → Group) : (s.updG gid f).migIn = s.migIn := by unfold State.updG; split <;> rfl
@[simp] theorem State.updG_migLoad (gid : Nat) (f : Group → Group) : (s.updG gid f).migLoad = s.migLoad := by unfold State.updG; split <;> rfl
@[simp] theorem State.updG_shoot (gid : Nat) (f : Group → Group) : (s.updG gid f).shoot = s.shoot := by unfold State.updG; split <;> rfl
@[simp] theorem State.updG_shootDone (gid : Nat) (f : Group → Group) : (s.updG gid f).shootDone = s.shootDone := by unfold State.updG; split <;> rfl
@[simp] theorem State.updG_shootHeld (gid : Nat) (f : Group → Group) : (s.updG gid f).shootHeld = s.shootHeld := by unfold State.updG; split <;> rfl
@[simp] theorem State.updG_requantStatus (gid : Nat) (f : Group → Group) : (s.updG gid f).requantStatus = s.requantStatus := by unfold State.updG; split <;> rfl
@[simp] theorem State.updG_ports (gid : Nat) (f : Group → Group) : (s.updG gid f).ports = s.ports := by unfold State.updG; split <;> rfl
@[simp] theorem State.updG_loch (gid : Nat) (f : Group → Group) : (s.updG gid f).loch = s.loch := by unfold State.updG; split <;> rfl
@[simp] theorem State.updG_peers (gid : Nat) (f : Group → Group) : (s.updG gid f).peers = s.peers := by unfold State.updG; split <;> rfl
@[simp] theorem State.updG_remote (gid : Nat) (f : Group → Group) : (s.updG gid f).remote = s.remote := by unfold State.updG; split <;> rfl
@[simp] theorem State.updG_remTlb (gid : Nat) (f : Group → Group) : (s.updG gid f).remTlb = s.remTlb := by unfold State.updG; split <;> rfl
@[simp] theorem State.updG_acks (gid : Nat) (f : Group → Group) : (s.updG gid f).acks = s.acks := by unfold State.updG; split <;> rfl
@[simp] theorem State.updG_asked (gid : Nat) (f : Group → Group) : (s.updG gid f).asked = s.asked := by unfold State.updG; split <;> rfl
@[simp] theorem State.updG_regs (gid : Nat) (f : Group → Group) : (s.updG gid f).regs = s.regs := by unfold State.updG; split <;> rfl
@[simp] theorem State.updG_posted (gid : Nat) (f : Group → Group) : (s.updG gid f).posted = s.posted := by unfold State.updG; split <;> rfl
@[simp] theorem State.updG_ibmir (gid : Nat) (f : Group → Group) : (s.updG gid f).ibmir = s.ibmir := by unfold State.updG; split <;> rfl
@[simp] theorem State.updG_attached (gid : Nat) (f : Group → Group) : (s.updG gid f).attached = s.attached := by unfold State.updG; split <;> rfl

@[simp] theorem State.updH_chipTime (hid : Nat) (f : Half → Half) : (s.updH hid f).chipTime = s.chipTime := by unfold State.updH; split <;> rfl
@[simp] theorem State.updH_stamp (hid : Nat) (f : Half → Half) : (s.updH hid f).stamp = s.stamp := by unfold State.updH; split <;> rfl
@[simp] theorem State.updH_agenda (hid : Nat) (f : Half → Half) : (s.updH hid f).agenda = s.agenda := by unfold State.updH; split <;> rfl
@[simp] theorem State.updH_cur (hid : Nat) (f : Half → Half) : (s.updH hid f).cur = s.cur := by unfold State.updH; split <;> rfl
@[simp] theorem State.updH_outbox (hid : Nat) (f : Half → Half) : (s.updH hid f).outbox = s.outbox := by unfold State.updH; split <;> rfl
@[simp] theorem State.updH_nextId (hid : Nat) (f : Half → Half) : (s.updH hid f).nextId = s.nextId := by unfold State.updH; split <;> rfl
@[simp] theorem State.updH_groups (hid : Nat) (f : Half → Half) : (s.updH hid f).groups = s.groups := by unfold State.updH; split <;> rfl
@[simp] theorem State.updH_last (hid : Nat) (f : Half → Half) : (s.updH hid f).last = s.last := by unfold State.updH; split <;> rfl
@[simp] theorem State.updH_grow (hid : Nat) (f : Half → Half) : (s.updH hid f).grow = s.grow := by unfold State.updH; split <;> rfl
@[simp] theorem State.updH_growTime (hid : Nat) (f : Half → Half) : (s.updH hid f).growTime = s.growTime := by unfold State.updH; split <;> rfl
@[simp] theorem State.updH_arrivals (hid : Nat) (f : Half → Half) : (s.updH hid f).arrivals = s.arrivals := by unfold State.updH; split <;> rfl
@[simp] theorem State.updH_roles (hid : Nat) (f : Half → Half) : (s.updH hid f).roles = s.roles := by unfold State.updH; split <;> rfl
@[simp] theorem State.updH_queues (hid : Nat) (f : Half → Half) : (s.updH hid f).queues = s.queues := by unfold State.updH; split <;> rfl
@[simp] theorem State.updH_timed (hid : Nat) (f : Half → Half) : (s.updH hid f).timed = s.timed := by unfold State.updH; split <;> rfl
@[simp] theorem State.updH_visible (hid : Nat) (f : Half → Half) : (s.updH hid f).visible = s.visible := by unfold State.updH; split <;> rfl
@[simp] theorem State.updH_mem (hid : Nat) (f : Half → Half) : (s.updH hid f).mem = s.mem := by unfold State.updH; split <;> rfl
@[simp] theorem State.updH_poison (hid : Nat) (f : Half → Half) : (s.updH hid f).poison = s.poison := by unfold State.updH; split <;> rfl
@[simp] theorem State.updH_cover (hid : Nat) (f : Half → Half) : (s.updH hid f).cover = s.cover := by unfold State.updH; split <;> rfl
@[simp] theorem State.updH_l1 (hid : Nat) (f : Half → Half) : (s.updH hid f).l1 = s.l1 := by unfold State.updH; split <;> rfl
@[simp] theorem State.updH_tlb (hid : Nat) (f : Half → Half) : (s.updH hid f).tlb = s.tlb := by unfold State.updH; split <;> rfl
@[simp] theorem State.updH_leases (hid : Nat) (f : Half → Half) : (s.updH hid f).leases = s.leases := by unfold State.updH; split <;> rfl
@[simp] theorem State.updH_floors (hid : Nat) (f : Half → Half) : (s.updH hid f).floors = s.floors := by unfold State.updH; split <;> rfl
@[simp] theorem State.updH_kr (hid : Nat) (f : Half → Half) : (s.updH hid f).kr = s.kr := by unfold State.updH; split <;> rfl
@[simp] theorem State.updH_incs (hid : Nat) (f : Half → Half) : (s.updH hid f).incs = s.incs := by unfold State.updH; split <;> rfl
@[simp] theorem State.updH_bcasts (hid : Nat) (f : Half → Half) : (s.updH hid f).bcasts = s.bcasts := by unfold State.updH; split <;> rfl
@[simp] theorem State.updH_twins (hid : Nat) (f : Half → Half) : (s.updH hid f).twins = s.twins := by unfold State.updH; split <;> rfl
@[simp] theorem State.updH_works (hid : Nat) (f : Half → Half) : (s.updH hid f).works = s.works := by unfold State.updH; split <;> rfl
@[simp] theorem State.updH_backInv (hid : Nat) (f : Half → Half) : (s.updH hid f).backInv = s.backInv := by unfold State.updH; split <;> rfl
@[simp] theorem State.updH_hostLines (hid : Nat) (f : Half → Half) : (s.updH hid f).hostLines = s.hostLines := by unfold State.updH; split <;> rfl
@[simp] theorem State.updH_waits (hid : Nat) (f : Half → Half) : (s.updH hid f).waits = s.waits := by unfold State.updH; split <;> rfl
@[simp] theorem State.updH_pins (hid : Nat) (f : Half → Half) : (s.updH hid f).pins = s.pins := by unfold State.updH; split <;> rfl
@[simp] theorem State.updH_streams (hid : Nat) (f : Half → Half) : (s.updH hid f).streams = s.streams := by unfold State.updH; split <;> rfl
@[simp] theorem State.updH_launches (hid : Nat) (f : Half → Half) : (s.updH hid f).launches = s.launches := by unfold State.updH; split <;> rfl
@[simp] theorem State.updH_dist (hid : Nat) (f : Half → Half) : (s.updH hid f).dist = s.dist := by unfold State.updH; split <;> rfl
@[simp] theorem State.updH_parts (hid : Nat) (f : Half → Half) : (s.updH hid f).parts = s.parts := by unfold State.updH; split <;> rfl
@[simp] theorem State.updH_cmdDone (hid : Nat) (f : Half → Half) : (s.updH hid f).cmdDone = s.cmdDone := by unfold State.updH; split <;> rfl
@[simp] theorem State.updH_cmdHeld (hid : Nat) (f : Half → Half) : (s.updH hid f).cmdHeld = s.cmdHeld := by unfold State.updH; split <;> rfl
@[simp] theorem State.updH_ctxs (hid : Nat) (f : Half → Half) : (s.updH hid f).ctxs = s.ctxs := by unfold State.updH; split <;> rfl
@[simp] theorem State.updH_images (hid : Nat) (f : Half → Half) : (s.updH hid f).images = s.images := by unfold State.updH; split <;> rfl
@[simp] theorem State.updH_saved (hid : Nat) (f : Half → Half) : (s.updH hid f).saved = s.saved := by unfold State.updH; split <;> rfl
@[simp] theorem State.updH_migOut (hid : Nat) (f : Half → Half) : (s.updH hid f).migOut = s.migOut := by unfold State.updH; split <;> rfl
@[simp] theorem State.updH_migIn (hid : Nat) (f : Half → Half) : (s.updH hid f).migIn = s.migIn := by unfold State.updH; split <;> rfl
@[simp] theorem State.updH_migLoad (hid : Nat) (f : Half → Half) : (s.updH hid f).migLoad = s.migLoad := by unfold State.updH; split <;> rfl
@[simp] theorem State.updH_shoot (hid : Nat) (f : Half → Half) : (s.updH hid f).shoot = s.shoot := by unfold State.updH; split <;> rfl
@[simp] theorem State.updH_shootDone (hid : Nat) (f : Half → Half) : (s.updH hid f).shootDone = s.shootDone := by unfold State.updH; split <;> rfl
@[simp] theorem State.updH_shootHeld (hid : Nat) (f : Half → Half) : (s.updH hid f).shootHeld = s.shootHeld := by unfold State.updH; split <;> rfl
@[simp] theorem State.updH_requantStatus (hid : Nat) (f : Half → Half) : (s.updH hid f).requantStatus = s.requantStatus := by unfold State.updH; split <;> rfl
@[simp] theorem State.updH_ports (hid : Nat) (f : Half → Half) : (s.updH hid f).ports = s.ports := by unfold State.updH; split <;> rfl
@[simp] theorem State.updH_loch (hid : Nat) (f : Half → Half) : (s.updH hid f).loch = s.loch := by unfold State.updH; split <;> rfl
@[simp] theorem State.updH_peers (hid : Nat) (f : Half → Half) : (s.updH hid f).peers = s.peers := by unfold State.updH; split <;> rfl
@[simp] theorem State.updH_remote (hid : Nat) (f : Half → Half) : (s.updH hid f).remote = s.remote := by unfold State.updH; split <;> rfl
@[simp] theorem State.updH_remTlb (hid : Nat) (f : Half → Half) : (s.updH hid f).remTlb = s.remTlb := by unfold State.updH; split <;> rfl
@[simp] theorem State.updH_acks (hid : Nat) (f : Half → Half) : (s.updH hid f).acks = s.acks := by unfold State.updH; split <;> rfl
@[simp] theorem State.updH_asked (hid : Nat) (f : Half → Half) : (s.updH hid f).asked = s.asked := by unfold State.updH; split <;> rfl
@[simp] theorem State.updH_regs (hid : Nat) (f : Half → Half) : (s.updH hid f).regs = s.regs := by unfold State.updH; split <;> rfl
@[simp] theorem State.updH_posted (hid : Nat) (f : Half → Half) : (s.updH hid f).posted = s.posted := by unfold State.updH; split <;> rfl
@[simp] theorem State.updH_ibmir (hid : Nat) (f : Half → Half) : (s.updH hid f).ibmir = s.ibmir := by unfold State.updH; split <;> rfl
@[simp] theorem State.updH_attached (hid : Nat) (f : Half → Half) : (s.updH hid f).attached = s.attached := by unfold State.updH; split <;> rfl

@[simp] theorem State.updC_chipTime (c : Nat) (f : Ctx → Ctx) : (s.updC c f).chipTime = s.chipTime := by unfold State.updC; split <;> rfl
@[simp] theorem State.updC_stamp (c : Nat) (f : Ctx → Ctx) : (s.updC c f).stamp = s.stamp := by unfold State.updC; split <;> rfl
@[simp] theorem State.updC_agenda (c : Nat) (f : Ctx → Ctx) : (s.updC c f).agenda = s.agenda := by unfold State.updC; split <;> rfl
@[simp] theorem State.updC_cur (c : Nat) (f : Ctx → Ctx) : (s.updC c f).cur = s.cur := by unfold State.updC; split <;> rfl
@[simp] theorem State.updC_outbox (c : Nat) (f : Ctx → Ctx) : (s.updC c f).outbox = s.outbox := by unfold State.updC; split <;> rfl
@[simp] theorem State.updC_nextId (c : Nat) (f : Ctx → Ctx) : (s.updC c f).nextId = s.nextId := by unfold State.updC; split <;> rfl
@[simp] theorem State.updC_groups (c : Nat) (f : Ctx → Ctx) : (s.updC c f).groups = s.groups := by unfold State.updC; split <;> rfl
@[simp] theorem State.updC_halves (c : Nat) (f : Ctx → Ctx) : (s.updC c f).halves = s.halves := by unfold State.updC; split <;> rfl
@[simp] theorem State.updC_last (c : Nat) (f : Ctx → Ctx) : (s.updC c f).last = s.last := by unfold State.updC; split <;> rfl
@[simp] theorem State.updC_grow (c : Nat) (f : Ctx → Ctx) : (s.updC c f).grow = s.grow := by unfold State.updC; split <;> rfl
@[simp] theorem State.updC_growTime (c : Nat) (f : Ctx → Ctx) : (s.updC c f).growTime = s.growTime := by unfold State.updC; split <;> rfl
@[simp] theorem State.updC_arrivals (c : Nat) (f : Ctx → Ctx) : (s.updC c f).arrivals = s.arrivals := by unfold State.updC; split <;> rfl
@[simp] theorem State.updC_roles (c : Nat) (f : Ctx → Ctx) : (s.updC c f).roles = s.roles := by unfold State.updC; split <;> rfl
@[simp] theorem State.updC_queues (c : Nat) (f : Ctx → Ctx) : (s.updC c f).queues = s.queues := by unfold State.updC; split <;> rfl
@[simp] theorem State.updC_timed (c : Nat) (f : Ctx → Ctx) : (s.updC c f).timed = s.timed := by unfold State.updC; split <;> rfl
@[simp] theorem State.updC_visible (c : Nat) (f : Ctx → Ctx) : (s.updC c f).visible = s.visible := by unfold State.updC; split <;> rfl
@[simp] theorem State.updC_mem (c : Nat) (f : Ctx → Ctx) : (s.updC c f).mem = s.mem := by unfold State.updC; split <;> rfl
@[simp] theorem State.updC_poison (c : Nat) (f : Ctx → Ctx) : (s.updC c f).poison = s.poison := by unfold State.updC; split <;> rfl
@[simp] theorem State.updC_cover (c : Nat) (f : Ctx → Ctx) : (s.updC c f).cover = s.cover := by unfold State.updC; split <;> rfl
@[simp] theorem State.updC_l1 (c : Nat) (f : Ctx → Ctx) : (s.updC c f).l1 = s.l1 := by unfold State.updC; split <;> rfl
@[simp] theorem State.updC_tlb (c : Nat) (f : Ctx → Ctx) : (s.updC c f).tlb = s.tlb := by unfold State.updC; split <;> rfl
@[simp] theorem State.updC_leases (c : Nat) (f : Ctx → Ctx) : (s.updC c f).leases = s.leases := by unfold State.updC; split <;> rfl
@[simp] theorem State.updC_floors (c : Nat) (f : Ctx → Ctx) : (s.updC c f).floors = s.floors := by unfold State.updC; split <;> rfl
@[simp] theorem State.updC_kr (c : Nat) (f : Ctx → Ctx) : (s.updC c f).kr = s.kr := by unfold State.updC; split <;> rfl
@[simp] theorem State.updC_incs (c : Nat) (f : Ctx → Ctx) : (s.updC c f).incs = s.incs := by unfold State.updC; split <;> rfl
@[simp] theorem State.updC_bcasts (c : Nat) (f : Ctx → Ctx) : (s.updC c f).bcasts = s.bcasts := by unfold State.updC; split <;> rfl
@[simp] theorem State.updC_twins (c : Nat) (f : Ctx → Ctx) : (s.updC c f).twins = s.twins := by unfold State.updC; split <;> rfl
@[simp] theorem State.updC_works (c : Nat) (f : Ctx → Ctx) : (s.updC c f).works = s.works := by unfold State.updC; split <;> rfl
@[simp] theorem State.updC_backInv (c : Nat) (f : Ctx → Ctx) : (s.updC c f).backInv = s.backInv := by unfold State.updC; split <;> rfl
@[simp] theorem State.updC_hostLines (c : Nat) (f : Ctx → Ctx) : (s.updC c f).hostLines = s.hostLines := by unfold State.updC; split <;> rfl
@[simp] theorem State.updC_waits (c : Nat) (f : Ctx → Ctx) : (s.updC c f).waits = s.waits := by unfold State.updC; split <;> rfl
@[simp] theorem State.updC_pins (c : Nat) (f : Ctx → Ctx) : (s.updC c f).pins = s.pins := by unfold State.updC; split <;> rfl
@[simp] theorem State.updC_streams (c : Nat) (f : Ctx → Ctx) : (s.updC c f).streams = s.streams := by unfold State.updC; split <;> rfl
@[simp] theorem State.updC_launches (c : Nat) (f : Ctx → Ctx) : (s.updC c f).launches = s.launches := by unfold State.updC; split <;> rfl
@[simp] theorem State.updC_dist (c : Nat) (f : Ctx → Ctx) : (s.updC c f).dist = s.dist := by unfold State.updC; split <;> rfl
@[simp] theorem State.updC_parts (c : Nat) (f : Ctx → Ctx) : (s.updC c f).parts = s.parts := by unfold State.updC; split <;> rfl
@[simp] theorem State.updC_cmdDone (c : Nat) (f : Ctx → Ctx) : (s.updC c f).cmdDone = s.cmdDone := by unfold State.updC; split <;> rfl
@[simp] theorem State.updC_cmdHeld (c : Nat) (f : Ctx → Ctx) : (s.updC c f).cmdHeld = s.cmdHeld := by unfold State.updC; split <;> rfl
@[simp] theorem State.updC_images (c : Nat) (f : Ctx → Ctx) : (s.updC c f).images = s.images := by unfold State.updC; split <;> rfl
@[simp] theorem State.updC_saved (c : Nat) (f : Ctx → Ctx) : (s.updC c f).saved = s.saved := by unfold State.updC; split <;> rfl
@[simp] theorem State.updC_migOut (c : Nat) (f : Ctx → Ctx) : (s.updC c f).migOut = s.migOut := by unfold State.updC; split <;> rfl
@[simp] theorem State.updC_migIn (c : Nat) (f : Ctx → Ctx) : (s.updC c f).migIn = s.migIn := by unfold State.updC; split <;> rfl
@[simp] theorem State.updC_migLoad (c : Nat) (f : Ctx → Ctx) : (s.updC c f).migLoad = s.migLoad := by unfold State.updC; split <;> rfl
@[simp] theorem State.updC_shoot (c : Nat) (f : Ctx → Ctx) : (s.updC c f).shoot = s.shoot := by unfold State.updC; split <;> rfl
@[simp] theorem State.updC_shootDone (c : Nat) (f : Ctx → Ctx) : (s.updC c f).shootDone = s.shootDone := by unfold State.updC; split <;> rfl
@[simp] theorem State.updC_shootHeld (c : Nat) (f : Ctx → Ctx) : (s.updC c f).shootHeld = s.shootHeld := by unfold State.updC; split <;> rfl
@[simp] theorem State.updC_requantStatus (c : Nat) (f : Ctx → Ctx) : (s.updC c f).requantStatus = s.requantStatus := by unfold State.updC; split <;> rfl
@[simp] theorem State.updC_ports (c : Nat) (f : Ctx → Ctx) : (s.updC c f).ports = s.ports := by unfold State.updC; split <;> rfl
@[simp] theorem State.updC_loch (c : Nat) (f : Ctx → Ctx) : (s.updC c f).loch = s.loch := by unfold State.updC; split <;> rfl
@[simp] theorem State.updC_peers (c : Nat) (f : Ctx → Ctx) : (s.updC c f).peers = s.peers := by unfold State.updC; split <;> rfl
@[simp] theorem State.updC_remote (c : Nat) (f : Ctx → Ctx) : (s.updC c f).remote = s.remote := by unfold State.updC; split <;> rfl
@[simp] theorem State.updC_remTlb (c : Nat) (f : Ctx → Ctx) : (s.updC c f).remTlb = s.remTlb := by unfold State.updC; split <;> rfl
@[simp] theorem State.updC_acks (c : Nat) (f : Ctx → Ctx) : (s.updC c f).acks = s.acks := by unfold State.updC; split <;> rfl
@[simp] theorem State.updC_asked (c : Nat) (f : Ctx → Ctx) : (s.updC c f).asked = s.asked := by unfold State.updC; split <;> rfl
@[simp] theorem State.updC_regs (c : Nat) (f : Ctx → Ctx) : (s.updC c f).regs = s.regs := by unfold State.updC; split <;> rfl
@[simp] theorem State.updC_posted (c : Nat) (f : Ctx → Ctx) : (s.updC c f).posted = s.posted := by unfold State.updC; split <;> rfl
@[simp] theorem State.updC_ibmir (c : Nat) (f : Ctx → Ctx) : (s.updC c f).ibmir = s.ibmir := by unfold State.updC; split <;> rfl
@[simp] theorem State.updC_attached (c : Nat) (f : Ctx → Ctx) : (s.updC c f).attached = s.attached := by unfold State.updC; split <;> rfl

@[simp] theorem State.updS_chipTime (n : Nat) (f : Stream → Stream) : (s.updS n f).chipTime = s.chipTime := by unfold State.updS; split <;> rfl
@[simp] theorem State.updS_stamp (n : Nat) (f : Stream → Stream) : (s.updS n f).stamp = s.stamp := by unfold State.updS; split <;> rfl
@[simp] theorem State.updS_agenda (n : Nat) (f : Stream → Stream) : (s.updS n f).agenda = s.agenda := by unfold State.updS; split <;> rfl
@[simp] theorem State.updS_cur (n : Nat) (f : Stream → Stream) : (s.updS n f).cur = s.cur := by unfold State.updS; split <;> rfl
@[simp] theorem State.updS_outbox (n : Nat) (f : Stream → Stream) : (s.updS n f).outbox = s.outbox := by unfold State.updS; split <;> rfl
@[simp] theorem State.updS_nextId (n : Nat) (f : Stream → Stream) : (s.updS n f).nextId = s.nextId := by unfold State.updS; split <;> rfl
@[simp] theorem State.updS_groups (n : Nat) (f : Stream → Stream) : (s.updS n f).groups = s.groups := by unfold State.updS; split <;> rfl
@[simp] theorem State.updS_halves (n : Nat) (f : Stream → Stream) : (s.updS n f).halves = s.halves := by unfold State.updS; split <;> rfl
@[simp] theorem State.updS_last (n : Nat) (f : Stream → Stream) : (s.updS n f).last = s.last := by unfold State.updS; split <;> rfl
@[simp] theorem State.updS_grow (n : Nat) (f : Stream → Stream) : (s.updS n f).grow = s.grow := by unfold State.updS; split <;> rfl
@[simp] theorem State.updS_growTime (n : Nat) (f : Stream → Stream) : (s.updS n f).growTime = s.growTime := by unfold State.updS; split <;> rfl
@[simp] theorem State.updS_arrivals (n : Nat) (f : Stream → Stream) : (s.updS n f).arrivals = s.arrivals := by unfold State.updS; split <;> rfl
@[simp] theorem State.updS_roles (n : Nat) (f : Stream → Stream) : (s.updS n f).roles = s.roles := by unfold State.updS; split <;> rfl
@[simp] theorem State.updS_queues (n : Nat) (f : Stream → Stream) : (s.updS n f).queues = s.queues := by unfold State.updS; split <;> rfl
@[simp] theorem State.updS_timed (n : Nat) (f : Stream → Stream) : (s.updS n f).timed = s.timed := by unfold State.updS; split <;> rfl
@[simp] theorem State.updS_visible (n : Nat) (f : Stream → Stream) : (s.updS n f).visible = s.visible := by unfold State.updS; split <;> rfl
@[simp] theorem State.updS_mem (n : Nat) (f : Stream → Stream) : (s.updS n f).mem = s.mem := by unfold State.updS; split <;> rfl
@[simp] theorem State.updS_poison (n : Nat) (f : Stream → Stream) : (s.updS n f).poison = s.poison := by unfold State.updS; split <;> rfl
@[simp] theorem State.updS_cover (n : Nat) (f : Stream → Stream) : (s.updS n f).cover = s.cover := by unfold State.updS; split <;> rfl
@[simp] theorem State.updS_l1 (n : Nat) (f : Stream → Stream) : (s.updS n f).l1 = s.l1 := by unfold State.updS; split <;> rfl
@[simp] theorem State.updS_tlb (n : Nat) (f : Stream → Stream) : (s.updS n f).tlb = s.tlb := by unfold State.updS; split <;> rfl
@[simp] theorem State.updS_leases (n : Nat) (f : Stream → Stream) : (s.updS n f).leases = s.leases := by unfold State.updS; split <;> rfl
@[simp] theorem State.updS_floors (n : Nat) (f : Stream → Stream) : (s.updS n f).floors = s.floors := by unfold State.updS; split <;> rfl
@[simp] theorem State.updS_kr (n : Nat) (f : Stream → Stream) : (s.updS n f).kr = s.kr := by unfold State.updS; split <;> rfl
@[simp] theorem State.updS_incs (n : Nat) (f : Stream → Stream) : (s.updS n f).incs = s.incs := by unfold State.updS; split <;> rfl
@[simp] theorem State.updS_bcasts (n : Nat) (f : Stream → Stream) : (s.updS n f).bcasts = s.bcasts := by unfold State.updS; split <;> rfl
@[simp] theorem State.updS_twins (n : Nat) (f : Stream → Stream) : (s.updS n f).twins = s.twins := by unfold State.updS; split <;> rfl
@[simp] theorem State.updS_works (n : Nat) (f : Stream → Stream) : (s.updS n f).works = s.works := by unfold State.updS; split <;> rfl
@[simp] theorem State.updS_backInv (n : Nat) (f : Stream → Stream) : (s.updS n f).backInv = s.backInv := by unfold State.updS; split <;> rfl
@[simp] theorem State.updS_hostLines (n : Nat) (f : Stream → Stream) : (s.updS n f).hostLines = s.hostLines := by unfold State.updS; split <;> rfl
@[simp] theorem State.updS_waits (n : Nat) (f : Stream → Stream) : (s.updS n f).waits = s.waits := by unfold State.updS; split <;> rfl
@[simp] theorem State.updS_pins (n : Nat) (f : Stream → Stream) : (s.updS n f).pins = s.pins := by unfold State.updS; split <;> rfl
@[simp] theorem State.updS_launches (n : Nat) (f : Stream → Stream) : (s.updS n f).launches = s.launches := by unfold State.updS; split <;> rfl
@[simp] theorem State.updS_dist (n : Nat) (f : Stream → Stream) : (s.updS n f).dist = s.dist := by unfold State.updS; split <;> rfl
@[simp] theorem State.updS_parts (n : Nat) (f : Stream → Stream) : (s.updS n f).parts = s.parts := by unfold State.updS; split <;> rfl
@[simp] theorem State.updS_cmdDone (n : Nat) (f : Stream → Stream) : (s.updS n f).cmdDone = s.cmdDone := by unfold State.updS; split <;> rfl
@[simp] theorem State.updS_cmdHeld (n : Nat) (f : Stream → Stream) : (s.updS n f).cmdHeld = s.cmdHeld := by unfold State.updS; split <;> rfl
@[simp] theorem State.updS_ctxs (n : Nat) (f : Stream → Stream) : (s.updS n f).ctxs = s.ctxs := by unfold State.updS; split <;> rfl
@[simp] theorem State.updS_images (n : Nat) (f : Stream → Stream) : (s.updS n f).images = s.images := by unfold State.updS; split <;> rfl
@[simp] theorem State.updS_saved (n : Nat) (f : Stream → Stream) : (s.updS n f).saved = s.saved := by unfold State.updS; split <;> rfl
@[simp] theorem State.updS_migOut (n : Nat) (f : Stream → Stream) : (s.updS n f).migOut = s.migOut := by unfold State.updS; split <;> rfl
@[simp] theorem State.updS_migIn (n : Nat) (f : Stream → Stream) : (s.updS n f).migIn = s.migIn := by unfold State.updS; split <;> rfl
@[simp] theorem State.updS_migLoad (n : Nat) (f : Stream → Stream) : (s.updS n f).migLoad = s.migLoad := by unfold State.updS; split <;> rfl
@[simp] theorem State.updS_shoot (n : Nat) (f : Stream → Stream) : (s.updS n f).shoot = s.shoot := by unfold State.updS; split <;> rfl
@[simp] theorem State.updS_shootDone (n : Nat) (f : Stream → Stream) : (s.updS n f).shootDone = s.shootDone := by unfold State.updS; split <;> rfl
@[simp] theorem State.updS_shootHeld (n : Nat) (f : Stream → Stream) : (s.updS n f).shootHeld = s.shootHeld := by unfold State.updS; split <;> rfl
@[simp] theorem State.updS_requantStatus (n : Nat) (f : Stream → Stream) : (s.updS n f).requantStatus = s.requantStatus := by unfold State.updS; split <;> rfl
@[simp] theorem State.updS_ports (n : Nat) (f : Stream → Stream) : (s.updS n f).ports = s.ports := by unfold State.updS; split <;> rfl
@[simp] theorem State.updS_loch (n : Nat) (f : Stream → Stream) : (s.updS n f).loch = s.loch := by unfold State.updS; split <;> rfl
@[simp] theorem State.updS_peers (n : Nat) (f : Stream → Stream) : (s.updS n f).peers = s.peers := by unfold State.updS; split <;> rfl
@[simp] theorem State.updS_remote (n : Nat) (f : Stream → Stream) : (s.updS n f).remote = s.remote := by unfold State.updS; split <;> rfl
@[simp] theorem State.updS_remTlb (n : Nat) (f : Stream → Stream) : (s.updS n f).remTlb = s.remTlb := by unfold State.updS; split <;> rfl
@[simp] theorem State.updS_acks (n : Nat) (f : Stream → Stream) : (s.updS n f).acks = s.acks := by unfold State.updS; split <;> rfl
@[simp] theorem State.updS_asked (n : Nat) (f : Stream → Stream) : (s.updS n f).asked = s.asked := by unfold State.updS; split <;> rfl
@[simp] theorem State.updS_regs (n : Nat) (f : Stream → Stream) : (s.updS n f).regs = s.regs := by unfold State.updS; split <;> rfl
@[simp] theorem State.updS_posted (n : Nat) (f : Stream → Stream) : (s.updS n f).posted = s.posted := by unfold State.updS; split <;> rfl
@[simp] theorem State.updS_ibmir (n : Nat) (f : Stream → Stream) : (s.updS n f).ibmir = s.ibmir := by unfold State.updS; split <;> rfl
@[simp] theorem State.updS_attached (n : Nat) (f : Stream → Stream) : (s.updS n f).attached = s.attached := by unfold State.updS; split <;> rfl

@[simp] theorem State.updL_chipTime (l : Nat) (f : Launch → Launch) : (s.updL l f).chipTime = s.chipTime := by unfold State.updL; split <;> rfl
@[simp] theorem State.updL_stamp (l : Nat) (f : Launch → Launch) : (s.updL l f).stamp = s.stamp := by unfold State.updL; split <;> rfl
@[simp] theorem State.updL_agenda (l : Nat) (f : Launch → Launch) : (s.updL l f).agenda = s.agenda := by unfold State.updL; split <;> rfl
@[simp] theorem State.updL_cur (l : Nat) (f : Launch → Launch) : (s.updL l f).cur = s.cur := by unfold State.updL; split <;> rfl
@[simp] theorem State.updL_outbox (l : Nat) (f : Launch → Launch) : (s.updL l f).outbox = s.outbox := by unfold State.updL; split <;> rfl
@[simp] theorem State.updL_nextId (l : Nat) (f : Launch → Launch) : (s.updL l f).nextId = s.nextId := by unfold State.updL; split <;> rfl
@[simp] theorem State.updL_groups (l : Nat) (f : Launch → Launch) : (s.updL l f).groups = s.groups := by unfold State.updL; split <;> rfl
@[simp] theorem State.updL_halves (l : Nat) (f : Launch → Launch) : (s.updL l f).halves = s.halves := by unfold State.updL; split <;> rfl
@[simp] theorem State.updL_last (l : Nat) (f : Launch → Launch) : (s.updL l f).last = s.last := by unfold State.updL; split <;> rfl
@[simp] theorem State.updL_grow (l : Nat) (f : Launch → Launch) : (s.updL l f).grow = s.grow := by unfold State.updL; split <;> rfl
@[simp] theorem State.updL_growTime (l : Nat) (f : Launch → Launch) : (s.updL l f).growTime = s.growTime := by unfold State.updL; split <;> rfl
@[simp] theorem State.updL_arrivals (l : Nat) (f : Launch → Launch) : (s.updL l f).arrivals = s.arrivals := by unfold State.updL; split <;> rfl
@[simp] theorem State.updL_roles (l : Nat) (f : Launch → Launch) : (s.updL l f).roles = s.roles := by unfold State.updL; split <;> rfl
@[simp] theorem State.updL_queues (l : Nat) (f : Launch → Launch) : (s.updL l f).queues = s.queues := by unfold State.updL; split <;> rfl
@[simp] theorem State.updL_timed (l : Nat) (f : Launch → Launch) : (s.updL l f).timed = s.timed := by unfold State.updL; split <;> rfl
@[simp] theorem State.updL_visible (l : Nat) (f : Launch → Launch) : (s.updL l f).visible = s.visible := by unfold State.updL; split <;> rfl
@[simp] theorem State.updL_mem (l : Nat) (f : Launch → Launch) : (s.updL l f).mem = s.mem := by unfold State.updL; split <;> rfl
@[simp] theorem State.updL_poison (l : Nat) (f : Launch → Launch) : (s.updL l f).poison = s.poison := by unfold State.updL; split <;> rfl
@[simp] theorem State.updL_cover (l : Nat) (f : Launch → Launch) : (s.updL l f).cover = s.cover := by unfold State.updL; split <;> rfl
@[simp] theorem State.updL_l1 (l : Nat) (f : Launch → Launch) : (s.updL l f).l1 = s.l1 := by unfold State.updL; split <;> rfl
@[simp] theorem State.updL_tlb (l : Nat) (f : Launch → Launch) : (s.updL l f).tlb = s.tlb := by unfold State.updL; split <;> rfl
@[simp] theorem State.updL_leases (l : Nat) (f : Launch → Launch) : (s.updL l f).leases = s.leases := by unfold State.updL; split <;> rfl
@[simp] theorem State.updL_floors (l : Nat) (f : Launch → Launch) : (s.updL l f).floors = s.floors := by unfold State.updL; split <;> rfl
@[simp] theorem State.updL_kr (l : Nat) (f : Launch → Launch) : (s.updL l f).kr = s.kr := by unfold State.updL; split <;> rfl
@[simp] theorem State.updL_incs (l : Nat) (f : Launch → Launch) : (s.updL l f).incs = s.incs := by unfold State.updL; split <;> rfl
@[simp] theorem State.updL_bcasts (l : Nat) (f : Launch → Launch) : (s.updL l f).bcasts = s.bcasts := by unfold State.updL; split <;> rfl
@[simp] theorem State.updL_twins (l : Nat) (f : Launch → Launch) : (s.updL l f).twins = s.twins := by unfold State.updL; split <;> rfl
@[simp] theorem State.updL_works (l : Nat) (f : Launch → Launch) : (s.updL l f).works = s.works := by unfold State.updL; split <;> rfl
@[simp] theorem State.updL_backInv (l : Nat) (f : Launch → Launch) : (s.updL l f).backInv = s.backInv := by unfold State.updL; split <;> rfl
@[simp] theorem State.updL_hostLines (l : Nat) (f : Launch → Launch) : (s.updL l f).hostLines = s.hostLines := by unfold State.updL; split <;> rfl
@[simp] theorem State.updL_waits (l : Nat) (f : Launch → Launch) : (s.updL l f).waits = s.waits := by unfold State.updL; split <;> rfl
@[simp] theorem State.updL_pins (l : Nat) (f : Launch → Launch) : (s.updL l f).pins = s.pins := by unfold State.updL; split <;> rfl
@[simp] theorem State.updL_streams (l : Nat) (f : Launch → Launch) : (s.updL l f).streams = s.streams := by unfold State.updL; split <;> rfl
@[simp] theorem State.updL_dist (l : Nat) (f : Launch → Launch) : (s.updL l f).dist = s.dist := by unfold State.updL; split <;> rfl
@[simp] theorem State.updL_parts (l : Nat) (f : Launch → Launch) : (s.updL l f).parts = s.parts := by unfold State.updL; split <;> rfl
@[simp] theorem State.updL_cmdDone (l : Nat) (f : Launch → Launch) : (s.updL l f).cmdDone = s.cmdDone := by unfold State.updL; split <;> rfl
@[simp] theorem State.updL_cmdHeld (l : Nat) (f : Launch → Launch) : (s.updL l f).cmdHeld = s.cmdHeld := by unfold State.updL; split <;> rfl
@[simp] theorem State.updL_ctxs (l : Nat) (f : Launch → Launch) : (s.updL l f).ctxs = s.ctxs := by unfold State.updL; split <;> rfl
@[simp] theorem State.updL_images (l : Nat) (f : Launch → Launch) : (s.updL l f).images = s.images := by unfold State.updL; split <;> rfl
@[simp] theorem State.updL_saved (l : Nat) (f : Launch → Launch) : (s.updL l f).saved = s.saved := by unfold State.updL; split <;> rfl
@[simp] theorem State.updL_migOut (l : Nat) (f : Launch → Launch) : (s.updL l f).migOut = s.migOut := by unfold State.updL; split <;> rfl
@[simp] theorem State.updL_migIn (l : Nat) (f : Launch → Launch) : (s.updL l f).migIn = s.migIn := by unfold State.updL; split <;> rfl
@[simp] theorem State.updL_migLoad (l : Nat) (f : Launch → Launch) : (s.updL l f).migLoad = s.migLoad := by unfold State.updL; split <;> rfl
@[simp] theorem State.updL_shoot (l : Nat) (f : Launch → Launch) : (s.updL l f).shoot = s.shoot := by unfold State.updL; split <;> rfl
@[simp] theorem State.updL_shootDone (l : Nat) (f : Launch → Launch) : (s.updL l f).shootDone = s.shootDone := by unfold State.updL; split <;> rfl
@[simp] theorem State.updL_shootHeld (l : Nat) (f : Launch → Launch) : (s.updL l f).shootHeld = s.shootHeld := by unfold State.updL; split <;> rfl
@[simp] theorem State.updL_requantStatus (l : Nat) (f : Launch → Launch) : (s.updL l f).requantStatus = s.requantStatus := by unfold State.updL; split <;> rfl
@[simp] theorem State.updL_ports (l : Nat) (f : Launch → Launch) : (s.updL l f).ports = s.ports := by unfold State.updL; split <;> rfl
@[simp] theorem State.updL_loch (l : Nat) (f : Launch → Launch) : (s.updL l f).loch = s.loch := by unfold State.updL; split <;> rfl
@[simp] theorem State.updL_peers (l : Nat) (f : Launch → Launch) : (s.updL l f).peers = s.peers := by unfold State.updL; split <;> rfl
@[simp] theorem State.updL_remote (l : Nat) (f : Launch → Launch) : (s.updL l f).remote = s.remote := by unfold State.updL; split <;> rfl
@[simp] theorem State.updL_remTlb (l : Nat) (f : Launch → Launch) : (s.updL l f).remTlb = s.remTlb := by unfold State.updL; split <;> rfl
@[simp] theorem State.updL_acks (l : Nat) (f : Launch → Launch) : (s.updL l f).acks = s.acks := by unfold State.updL; split <;> rfl
@[simp] theorem State.updL_asked (l : Nat) (f : Launch → Launch) : (s.updL l f).asked = s.asked := by unfold State.updL; split <;> rfl
@[simp] theorem State.updL_regs (l : Nat) (f : Launch → Launch) : (s.updL l f).regs = s.regs := by unfold State.updL; split <;> rfl
@[simp] theorem State.updL_posted (l : Nat) (f : Launch → Launch) : (s.updL l f).posted = s.posted := by unfold State.updL; split <;> rfl
@[simp] theorem State.updL_ibmir (l : Nat) (f : Launch → Launch) : (s.updL l f).ibmir = s.ibmir := by unfold State.updL; split <;> rfl
@[simp] theorem State.updL_attached (l : Nat) (f : Launch → Launch) : (s.updL l f).attached = s.attached := by unfold State.updL; split <;> rfl

/-- The table after `updG` where the record exists. -/
theorem State.updG_eq (gid : Nat) (f : Group → Group) {x : Group} (h : KMap.look s.groups gid = some x) :
    s.updG gid f = { s with groups := KMap.put s.groups gid (f x) } := by
  unfold State.updG; rw [h]

/-- `updG` of a record that does not exist does nothing. -/
theorem State.updG_none (gid : Nat) (f : Group → Group) (h : KMap.look s.groups gid = none) : s.updG gid f = s := by
  unfold State.updG; rw [h]

/-- The table after `updH` where the record exists. -/
theorem State.updH_eq (hid : Nat) (f : Half → Half) {x : Half} (h : KMap.look s.halves hid = some x) :
    s.updH hid f = { s with halves := KMap.put s.halves hid (f x) } := by
  unfold State.updH; rw [h]

/-- `updH` of a record that does not exist does nothing. -/
theorem State.updH_none (hid : Nat) (f : Half → Half) (h : KMap.look s.halves hid = none) : s.updH hid f = s := by
  unfold State.updH; rw [h]

/-- The table after `updC` where the record exists. -/
theorem State.updC_eq (c : Nat) (f : Ctx → Ctx) {x : Ctx} (h : KMap.look s.ctxs c = some x) :
    s.updC c f = { s with ctxs := KMap.put s.ctxs c (f x) } := by
  unfold State.updC; rw [h]

/-- `updC` of a record that does not exist does nothing. -/
theorem State.updC_none (c : Nat) (f : Ctx → Ctx) (h : KMap.look s.ctxs c = none) : s.updC c f = s := by
  unfold State.updC; rw [h]

/-- The table after `updS` where the record exists. -/
theorem State.updS_eq (n : Nat) (f : Stream → Stream) {x : Stream} (h : KMap.look s.streams n = some x) :
    s.updS n f = { s with streams := KMap.put s.streams n (f x) } := by
  unfold State.updS; rw [h]

/-- `updS` of a record that does not exist does nothing. -/
theorem State.updS_none (n : Nat) (f : Stream → Stream) (h : KMap.look s.streams n = none) : s.updS n f = s := by
  unfold State.updS; rw [h]

/-- The table after `updL` where the record exists. -/
theorem State.updL_eq (l : Nat) (f : Launch → Launch) {x : Launch} (h : KMap.look s.launches l = some x) :
    s.updL l f = { s with launches := KMap.put s.launches l (f x) } := by
  unfold State.updL; rw [h]

/-- `updL` of a record that does not exist does nothing. -/
theorem State.updL_none (l : Nat) (f : Launch → Launch) (h : KMap.look s.launches l = none) : s.updL l f = s := by
  unfold State.updL; rw [h]

end Sys2Proof.Machine
end

