-- ==== Sys2Proof/Laws/Tables.lean ====
section
/-! SUPPORT. Laws/Tables.lean: reads after writes of `KMap` and `Regs`, and that every operation on memory keeps its
canonical form. -/
namespace Sys2Proof

/-- Every key of the table is above `k`. -/
def KMap.above {β : Type} (k : Nat) (m : KMap β) : Prop := ∀ e ∈ m, k < e.1

theorem KMap.look_put_same {β : Type} (m : KMap β) (k : Nat) (b : β) : KMap.look (KMap.put m k b) k = some b := by
  induction m with
  | nil => simp [KMap.put, KMap.look]
  | cons e t ih =>
    obtain ⟨k', b'⟩ := e
    unfold KMap.put
    split
    · simp [KMap.look]
    · split
      · simp [KMap.look]
      · rename_i h1 h2
        simp only [KMap.look, h2, if_false, ih]

theorem KMap.look_put_ne {β : Type} (m : KMap β) {k j : Nat} (b : β) (h : j ≠ k) :
    KMap.look (KMap.put m k b) j = KMap.look m j := by
  induction m with
  | nil => simp [KMap.put, KMap.look, h]
  | cons e t ih =>
    obtain ⟨k', b'⟩ := e
    unfold KMap.put
    split
    · simp [KMap.look, h]
    · split
      · rename_i h1 h2
        subst h2
        simp [KMap.look, h]
      · simp only [KMap.look, ih]

theorem KMap.look_del_same {β : Type} (m : KMap β) (k : Nat) : KMap.look (KMap.del m k) k = none := by
  induction m with
  | nil => rfl
  | cons e t ih =>
    obtain ⟨k', b'⟩ := e
    unfold KMap.del
    split
    · exact ih
    · rename_i h
      simp only [KMap.look, h, if_false, ih]

theorem KMap.look_del_ne {β : Type} (m : KMap β) {k j : Nat} (h : j ≠ k) :
    KMap.look (KMap.del m k) j = KMap.look m j := by
  induction m with
  | nil => rfl
  | cons e t ih =>
    obtain ⟨k', b'⟩ := e
    unfold KMap.del
    split
    · rename_i h1
      subst h1
      simp [KMap.look, h, ih]
    · simp only [KMap.look, ih]

theorem KMap.sorted_cons {β : Type} (e : Nat × β) (t : KMap β) :
    KMap.sorted (e :: t) = true ↔ KMap.above e.1 t ∧ KMap.sorted t = true := by
  induction t generalizing e with
  | nil => simp [KMap.sorted, KMap.above]
  | cons e2 t ih =>
    simp only [KMap.sorted, Bool.and_eq_true, decide_eq_true_eq, KMap.above, List.forall_mem_cons]
    constructor
    · rintro ⟨h, hs⟩
      have h2 := (ih e2).1 hs
      exact ⟨⟨h, fun x hx => Nat.lt_trans h (h2.1 x hx)⟩, hs⟩
    · rintro ⟨⟨h, _⟩, hs⟩
      exact ⟨h, hs⟩

theorem KMap.mem_put {β : Type} (m : KMap β) (k : Nat) (b : β) (e : Nat × β) (h : e ∈ KMap.put m k b) :
    e = (k, b) ∨ e ∈ m := by
  induction m with
  | nil => simp [KMap.put] at h; exact .inl h
  | cons e' t ih =>
    obtain ⟨k', b'⟩ := e'
    unfold KMap.put at h
    split at h
    · exact List.mem_cons.1 h
    · split at h
      · rcases List.mem_cons.1 h with h | h
        · exact .inl h
        · exact .inr (List.mem_cons_of_mem _ h)
      · rcases List.mem_cons.1 h with h | h
        · exact .inr (h ▸ List.mem_cons_self)
        · rcases ih h with h | h
          · exact .inl h
          · exact .inr (List.mem_cons_of_mem _ h)

theorem KMap.sorted_put {β : Type} (m : KMap β) (k : Nat) (b : β) (h : KMap.sorted m = true) :
    KMap.sorted (KMap.put m k b) = true := by
  induction m with
  | nil => rfl
  | cons e t ih =>
    obtain ⟨k', b'⟩ := e
    have hc := (KMap.sorted_cons _ _).1 h
    unfold KMap.put
    split
    · rename_i h1
      refine (KMap.sorted_cons _ _).2 ⟨?_, h⟩
      intro e he
      rcases List.mem_cons.1 he with he | he
      · rw [he]; exact h1
      · exact Nat.lt_trans h1 (hc.1 e he)
    · split
      · rename_i h1 h2
        subst h2
        exact (KMap.sorted_cons _ _).2 ⟨hc.1, hc.2⟩
      · rename_i h1 h2
        refine (KMap.sorted_cons _ _).2 ⟨?_, ih hc.2⟩
        intro e he
        rcases KMap.mem_put t k b e he with he | he
        · rw [he]; show k' < k; omega
        · exact hc.1 e he

theorem KMap.mem_del {β : Type} (m : KMap β) (k : Nat) (e : Nat × β) (h : e ∈ KMap.del m k) : e ∈ m := by
  induction m with
  | nil => exact h
  | cons e' t ih =>
    obtain ⟨k', b'⟩ := e'
    unfold KMap.del at h
    split at h
    · exact List.mem_cons_of_mem _ (ih h)
    · rcases List.mem_cons.1 h with h | h
      · simp [h]
      · exact List.mem_cons_of_mem _ (ih h)

theorem KMap.sorted_del {β : Type} (m : KMap β) (k : Nat) (h : KMap.sorted m = true) :
    KMap.sorted (KMap.del m k) = true := by
  induction m with
  | nil => rfl
  | cons e t ih =>
    obtain ⟨k', b'⟩ := e
    have hc := (KMap.sorted_cons _ _).1 h
    unfold KMap.del
    split
    · exact ih hc.2
    · exact (KMap.sorted_cons _ _).2 ⟨fun e he => hc.1 e (KMap.mem_del t k e he), ih hc.2⟩

theorem KMap.sorted_filter {β : Type} (p : Nat × β → Bool) (m : KMap β) (h : KMap.sorted m = true) :
    KMap.sorted (m.filter p) = true := by
  induction m with
  | nil => rfl
  | cons e t ih =>
    have hc := (KMap.sorted_cons _ _).1 h
    rw [List.filter_cons]
    split
    · exact (KMap.sorted_cons _ _).2 ⟨fun x hx => hc.1 x (List.mem_filter.1 hx).1, ih hc.2⟩
    · exact ih hc.2

/-! ### Register files and memory -/

theorem Regs.get_set_same {w : Nat} (m : Regs w) (k : Nat) (v : BitVec w) : (Regs.set m k v).get k = v := by
  unfold Regs.set Regs.get
  split
  · rename_i h
    rw [KMap.look_del_same, h]; rfl
  · rw [KMap.look_put_same]; rfl

theorem Regs.get_set_ne {w : Nat} (m : Regs w) {k j : Nat} (v : BitVec w) (h : j ≠ k) :
    (Regs.set m k v).get j = Regs.get m j := by
  unfold Regs.set Regs.get
  split
  · rw [KMap.look_del_ne m h]
  · rw [KMap.look_put_ne m v h]

theorem Regs.get_set {w : Nat} (m : Regs w) (k j : Nat) (v : BitVec w) :
    (Regs.set m k v).get j = if j = k then v else Regs.get m j := by
  split
  · rename_i h; subst h; exact Regs.get_set_same m _ v
  · rename_i h; exact Regs.get_set_ne m v h

theorem Regs.wf_set {w : Nat} (m : Regs w) (k : Nat) (v : BitVec w) (h : Regs.wf m = true) :
    Regs.wf (Regs.set m k v) = true := by
  unfold Regs.wf at h ⊢
  simp only [Bool.and_eq_true, List.all_eq_true, bne_iff_ne] at h ⊢
  unfold Regs.set
  split
  · exact ⟨KMap.sorted_del m k h.1, fun e he => h.2 e (KMap.mem_del m k e he)⟩
  · rename_i hv
    refine ⟨KMap.sorted_put m k v h.1, fun e he => ?_⟩
    rcases KMap.mem_put m k v e he with he | he
    · rw [he]; exact hv
    · exact h.2 e he

theorem Regs.wf_setSlice {w : Nat} (l : List (BitVec w)) (m : Regs w) (k : Nat) (h : Regs.wf m = true) :
    Regs.wf (Regs.setSlice m k l) = true := by
  induction l generalizing m k with
  | nil => exact h
  | cons v t ih => exact ih _ _ (Regs.wf_set m k v h)

theorem Regs.wf_filter {w : Nat} (p : Nat × BitVec w → Bool) (m : Regs w) (h : Regs.wf m = true) :
    Regs.wf (m.filter p) = true := by
  unfold Regs.wf at h ⊢
  simp only [Bool.and_eq_true, List.all_eq_true, bne_iff_ne] at h ⊢
  exact ⟨KMap.sorted_filter p m h.1, fun e he => h.2 e (List.mem_filter.1 he).1⟩

theorem Regs.get_setSlice_out {w : Nat} (l : List (BitVec w)) (m : Regs w) (k j : Nat) (h : j < k ∨ k + l.length ≤ j) :
    (Regs.setSlice m k l).get j = Regs.get m j := by
  induction l generalizing m k with
  | nil => rfl
  | cons v t ih =>
    simp only [List.length_cons] at h
    unfold Regs.setSlice
    rw [ih _ _ (by omega), Regs.get_set_ne m v (by omega)]

theorem Regs.get_setSlice_in {w : Nat} (l : List (BitVec w)) (m : Regs w) (k i : Nat) (h : i < l.length) :
    (Regs.setSlice m k l).get (k + i) = l[i] := by
  induction l generalizing m k i with
  | nil => simp at h
  | cons v t ih =>
    unfold Regs.setSlice
    cases i with
    | zero =>
      rw [Regs.get_setSlice_out _ _ _ _ (by omega)]
      simpa using Regs.get_set_same m k v
    | succ i =>
      have := ih (Regs.set m k v) (k + 1) i (by simpa using h)
      rw [show k + (i + 1) = k + 1 + i by omega]
      simpa using this

end Sys2Proof

namespace Sys2Proof.Machine

/-- A write at its home keeps the canonical form of memory. -/
theorem State.homeWrite_wf (s : State) (core : Option Nat) (pa : Nat) (bytes : List Byte)
    (h : Memory.wf s.mem = true) : Memory.wf (s.homeWrite core pa bytes).mem = true := Regs.wf_setSlice bytes s.mem pa h

/-- Entries written one after another keep the canonical form. -/
theorem Regs.wf_foldl {w : Nat} (l : List Nat) (f : Nat → Nat) (v : Nat → BitVec w) (m : Regs w) (h : Regs.wf m = true) :
    Regs.wf (l.foldl (fun m k => Regs.set m (f k) (v k)) m) = true := by
  induction l generalizing m with
  | nil => exact h
  | cons k ks ih => exact ih _ (Regs.wf_set m _ _ h)

/-- A mark changes no byte. -/
@[simp] theorem State.mark_mem (s : State) (ls : List Nat) : (s.mark ls).mem = s.mem := rfl

/-- A merge keeps the canonical form of memory. -/
theorem State.merge_wf (s : State) (blk : Nat) (copy : Regs 8) (bad : List Nat) (h : Memory.wf s.mem = true) :
    Memory.wf (s.merge blk copy bad).2.mem = true := by
  unfold State.merge
  split
  · exact h
  · dsimp only
    rw [State.mark_mem]
    dsimp only
    generalize List.filter _ _ = ch
    exact Regs.wf_foldl ch (fun k => blk * 4096 + k) (fun k => Regs.get copy k) s.mem h

/-- Reset memory is canonical. -/
theorem State.reset_mem_wf : Memory.wf State.reset.mem = true := rfl

/-- The memory a cold reset leaves is canonical: what it drops is the device's. -/
theorem coldReset_mem_wf (m : Regs 8) (h : Memory.wf m = true) :
    Memory.wf (m.filter (fun e => !isDevice e.1)) = true := Regs.wf_filter _ m h

end Sys2Proof.Machine
end

