-- ==== Sys2Proof/Laws/Lanes.lean ====
section
/-! SUPPORT. Laws/Lanes.lean: what register writes of a group change and leave alone, and what the frame of a lane
instruction answers once its effect is known. -/
namespace Sys2Proof.Machine

/-! ### Register writes -/

/-- A register write changes the five register files only. -/
theorem Group.wr_shape (g : Group) (key : Nat) (x : DWord) : ∃ v' g' k' b' f',
    g.wr key x = { g with v := v', g := g', k := k', bx := b', fx := f' } := by
  unfold Group.wr
  by_cases h1 : key < 20000
  · rw [if_pos h1]; exact ⟨_, _, _, _, _, rfl⟩
  rw [if_neg h1]
  by_cases h2 : key < 30000
  · rw [if_pos h2]; exact ⟨_, _, _, _, _, rfl⟩
  rw [if_neg h2]
  by_cases h3 : key < 40000
  · rw [if_pos h3]
    dsimp only
    generalize (key - 30000) % 64 = i
    generalize (key - 30000) / 64 = r
    by_cases h4 : i < g.width
    · rw [if_pos h4]; exact ⟨_, _, _, _, _, rfl⟩
    · rw [if_neg h4]; exact ⟨_, _, _, _, _, rfl⟩
  rw [if_neg h3]
  by_cases h5 : key < 50000
  · rw [if_pos h5]; exact ⟨_, _, _, _, _, rfl⟩
  · rw [if_neg h5]; exact ⟨_, _, _, _, _, rfl⟩

theorem Group.wr_beside (g : Group) (key : Nat) (x : DWord) : (g.wr key x).beside = g.beside := by
  obtain ⟨_, _, _, _, _, h⟩ := Group.wr_shape g key x
  rw [h]; rfl

theorem Group.wr_width (g : Group) (key : Nat) (x : DWord) : (g.wr key x).width = g.width := by
  obtain ⟨_, _, _, _, _, h⟩ := Group.wr_shape g key x
  rw [h]

theorem Group.wr_landings (g : Group) (key : Nat) (x : DWord) : (g.wr key x).landings = g.landings := by
  obtain ⟨_, _, _, _, _, h⟩ := Group.wr_shape g key x
  rw [h]

@[simp] theorem Group.wrAll_beside (w : Writes) (g : Group) : (g.wrAll w).beside = g.beside := by
  induction w generalizing g with
  | nil => rfl
  | cons e t ih => exact (ih _).trans (Group.wr_beside g e.1 e.2)

@[simp] theorem Group.wrAll_landings (w : Writes) (g : Group) : (g.wrAll w).landings = g.landings := by
  induction w generalizing g with
  | nil => rfl
  | cons e t ih => exact (ih _).trans (Group.wr_landings g e.1 e.2)

/-- Register writes change the five register files only. -/
theorem Group.wrAll_shape (w : Writes) (g : Group) : ∃ v' g' k' b' f',
    g.wrAll w = { g with v := v', g := g', k := k', bx := b', fx := f' } := by
  induction w generalizing g with
  | nil => exact ⟨_, _, _, _, _, rfl⟩
  | cons e t ih =>
    obtain ⟨a, b, c, d, f, h⟩ := Group.wr_shape g e.1 e.2
    obtain ⟨a', b', c', d', f', h'⟩ := ih (g.wr e.1 e.2)
    refine ⟨a', b', c', d', f', ?_⟩
    show (g.wr e.1 e.2).wrAll t = _
    rw [h', h]

/-- Bits other than the one written. -/
theorem bit_put_ne (x : DWord) (c : Bool) {a b : Nat} (ha : a < 64) (h : a ≠ b) :
    (if c then x &&& ~~~(1#64 <<< b) else x ||| (1#64 <<< b)).getLsbD a = x.getLsbD a := by
  have h1 : (1#64 <<< b).getLsbD a = false := by
    simp only [BitVec.getLsbD_shiftLeft, BitVec.getLsbD_one]
    by_cases hab : a < b
    · simp [hab]
    · have : a - b ≠ 0 := by omega
      simp [this]
  cases c
  · rw [if_neg (by simp), BitVec.getLsbD_or, h1, Bool.or_false]
  · rw [if_pos rfl, BitVec.getLsbD_and, BitVec.getLsbD_not, h1]
    simp [ha]

/-- The bit written. -/
theorem bit_put_same (x : DWord) (c : Bool) {b : Nat} (h : b < 64) :
    (if c then x &&& ~~~(1#64 <<< b) else x ||| (1#64 <<< b)).getLsbD b = !c := by
  cases c <;> simp [h]

/-- A write of one key leaves the others. -/
theorem Group.cur_wr_ne (g : Group) {key j : Nat} (x : DWord) (h : j ≠ key) : (g.wr key x).cur j = g.cur j := by
  unfold Group.wr
  split
  · unfold Group.cur
    split
    · dsimp only; rw [Regs.get_set_ne _ _ h]
    · rfl
  split
  · unfold Group.cur
    split
    · rfl
    split
    · dsimp only; rw [Regs.get_set_ne _ _ (by omega)]
    · rfl
  split
  · dsimp only
    split
    · unfold Group.cur
      split; · rfl
      split; · rfl
      split
      · dsimp only
        rw [Regs.get_set]
        split
        · rename_i hr
          have hb : (j - 30000) % 64 ≠ (key - 30000) % 64 := by omega
          rw [hr, bit_put_ne _ (x == 0#64) (Nat.mod_lt _ (by omega)) hb]
        · rfl
      · rfl
    · rfl
  split
  · unfold Group.cur
    split; · rfl
    split; · rfl
    split; · rfl
    split
    · dsimp only; rw [KMap.look_put_ne _ _ (by omega)]
    · rfl
  · unfold Group.cur
    split; · rfl
    split; · rfl
    split; · rfl
    split; · rfl
    · dsimp only; rw [Regs.get_set_ne _ _ (by omega)]

/-- Writes leave every key they do not name. -/
theorem Group.cur_wrAll_ne (w : Writes) (g : Group) (j : Nat) (h : ∀ e ∈ w, j ≠ e.1) : (g.wrAll w).cur j = g.cur j := by
  induction w generalizing g with
  | nil => rfl
  | cons e t ih =>
    exact (ih _ (fun x hx => h x (List.mem_cons_of_mem _ hx))).trans (Group.cur_wr_ne g e.2 (h e List.mem_cons_self))

/-- A key after its write; a predicate bit lies below W. -/
theorem Group.cur_wr_same (g : Group) (key : Nat) (x : DWord)
    (hw : 30000 ≤ key → key < 40000 → (key - 30000) % 64 < g.width) : (g.wr key x).cur key = keyVal key x := by
  unfold keyVal
  by_cases h1 : key < 20000
  · have h2 : key < 30000 := by omega
    unfold Group.wr Group.cur
    simp only [h1, h2, if_true, Regs.get_set_same]
  by_cases h2 : key < 30000
  · unfold Group.wr Group.cur
    simp only [h1, h2, if_true, if_false, Regs.get_set_same]
  by_cases h3 : key < 40000
  · have hw := hw (by omega) h3
    unfold Group.wr Group.cur
    simp only [h1, h2, h3, if_true, if_false, hw, Regs.get_set_same]
    rw [bit_put_same _ _ (Nat.mod_lt _ (by omega))]
    cases x == 0#64 <;> rfl
  by_cases h4 : key < 50000
  · unfold Group.wr Group.cur
    simp only [h1, h2, h3, h4, if_true, if_false, KMap.look_put_same, Option.getD_some]
  · unfold Group.wr Group.cur
    simp only [h1, h2, h3, h4, if_false, Regs.get_set_same]

/-- Where no key is written twice, a key holds what its write gives. -/
theorem Group.cur_wrAll_mem (w : Writes) (g : Group) (e : Nat × DWord) (he : e ∈ w)
    (hd : w.Pairwise (fun a b => a.1 ≠ b.1))
    (hw : 30000 ≤ e.1 → e.1 < 40000 → (e.1 - 30000) % 64 < g.width) : (g.wrAll w).cur e.1 = keyVal e.1 e.2 := by
  induction w generalizing g with
  | nil => cases he
  | cons a t ih =>
    rw [List.pairwise_cons] at hd
    show ((g.wr a.1 a.2).wrAll t).cur e.1 = _
    rcases List.mem_cons.1 he with h | h
    · subst h
      exact (Group.cur_wrAll_ne t _ _ (fun x hx => hd.1 x hx)).trans (Group.cur_wr_same g e.1 e.2 hw)
    · exact ih _ h hd.2 (fun h1 h2 => by rw [Group.wr_width]; exact hw h1 h2)

/-- A write of another key leaves a translation register whole. -/
theorem Group.bx_wr_ne (g : Group) {key n : Nat} (x : DWord) (h : key ≠ kb n) :
    KMap.look (g.wr key x).bx n = KMap.look g.bx n := by
  unfold Group.wr
  by_cases c1 : key < 20000
  · simp only [if_pos c1]
  by_cases c2 : key < 30000
  · simp only [if_neg c1, if_pos c2]
  by_cases c3 : key < 40000
  · simp only [if_neg c1, if_neg c2, if_pos c3]
    generalize (key - 30000) % 64 = i
    by_cases c4 : i < g.width
    · simp only [if_pos c4]
    · simp only [if_neg c4]
  by_cases c5 : key < 50000
  · simp only [if_neg c1, if_neg c2, if_neg c3, if_pos c5]
    rw [KMap.look_put_ne _ _ (by unfold kb at h; omega)]
  · simp only [if_neg c1, if_neg c2, if_neg c3, if_neg c5]

theorem Group.bx_wrAll_ne (w : Writes) (g : Group) (n : Nat) (h : ∀ e ∈ w, kb n ≠ e.1) :
    KMap.look (g.wrAll w).bx n = KMap.look g.bx n := by
  induction w generalizing g with
  | nil => rfl
  | cons e t ih =>
    exact (ih _ (fun x hx => h x (List.mem_cons_of_mem _ hx))).trans
      (Group.bx_wr_ne g e.2 (fun he => h e List.mem_cons_self he.symm))

/-! ### Outstanding writes -/

/-- What an instruction's writes leave of the group: the counters move for a counted path only. -/
theorem Group.issue_beside (g : Group) (path : Option Nat) (w : Writes) : (g.issue path w).beside = g.beside := by
  unfold Group.issue
  split
  · rfl
  · dsimp only
    cases path with
    | none => exact Group.wrAll_beside w _
    | some c => exact Group.wrAll_beside w _

/-- Writes that are covered by the marker move no counter. -/
theorem Group.issue_none_shape (g : Group) (w : Writes) : ∃ v' g' k' b' f' l',
    g.issue none w = { g with v := v', g := g', k := k', bx := b', fx := f', landings := l' } := by
  unfold Group.issue
  split
  · exact ⟨_, _, _, _, _, _, rfl⟩
  · dsimp only
    generalize ({ path := none, wait := none, olds := _, due := 0, keys := [], id := 0 } : Landing) = ld
    obtain ⟨a, b, c, d, f, h⟩ := Group.wrAll_shape w { g with landings := g.landings ++ [ld] }
    exact ⟨a, b, c, d, f, g.landings ++ [ld], h⟩

theorem Group.cur_issue (g : Group) (path : Option Nat) (w : Writes) (j : Nat) :
    (g.issue path w).cur j = (g.wrAll w).cur j := by
  have step : ∀ (x y : Group), (x.v = y.v ∧ x.g = y.g ∧ x.k = y.k ∧ x.bx = y.bx ∧ x.fx = y.fx ∧ x.width = y.width) →
      ∀ (k : Nat) (d : DWord), ((x.wr k d).v = (y.wr k d).v ∧ (x.wr k d).g = (y.wr k d).g ∧ (x.wr k d).k = (y.wr k d).k ∧
        (x.wr k d).bx = (y.wr k d).bx ∧ (x.wr k d).fx = (y.wr k d).fx ∧ (x.wr k d).width = (y.wr k d).width) := by
    rintro x y ⟨h1, h2, h3, h4, h5, h6⟩ k d
    unfold Group.wr
    by_cases c1 : k < 20000
    · simp only [if_pos c1, h1, h2, h3, h4, h5, h6, and_self]
    by_cases c2 : k < 30000
    · simp only [if_neg c1, if_pos c2, h1, h2, h3, h4, h5, h6, and_self]
    by_cases c3 : k < 40000
    · simp only [if_neg c1, if_neg c2, if_pos c3, h6]
      generalize (k - 30000) % 64 = i
      generalize (k - 30000) / 64 = r
      by_cases c4 : i < y.width
      · simp only [if_pos c4, h1, h2, h3, h4, h5, and_self]
      · simp only [if_neg c4, h1, h2, h3, h4, h5, h6, and_self]
    by_cases c5 : k < 50000
    · simp only [if_neg c1, if_neg c2, if_neg c3, if_pos c5, h1, h2, h3, h4, h5, h6, and_self]
    · simp only [if_neg c1, if_neg c2, if_neg c3, if_neg c5, h1, h2, h3, h4, h5, h6, and_self]
  have key : ∀ (w : Writes) (x y : Group), (x.v = y.v ∧ x.g = y.g ∧ x.k = y.k ∧ x.bx = y.bx ∧ x.fx = y.fx ∧ x.width = y.width) →
      (x.wrAll w).cur j = (y.wrAll w).cur j := by
    intro w
    induction w with
    | nil =>
      rintro x y ⟨h1, h2, h3, h4, h5, _⟩
      show x.cur j = y.cur j
      unfold Group.cur
      rw [h1, h2, h3, h4, h5]
    | cons e t ih =>
      intro x y h
      exact ih _ _ (step x y h e.1 e.2)
  unfold Group.issue
  split
  · rename_i h
    have : w = [] := List.isEmpty_iff.1 ((Bool.and_eq_true _ _).mp h).1
    subst this; rfl
  · dsimp only
    cases path with
    | none => exact key w _ _ ⟨rfl, rfl, rfl, rfl, rfl, rfl⟩
    | some c => exact key w _ _ ⟨rfl, rfl, rfl, rfl, rfl, rfl⟩

theorem Group.bx_issue_ne (g : Group) (path : Option Nat) (w : Writes) (n : Nat) (h : ∀ e ∈ w, kb n ≠ e.1) :
    KMap.look (g.issue path w).bx n = KMap.look g.bx n := by
  unfold Group.issue
  split
  · rfl
  · dsimp only
    cases path with
    | none => exact Group.bx_wrAll_ne w _ n h
    | some c => exact Group.bx_wrAll_ne w _ n h

theorem Group.olds_issue_ne (g : Group) (path : Option Nat) (w : Writes) (j : Nat) (h : ∀ e ∈ w, j ≠ e.1) :
    (g.issue path w).olds j = g.olds j := by
  have hn : ((w.map (fun e => (e.1, g.cur e.1))).filter (fun o => o.1 == j)) = [] := by
    rw [List.filter_eq_nil_iff]
    intro a ha
    obtain ⟨e, he, rfl⟩ := List.mem_map.1 ha
    simpa using fun hh => h e he hh.symm
  unfold Group.issue
  split
  · rfl
  · dsimp only
    cases path <;> simp [Group.olds, List.flatMap_append, hn]

/-- A read of a key that an instruction does not write returns what it returned before. -/
theorem Group.read_issue_ne (g : Group) (path : Option Nat) (w : Writes) (st j : Nat) (h : ∀ e ∈ w, j ≠ e.1) :
    (g.issue path w).read st j = g.read st j := by
  unfold Group.read
  rw [Group.olds_issue_ne g path w j h, Group.cur_issue, Group.cur_wrAll_ne w g j h]

/-! ### The end of an instruction -/

theorem Group.tick_eq (g : Group) : g.tick = { g with watch := g.tick.watch } := by
  unfold Group.tick
  split <;> rfl

/-- An instruction's end in one equation: only tries and scheduling state are left open. -/
theorem Group.finish_eq (g : Group) (mark : Bool) (pc : DWord) (w : Writes) :
    ∃ (tries : Regs 8) (sc : Sched) (m : Bool), g.finish mark pc w =
      { g.issue none w with pc := pc, watch := (g.issue none w).tick.watch, retries := tries, sched := sc, mark := m } ∧
      (sc = .ready ∨ (mark = true ∧ sc = .marker)) := by
  unfold Group.finish
  rw [Group.tick_eq]
  dsimp only
  generalize Group.tick _ = t
  by_cases h : (mark && Group.covered
    { g.issue none w with pc := pc, watch := t.watch, retries :=
      if (g.issue none w).retries.get 8 == 1#8 || (g.issue none w).held.any HeldI.again then (g.issue none w).retries
      else ({ g.issue none w with watch := t.watch } : Group).copyTries }) = true
  · exact ⟨_, .marker, true, by rw [if_pos h], .inr ⟨((Bool.and_eq_true _ _).mp h).1, rfl⟩⟩
  · exact ⟨_, .ready, false, by rw [if_neg h], .inl rfl⟩

theorem Group.finish_wc (g : Group) (mark : Bool) (pc : DWord) (w : Writes) : (g.finish mark pc w).wc = g.wc := by
  obtain ⟨_, _, _, h, _⟩ := Group.finish_eq g mark pc w
  obtain ⟨_, _, _, _, _, _, h'⟩ := Group.issue_none_shape g w
  rw [h, h']

theorem Group.finish_watch (g : Group) (mark : Bool) (pc : DWord) (w : Writes) :
    (g.finish mark pc w).watch = g.tick.watch := by
  obtain ⟨_, _, _, h, _⟩ := Group.finish_eq g mark pc w
  obtain ⟨_, _, _, _, _, _, h'⟩ := Group.issue_none_shape g w
  rw [h, h']
  unfold Group.tick
  dsimp only
  split <;> rfl

theorem Group.finish_sched (g : Group) (mark : Bool) (pc : DWord) (w : Writes) :
    (g.finish mark pc w).sched = .ready ∨ (mark = true ∧ (g.finish mark pc w).sched = .marker) := by
  obtain ⟨_, _, _, h, hs⟩ := Group.finish_eq g mark pc w
  rw [h]
  exact hs

theorem Group.finish_pc (g : Group) (mark : Bool) (pc : DWord) (w : Writes) : (g.finish mark pc w).pc = pc := by
  obtain ⟨_, _, _, h, _⟩ := Group.finish_eq g mark pc w
  rw [h]

theorem Group.finish_beside (g : Group) (mark : Bool) (pc : DWord) (w : Writes) :
    (g.finish mark pc w).beside = g.beside := by
  obtain ⟨_, _, _, h, _⟩ := Group.finish_eq g mark pc w
  rw [h]
  exact Group.issue_beside g none w

theorem Group.finish_cur (g : Group) (mark : Bool) (pc : DWord) (w : Writes) (j : Nat) :
    (g.finish mark pc w).cur j = (g.wrAll w).cur j := by
  obtain ⟨_, _, _, h, _⟩ := Group.finish_eq g mark pc w
  rw [h]
  exact Group.cur_issue g none w j

theorem Group.finish_read_ne (g : Group) (mark : Bool) (pc : DWord) (w : Writes) (st j : Nat) (hn : ∀ e ∈ w, j ≠ e.1) :
    (g.finish mark pc w).read st j = g.read st j := by
  obtain ⟨_, _, _, h, _⟩ := Group.finish_eq g mark pc w
  rw [h]
  exact Group.read_issue_ne g none w st j hn

theorem Group.finish_bx_ne (g : Group) (mark : Bool) (pc : DWord) (w : Writes) (n : Nat) (hn : ∀ e ∈ w, kb n ≠ e.1) :
    KMap.look (g.finish mark pc w).bx n = KMap.look g.bx n := by
  obtain ⟨_, _, _, h, _⟩ := Group.finish_eq g mark pc w
  rw [h]
  exact Group.bx_issue_ne g none w n hn

/-! ### The frame of a lane instruction -/

theorem lane_ok {i : Instr} {h : Head} {s : State} {body : Nat → Group → State → Ans} {gid : Nat} {g : Group}
    (hw : s.atWork gid g i) {s' : State} {w : Writes} (hb : body gid g s = .ok s' w) :
    lane i h s body = .next (s'.updG gid (fun g' => g'.finish h.s (g.pc + 8#64) w)) := by
  obtain ⟨hc, hl, hk⟩ := hw
  unfold lane laneIf
  simp only [hc, hl, hk, hb]

theorem lane_jump {i : Instr} {h : Head} {s : State} {body : Nat → Group → State → Ans} {gid : Nat} {g : Group}
    (hw : s.atWork gid g i) {s' : State} {pc : DWord} {w : Writes} (hb : body gid g s = .jump s' pc w) :
    lane i h s body = .next (s'.updG gid (fun g' => g'.finish h.s pc w)) := by
  obtain ⟨hc, hl, hk⟩ := hw
  unfold lane laneIf
  simp only [hc, hl, hk, hb]

theorem lane_gone {i : Instr} {h : Head} {s : State} {body : Nat → Group → State → Ans} {gid : Nat} {g : Group}
    (hw : s.atWork gid g i) {s' : State} (hb : body gid g s = .gone s') : lane i h s body = .next s' := by
  obtain ⟨hc, hl, hk⟩ := hw
  unfold lane laneIf
  simp only [hc, hl, hk, hb]

theorem lane_trap {i : Instr} {h : Head} {s : State} {body : Nat → Group → State → Ans} {gid : Nat} {g : Group}
    (hw : s.atWork gid g i) {r : FaultRec} (hb : body gid g s = .trap r) :
    lane i h s body = .next (s.takeTrap gid r (i.ignoreWrites g (g.enabled s.stamp h))) := by
  obtain ⟨hc, hl, hk⟩ := hw
  unfold lane laneIf
  simp only [hc, hl, hk, hb]

/-- A word that fails a check takes ILLEGAL with the first failing check's CAUSE. -/
theorem lane_illegal {i : Instr} {h : Head} {s : State} {body : Nat → Group → State → Ans} {gid : Nat} {g : Group}
    {c : Nat} (hc : s.cur = .group gid) (hl : KMap.look s.groups gid = some g) (hk : i.check g.n = some c) :
    lane i h s body =
      .next (s.takeTrap gid (illegalRec c (encode i) g.pc) (i.ignoreWrites g (g.enabled s.stamp h))) := by
  unfold lane laneIf
  simp only [hc, hl, hk]

theorem laneOp_next {i : Instr} {h : Head} {s : State} {f : Group → Nat → Nat → Writes} {gid : Nat} {g : Group}
    (hw : s.atWork gid g i) :
    laneOp i h s f = .next (s.updG gid (fun g' => g'.finish h.s (g.pc + 8#64)
      ((g.enabled s.stamp h).flatMap (fun j => f g s.stamp j)))) := lane_ok hw rfl

/-- An instruction that answers its group finished, with writes in its destinations only, goes on. -/
theorem goes_of {i : Instr} {ds : List Dest}
    (h : ∀ s gid g, s.atWork gid g i → ∃ W, exec i s = .next (s.updG gid (fun g' => g'.finish (headOf i).s (g.pc + 8#64) W)) ∧
      ∀ e ∈ W, ∃ d ∈ ds, d.has g s.stamp (headOf i) e.1) : Goes i ds := by
  intro s gid g hw _
  obtain ⟨W, he, hd⟩ := h s gid g hw
  have hne : ∀ key, (∀ d ∈ ds, ¬ d.has g s.stamp (headOf i) key) → ∀ e ∈ W, key ≠ e.1 := by
    rintro key hk e he rfl
    obtain ⟨d, hd1, hd2⟩ := hd e he
    exact hk d hd1 hd2
  refine ⟨_, g.finish (headOf i).s (g.pc + 8#64) W, he, ?_, Group.finish_pc .., Group.finish_beside .., Group.finish_wc .., ?_, Group.finish_sched .., ?_⟩
  · exact State.updG_eq s gid _ hw.2.1
  · unfold Counted; rw [Group.finish_watch]; unfold Group.tick; simp only [beq_iff_eq]; split <;> rfl
  · intro key hk
    exact ⟨by rw [Group.finish_cur, Group.cur_wrAll_ne _ _ _ (hne key hk)], fun x => Group.finish_read_ne _ _ _ _ _ _ (hne key hk),
      fun n hn => Group.finish_bx_ne _ _ _ _ _ (fun e he => by subst hn; exact hne _ hk e he)⟩

/-- A lane instruction that only writes registers goes on. -/
theorem goes_op {i : Instr} {ds : List Dest} (f : Group → Nat → Nat → Writes)
    (hx : ∀ s, exec i s = laneOp i (headOf i) s f)
    (hf : ∀ g st, ∀ j ∈ g.enabled st (headOf i), ∀ e ∈ f g st j, ∃ d ∈ ds, d.has g st (headOf i) e.1) : Goes i ds := by
  apply goes_of
  intro s gid g hw
  refine ⟨_, (hx s).trans (laneOp_next hw), ?_⟩
  intro e he
  obtain ⟨j, hj, he⟩ := List.mem_flatMap.1 he
  exact hf g s.stamp j hj e he

theorem wV_has {d : BitVec 8} {j x g st h n} (hj : j ∈ g.enabled st h) (hn : 0 < n) : ∀ e ∈ wV d j x, (Dest.lanes d n).has g st h e.1 := by
  unfold wV
  split
  · simp
  · rename_i hd
    intro e he
    simp at he
    subst he
    exact ⟨by simpa using hd, j, hj, 0, hn, by simp⟩

/-- One that writes one lane register goes on. -/
theorem goes_one {i : Instr} {d : BitVec 8} (hd : Head) (v : Group → Nat → Nat → Word) (fs : List Dest)
    (hh : headOf i = hd)
    (hx : ∀ s, exec i s = laneOp i hd s (fun g st j => wV d j (v g st j))) : Goes i (.lanes d 1 :: fs) := by
  subst hh
  exact goes_op _ hx (fun g st j hj e he => ⟨.lanes d 1, List.mem_cons_self, wV_has hj (by omega) e he⟩)

end Sys2Proof.Machine
end

