-- ==== Sys2Proof/Tests/Slice0.lean ====
section
/-! SUPPORT. Slice0.lean: tests of the checks, the decoder and single steps, against the spec's own examples and hand
calculation; and for each statement a state and operands that meet its hypotheses. -/
namespace Sys2Proof.Tests
open Sys2Proof Sys2Proof.Machine

-- one theorem after another: each of these evaluates in the kernel, and many at once take too much memory
set_option Elab.async false

/-! ### A small machine: one group of 16 lanes in quarter 0 of core 0, at work -/

/-- Guard k7, no marker. -/
def hd7 : Head := ⟨false, false, 7#3⟩
/-- An R-format instruction without modifiers. -/
def rf (sub : BitVec 4) (d a b c : BitVec 8) : RFmt := ⟨hd7, 0#3, 0#4, 0#2, 0#6, c, b, a, d, sub⟩
/-- An I-format instruction without modifiers. -/
def imf (sub : BitVec 4) (d a : BitVec 8) (imm : BitVec 16) : IFmt := ⟨hd7, 0#3, 0#4, 0#2, 0#2, imm, a, d, sub⟩
/-- An M-format instruction at device scope through bx0. -/
def mf (sub : BitVec 4) (d a : BitVec 8) : MFmt := ⟨hd7, 0#4, 0#16, 0#4, 6#4, 0#3, a, d, sub⟩
/-- A Y-format instruction. -/
def yf (sub : BitVec 4) (d a b : BitVec 8) (imm : BitVec 16) : YFmt := ⟨hd7, imm, b, a, d, sub⟩
/-- The group. -/
def labG : Group := placeLaunch.group 1 2 0 0
/-- The machine with group `g` at work. -/
def lab (g : Group) : State := { State.reset.placeLane 0#64 with cur := .group 2, agenda := [], groups := [(2, g)] }
/-- Group-uniform registers set. -/
def gset (g : Group) (l : List (Nat × Word)) : Group := { g with g := l.foldl (fun m e => m.set e.1 e.2) g.g }
/-- Lane registers of lane 0 set. -/
def vset (g : Group) (l : List (Nat × Word)) : Group := { g with v := l.foldl (fun m e => m.set (64 * e.1) e.2) g.v }
/-- Only lane 0 enabled, with its address in `v1`. -/
def laneG (a : Word) : Group := { vset labG [(1, a)] with em := 1#64 }
/-- The same, with bx0 at the local window. -/
def locG (a : Word) : Group := { laneG a with bx := [(0, ⟨0#32, 7#4, 0#2, BitVec.ofNat 64 Config.localBase, none⟩)] }
/-- The half of the group. -/
def labH : Half := placeHalf (some (Tile.fresh 0 4)) none
/-- The machine with another half. -/
def labHalf (g : Group) (h : Half) : State := { lab g with halves := [(1, h)] }
/-- The machine with another context. -/
def labCtx (g : Group) (c : Ctx) : State := { lab g with ctxs := [(0, c)] }
/-- The machine with another launch record. -/
def labRec (g : Group) (f : LaunchRec → LaunchRec) : State :=
  { lab g with launches := [(1, { placeLaunch with lr := f placeLaunch.lr })] }
/-- The machine whose one page has other leaf bits. -/
def labLeaf (g : Group) (e : Nat) : State := { lab g with mem := (lab g).mem.setSlice 0x11000 (leBytes 8 e) }
/-- Whether an answer is a leaf. -/
def leafIs (r : Except (Nat × Nat) Leaf) (l : Leaf) : Bool :=
  match r with
  | .ok x => x == l
  | .error _ => false
theorem of_leafIs {r : Except (Nat × Nat) Leaf} {l : Leaf} (h : leafIs r l = true) : r = .ok l := by
  cases r with
  | error e => cases h
  | ok x => exact congrArg Except.ok (by simpa [leafIs] using h)
/-- Whether an answer is a failure with a CAUSE and LEVEL. -/
def failIs (r : Except (Nat × Nat) Leaf) (e : Nat × Nat) : Bool :=
  match r with
  | .ok _ => false
  | .error x => x == e
theorem of_failIs {r : Except (Nat × Nat) Leaf} {e : Nat × Nat} (h : failIs r e = true) : r = .error e := by
  cases r with
  | error x => exact congrArg Except.error (by simpa [failIs] using h)
  | ok x => cases h

theorem lab_atWork (g : Group) (i : Instr) (h : i.check g.n = none) : (lab g).atWork 2 g i := ⟨rfl, rfl, h⟩
theorem labHalf_atWork (g : Group) (h : Half) (i : Instr) (hc : i.check g.n = none) : (labHalf g h).atWork 2 g i := ⟨rfl, rfl, hc⟩
theorem labCtx_atWork (g : Group) (c : Ctx) (i : Instr) (hc : i.check g.n = none) : (labCtx g c).atWork 2 g i := ⟨rfl, rfl, hc⟩
theorem labRec_atWork (g : Group) (f : LaunchRec → LaunchRec) (i : Instr) (hc : i.check g.n = none) : (labRec g f).atWork 2 g i :=
  ⟨rfl, rfl, hc⟩
theorem labLeaf_atWork (g : Group) (e : Nat) (i : Instr) (hc : i.check g.n = none) : (labLeaf g e).atWork 2 g i := ⟨rfl, rfl, hc⟩

/-! ### Witnesses: lane instructions -/

theorem test_wit_RegisterFrames :
    (lab labG).atWork 2 labG (.iadd (rf 0 3 1 2 255)) ∧ intDests (.iadd (rf 0 3 1 2 255)) = some [.lanes 3#8 1] ∧
    (lab labG).atWork 2 labG (.fadd (rf 0 255 1 2 255)) ∧ fltDests (.fadd (rf 0 255 1 2 255)) = some [.lanes 255#8 1, .flags] ∧
    (lab labG).atWork 2 labG (.plopAnd (rf 0 6 7 0 255)) ∧ bitDests (.plopAnd (rf 0 6 7 0 255)) = some [.pred 6#8] :=
  ⟨lab_atWork _ _ rfl, rfl, lab_atWork _ _ rfl, rfl, lab_atWork _ _ rfl, rfl⟩

theorem test_wit_IntegerResults :
    (lab labG).atWork 2 labG (.iadd (rf 0 254 1 2 255)) ∧ (lab labG).atWork 2 labG (.iadd (rf 1 255 1 2 255)) ∧
    (lab labG).atWork 2 labG (.imaxImm (imf 0 3 1 0xFFFF#16)) ∧ 15 ∈ labG.enabled 0 hd7 :=
  ⟨lab_atWork _ _ rfl, lab_atWork _ _ rfl, lab_atWork _ _ rfl, by decide +kernel⟩

theorem test_wit_ShiftAndLogicResults :
    (lab labG).atWork 2 labG (.shl (rf 0 3 1 2 255)) ∧ (lab labG).atWork 2 labG (.sarImm (imf 0 3 1 31#16)) ∧
    (lab labG).atWork 2 labG (.lop3 (rf 0 3 1 2 4)) ∧ (lab labG).atWork 2 labG (.andnImm (imf 3 3 1 0x8000#16)) :=
  ⟨lab_atWork _ _ rfl, lab_atWork _ _ rfl, lab_atWork _ _ rfl, lab_atWork _ _ rfl⟩

theorem test_wit_FieldsAndMoves :
    (lab labG).atWork 2 labG (.bfx (rf 1 3 1 2 255)) ∧ (lab labG).atWork 2 labG (.bfi (rf 0 3 1 2 4)) ∧
    (lab labG).atWork 2 labG (.prm (rf 0 3 1 2 4)) ∧ (lab labG).atWork 2 labG (.clz (rf 0 3 1 255 255)) ∧
    (lab labG).atWork 2 labG (.mov (rf 1 3 63 255 255)) ∧ (lab labG).atWork 2 labG (.mov (rf 2 63 1 255 255)) ∧
    (lab labG).atWork 2 labG (.movi (imf 1 3 255 0x8000#16)) ∧ (lab labG).atWork 2 labG (.movl ⟨hd7, 9#32, 3#8, 0#4⟩) ∧
    (lab labG).atWork 2 labG (.movl ⟨hd7, 9#32, 63#8, 1#4⟩) ∧ (lab labG).atWork 2 labG (.imadw (rf 0 2 1 2 4)) :=
  ⟨lab_atWork _ _ rfl, lab_atWork _ _ rfl, lab_atWork _ _ rfl, lab_atWork _ _ rfl, lab_atWork _ _ rfl, lab_atWork _ _ rfl,
    lab_atWork _ _ rfl, lab_atWork _ _ rfl, lab_atWork _ _ rfl, lab_atWork _ _ rfl⟩

theorem test_wit_CompareResults :
    (lab labG).atWork 2 labG (.iset (rf 13 6 1 2 255)) ∧ (lab labG).atWork 2 labG (.isetImm (imf 2 0 1 0xFFFF#16)) ∧
    6 ≤ (rf 6 0 1 2 255).sub.toNat % 8 ∧ 6 ≤ (rf 15 0 1 2 255).sub.toNat % 8 ∧ (rf 0 0 1 2 254).c ≠ 255#8 ∧
    6 ≤ (imf 14 0 1 0#16).sub.toNat % 8 :=
  ⟨lab_atWork _ _ rfl, lab_atWork _ _ rfl, by decide, by decide, by decide, by decide⟩

theorem test_wit_LeaResult :
    (lab labG).atWork 2 labG (.lea (rf 7 252 1 62 255)) ∧ 8 ≤ (rf 8 2 1 2 255).sub.toNat ∧ (rf 0 2 1 2 0).c ≠ 255#8 :=
  ⟨lab_atWork _ _ rfl, by decide, by decide⟩

theorem test_wit_NanResults :
    let g := vset labG [(1, 0x7F800001#32), (2, 0xFFC00000#32), (4, 0x7FFFFFFF#32)]
    (lab g).atWork 2 g (.fadd (rf 0 3 1 5 255)) ∧ (lab g).atWork 2 g (.fsub (rf 0 3 5 2 255)) ∧
    (lab g).atWork 2 g (.fmul (rf 0 3 1 2 255)) ∧ (lab g).atWork 2 g (.fma (rf 0 3 5 5 4)) ∧ 0 ∈ g.enabled 0 hd7 ∧
    g.fm.getLsbD 5 = false ∧ isNan32 (g.rv 0 1#8 0) = true ∧ isNan32 (g.rv 0 2#8 0) = true ∧ isNan32 (g.rv 0 4#8 0) = true :=
  ⟨lab_atWork _ _ rfl, lab_atWork _ _ rfl, lab_atWork _ _ rfl, lab_atWork _ _ rfl, by decide +kernel⟩

theorem test_wit_PredicateResults :
    (lab labG).atWork 2 labG (.plopXor (rf 2 6 7 0 255)) ∧ (lab labG).atWork 2 labG (.pmov (rf 0 0 7 255 255)) ∧
    (lab labG).atWork 2 labG (.p2g (rf 1 62 7 255 255)) ∧ (lab labG).atWork 2 labG (.g2p (rf 2 6 62 255 255)) :=
  ⟨lab_atWork _ _ rfl, lab_atWork _ _ rfl, lab_atWork _ _ rfl, lab_atWork _ _ rfl⟩

theorem test_wit_CrossLane :
    (lab labG).atWork 2 labG (.shfl (rf 3 3 1 2 255)) ∧ (lab labG).atWork 2 labG (.matchL (rf 0 4 1 255 255)) ∧
    (lab labG).atWork 2 labG (.redx (rf 0 3 1 255 1)) ∧ (lab labG).atWork 2 labG (.vote (rf 0 6 7 255 255)) ∧
    (lab labG).atWork 2 labG (.vote (rf 1 0 7 255 255)) ∧ (lab labG).atWork 2 labG (.vote (rf 2 62 0 255 255)) ∧
    labG.wc.get 3 ≠ 255#8 ∧ 15 ∈ labG.enabled 0 hd7 :=
  ⟨lab_atWork _ _ rfl, lab_atWork _ _ rfl, lab_atWork _ _ rfl, lab_atWork _ _ rfl, lab_atWork _ _ rfl, lab_atWork _ _ rfl,
    by decide +kernel⟩

theorem test_wit_Branches :
    (lab labG).atWork 2 labG (.bra ⟨hd7, 0#8, 0x800000#24⟩) ∧ (lab labG).atWork 2 labG (.bany ⟨hd7, 7#8, 2#24⟩) ∧
    (lab labG).atWork 2 labG (.ball ⟨hd7, 0#8, 2#24⟩) ∧ (lab labG).atWork 2 labG (.bnone ⟨hd7, 7#8, 2#24⟩) ∧
    (lab labG).atWork 2 labG (.call ⟨hd7, 62#8, 0x7FFFFF#24⟩) ∧ (lab labG).atWork 2 labG (.brx (rf 0 255 2 255 255)) ∧
    (lab labG).atWork 2 labG (.ret (rf 0 255 62 255 255)) ∧ (labG.rgPair 0 2#8).toNat % 8 = 0 :=
  ⟨lab_atWork _ _ rfl, lab_atWork _ _ rfl, lab_atWork _ _ rfl, lab_atWork _ _ rfl, lab_atWork _ _ rfl, lab_atWork _ _ rfl,
    lab_atWork _ _ rfl, by decide +kernel⟩

theorem test_wit_MaskResults :
    let one : RFmt := { rf 0 255 255 255 255 with hd := ⟨false, false, 0#3⟩ }
    let g : Group := { labG with k := labG.k.set 0 1#64 }
    (lab labG).atWork 2 labG (.msplit (rf 0 10 1 255 255)) ∧ (lab labG).atWork 2 labG (.mjoin (rf 0 255 10 255 255)) ∧
    (lab g).atWork 2 g (.exit one) ∧ g.live &&& ~~~ laneMask (g.enabled 0 one.hd) ≠ 0#64 ∧ g.enabled 0 one.hd = [0] ∧
    (lab labG).atWork 2 labG (.yield (rf 0 255 255 255 255)) :=
  ⟨lab_atWork _ _ rfl, lab_atWork _ _ rfl, lab_atWork _ _ rfl, by decide +kernel, by decide +kernel, lab_atWork _ _ rfl⟩

/-! ### Witnesses: lane memory instructions -/

/-- A local access of lane 0 at an offset. -/
theorem lab_localAccess (a : Word) (op : MemOp) (p : LPlace) (hw : op.f.hd = hd7) (hac : op.f.ac = 0#4)
    (h1 : (locG a).enabled 0 hd7 = [0]) (hm : (lab (locG a)).mayIssue (locG a) op) (h2 : op.va (locG a) 0 0 % op.size = 0)
    (h3 : (lab (locG a)).placeOf (locG a) op 0 = some p) (h4 : (lab (locG a)).locPoisoned p op.size = false) :
    (lab (locG a)).localAccess 2 (locG a) op := by
  refine ⟨hm, Or.inl hac, (by intro a ha; cases ha), ?_⟩
  intro j hj
  have e : (locG a).enabled (lab (locG a)).stamp op.f.hd = [0] := by rw [hw]; exact h1
  rw [e] at hj
  obtain rfl : j = 0 := by simpa using hj
  exact ⟨h2, p, h3, fun _ => h4⟩

theorem test_wit_LocalLoads :
    memOp (.ld (mf 6 4 1)) = some ⟨mf 6 4 1, .load false, 16, 4⟩ ∧ (lab (locG 0x3FF0#32)).atWork 2 (locG 0x3FF0#32) (.ld (mf 6 4 1)) ∧
    (lab (locG 0x3FF0#32)).localAccess 2 (locG 0x3FF0#32) ⟨mf 6 4 1, .load false, 16, 4⟩ ∧
    memOp (.ldacq (mf 1 3 1)) = some ⟨mf 1 3 1, .load true, 1, 1⟩ ∧ (lab (locG 0#32)).atWork 2 (locG 0#32) (.ldacq (mf 1 3 1)) ∧
    (lab (locG 0#32)).localAccess 2 (locG 0#32) ⟨mf 1 3 1, .load true, 1, 1⟩ :=
  ⟨rfl, lab_atWork _ _ rfl, lab_localAccess _ _ ⟨1, false, 0x3FF0⟩ rfl rfl (by decide +kernel)
    ⟨rfl, rfl, by decide +kernel, by decide +kernel, by decide +kernel⟩ (by decide +kernel) (by decide +kernel) (by decide +kernel),
   rfl, lab_atWork _ _ rfl, lab_localAccess _ _ ⟨1, false, 0⟩ rfl rfl (by decide +kernel)
    ⟨rfl, rfl, by decide +kernel, by decide +kernel, by decide +kernel⟩ (by decide +kernel) (by decide +kernel) (by decide +kernel)⟩

/-- A group of the machine has nothing outstanding. -/
theorem lab_quiet (g : Group) (h : g.held = [] ∧ g.landings = [] ∧ g.fences = [] ∧ g.gwPend = [] ∧ g.gw = 0#64 ∧ g.hostW = 0) :
    (lab g).quiet 2 g := by
  obtain ⟨h1, h2, h3, h4, h5, h6⟩ := h
  refine ⟨h1, h2, h3, h4, by rw [h5]; exact Nat.zero_le _, h6, ?_, ?_⟩
  all_goals intro x hx; cases hx

theorem test_wit_LocalStores :
    memOp (.st (mf 5 4 1)) = some ⟨mf 5 4 1, .store, 8, 2⟩ ∧ (lab (locG 8#32)).atWork 2 (locG 8#32) (.st (mf 5 4 1)) ∧
    (lab (locG 8#32)).localAccess 2 (locG 8#32) ⟨mf 5 4 1, .store, 8, 2⟩ ∧
    memOp (.strel (mf 0 255 1)) = some ⟨mf 0 255 1, .store, 1, 1⟩ ∧
    (lab (locG 0x3FFF#32)).atWork 2 (locG 0x3FFF#32) (.strel (mf 0 255 1)) ∧
    (lab (locG 0x3FFF#32)).localAccess 2 (locG 0x3FFF#32) ⟨mf 0 255 1, .store, 1, 1⟩ ∧ (lab (locG 0x3FFF#32)).quiet 2 (locG 0x3FFF#32) :=
  ⟨rfl, lab_atWork _ _ rfl, lab_localAccess _ _ ⟨1, false, 8⟩ rfl rfl (by decide +kernel)
    ⟨rfl, rfl, by decide +kernel, by decide +kernel, by decide +kernel⟩ (by decide +kernel) (by decide +kernel) (by decide +kernel),
   rfl, lab_atWork _ _ rfl, lab_localAccess _ _ ⟨1, false, 0x3FFF⟩ rfl rfl (by decide +kernel)
    ⟨rfl, rfl, by decide +kernel, by decide +kernel, by decide +kernel⟩ (by decide +kernel) (by decide +kernel) (by decide +kernel),
   lab_quiet _ (by decide +kernel)⟩

theorem test_wit_LocalAtomics :
    memOp (.atomc (mf 1 4 1)) = some ⟨mf 1 4 1, .cas, 8, 4⟩ ∧ (lab (locG 8#32)).atWork 2 (locG 8#32) (.atomc (mf 1 4 1)) ∧
    (lab (locG 8#32)).localAccess 2 (locG 8#32) ⟨mf 1 4 1, .cas, 8, 4⟩ ∧
    memOp (.red (mf 10 3 1)) = some ⟨mf 10 3 1, .atomic false, 4, 1⟩ ∧ (lab (locG 8#32)).atWork 2 (locG 8#32) (.red (mf 10 3 1)) ∧
    (lab (locG 8#32)).localAccess 2 (locG 8#32) ⟨mf 10 3 1, .atomic false, 4, 1⟩ ∧
    memOp (.atom (mf 0 255 1)) = some ⟨mf 0 255 1, .atomic true, 4, 1⟩ ∧ (lab (locG 8#32)).atWork 2 (locG 8#32) (.atom (mf 0 255 1)) ∧
    (lab (locG 8#32)).localAccess 2 (locG 8#32) ⟨mf 0 255 1, .atomic true, 4, 1⟩ :=
  ⟨rfl, lab_atWork _ _ rfl, lab_localAccess _ _ ⟨1, false, 8⟩ rfl rfl (by decide +kernel)
    ⟨rfl, rfl, by decide +kernel, by decide +kernel, by decide +kernel⟩ (by decide +kernel) (by decide +kernel) (by decide +kernel),
   rfl, lab_atWork _ _ rfl, lab_localAccess _ _ ⟨1, false, 8⟩ rfl rfl (by decide +kernel)
    ⟨rfl, rfl, by decide +kernel, by decide +kernel, by decide +kernel⟩ (by decide +kernel) (by decide +kernel) (by decide +kernel),
   rfl, lab_atWork _ _ rfl, lab_localAccess _ _ ⟨1, false, 8⟩ rfl rfl (by decide +kernel)
    ⟨rfl, rfl, by decide +kernel, by decide +kernel, by decide +kernel⟩ (by decide +kernel) (by decide +kernel) (by decide +kernel)⟩

/-- A global access of lane 0 in the one page. -/
theorem lab_globalAccess (a : Word) (op : MemOp) (l : Leaf) (hac : op.f.ac = 0#4)
    (hm : (lab (laneG a)).mayIssue (laneG a) op) (h1 : (laneG a).enabled 0 op.f.hd = [0]) (h2 : op.va (laneG a) 0 0 % op.size = 0)
    (h3 : isLocal (op.va (laneG a) 0 0) = false)
    (h4 : ((lab (laneG a)).translateBx 0 0 Bx.invalid (op.va (laneG a) 0 0) op.size op.kind.acc).1 = .ok l)
    (h5 : op.f.bx = 0#3) (h6 : l.rem = false) (h7 : isRegSpace (l.pa (op.va (laneG a) 0 0)) = false) :
    (lab (laneG a)).globalAccess (laneG a) op 0 l := by
  refine ⟨hm, Or.inl hac, h1, h2, h3, ?_, h6, h7, ?_, rfl, rfl, ?_, ?_, ?_⟩
  · rw [h5]; exact h4
  · rfl
  · intro _
    simp only [State.poisoned, show (lab (laneG a)).poison = [] from rfl]
    simp
  · intro c hc; cases hc
  · intro hc; cases hc

/-- The leaf of the one page. -/
def pageLeaf : Leaf := ⟨0, 2 ^ 30, 0, 0, 0, false, false, false, true, true, true, true, false⟩

theorem test_wit_GlobalLoads :
    memOp (.ldb (mf 13 4 1)) = some ⟨mf 13 4 1, .bounded 0 true, 8, 2⟩ ∧ (lab (laneG 0x20008#32)).atWork 2 (laneG 0x20008#32) (.ldb (mf 13 4 1)) ∧
    (lab (laneG 0x20008#32)).globalAccess (laneG 0x20008#32) ⟨mf 13 4 1, .bounded 0 true, 8, 2⟩ 0 pageLeaf ∧ pageLeaf.rounds = false :=
  ⟨rfl, lab_atWork _ _ rfl, lab_globalAccess _ _ _ rfl ⟨rfl, rfl, by decide +kernel, by decide +kernel, by decide +kernel⟩ (by decide +kernel) (by decide +kernel)
    (by decide +kernel) rfl rfl rfl (by decide +kernel), rfl⟩

theorem test_wit_GlobalStores :
    memOp (.strel (mf 6 4 1)) = some ⟨mf 6 4 1, .store, 16, 4⟩ ∧
    (lab (laneG 0x3FFFFFF0#32)).atWork 2 (laneG 0x3FFFFFF0#32) (.strel (mf 6 4 1)) ∧
    (lab (laneG 0x3FFFFFF0#32)).globalAccess (laneG 0x3FFFFFF0#32) ⟨mf 6 4 1, .store, 16, 4⟩ 0 pageLeaf ∧
    (lab (laneG 0x3FFFFFF0#32)).quiet 2 (laneG 0x3FFFFFF0#32) :=
  ⟨rfl, lab_atWork _ _ rfl, lab_globalAccess _ _ _ rfl ⟨rfl, rfl, by decide +kernel, by decide +kernel, by decide +kernel⟩ (by decide +kernel) (by decide +kernel)
    (by decide +kernel) rfl rfl rfl (by decide +kernel), lab_quiet _ (by decide +kernel)⟩

theorem test_wit_GlobalAtomics :
    memOp (.atomc (mf 0 4 1)) = some ⟨mf 0 4 1, .cas, 4, 2⟩ ∧ (lab (laneG 0x20000#32)).atWork 2 (laneG 0x20000#32) (.atomc (mf 0 4 1)) ∧
    (lab (laneG 0x20000#32)).globalAccess (laneG 0x20000#32) ⟨mf 0 4 1, .cas, 4, 2⟩ 0 pageLeaf ∧
    memOp (.red (mf 7 4 1)) = some ⟨mf 7 4 1, .atomic false, 4, 1⟩ ∧ (lab (laneG 0x20000#32)).atWork 2 (laneG 0x20000#32) (.red (mf 7 4 1)) ∧
    (lab (laneG 0x20000#32)).globalAccess (laneG 0x20000#32) ⟨mf 7 4 1, .atomic false, 4, 1⟩ 0 pageLeaf :=
  ⟨rfl, lab_atWork _ _ rfl, lab_globalAccess _ _ _ rfl ⟨rfl, rfl, by decide +kernel, by decide +kernel, by decide +kernel⟩ (by decide +kernel) (by decide +kernel)
    (by decide +kernel) rfl rfl rfl (by decide +kernel),
   rfl, lab_atWork _ _ rfl, lab_globalAccess _ _ _ rfl ⟨rfl, rfl, by decide +kernel, by decide +kernel, by decide +kernel⟩ (by decide +kernel) (by decide +kernel)
    (by decide +kernel) rfl rfl rfl (by decide +kernel)⟩

/-- The leaf of the page with MRG = 1. -/
def mergeLeaf : Leaf := { pageLeaf with mrg := true }

/-- A check-out or check-in of the block at 0x20000 may go on. -/
theorem lab_block (g : Group) (hg : g = laneG 0x20000#32) (l : Leaf) (s : State) (h0 : s.stamp = 0)
    (hc : s.coreOf g = 0 ∧ s.ctxOf g = 0)
    (ht : (s.translateBx 0 0 Bx.invalid 0x20000 4096 .block).1 = .ok l) (h1 : l.rem = false) (h2 : l.so = false)
    (h3 : isRegSpace (l.pa 0x20000) = false) (h5 : s.mergesAway 0 (l.pa 0x20000) = false) :
    let op : MemOp := ⟨mf 0 3 1, .ckout, 4096, 1⟩
    s.mayIssue g op ∧ g.enabled s.stamp (mf 0 3 1).hd = [0] ∧ op.va g s.stamp 0 % 4096 = 0 ∧ isLocal (op.va g s.stamp 0) = false ∧
    (s.translateBx (s.coreOf g) (s.ctxOf g) ((KMap.look g.bx 0).getD Bx.invalid) (op.va g s.stamp 0) 4096 .block).1 = .ok l ∧
    l.rem = false ∧ isRegSpace (l.pa (op.va g s.stamp 0)) = false ∧ l.so = false ∧
    s.mergesAway (s.ctxOf g) (l.pa (op.va g s.stamp 0)) = false := by
  subst hg
  intro op
  have e : op.va (laneG 0x20000#32) 0 0 = 0x20000 := by decide +kernel
  rw [h0, hc.1, hc.2, e]
  refine ⟨⟨rfl, rfl, (by intro x hx; cases hx), ?_, by decide +kernel⟩, by decide +kernel, by decide, by decide, ht, h1, h3, h2, h5⟩
  have h4 : ((laneG 0x20000#32).fences, (laneG 0x20000#32).held) = ([], []) := by decide +kernel
  simp only [State.memStalls, (Prod.mk.injEq _ _ _ _ ▸ h4 : _ ∧ _).1, (Prod.mk.injEq _ _ _ _ ▸ h4 : _ ∧ _).2]
  rfl

theorem test_wit_CheckOutAndIn :
    let g := laneG 0x20000#32
    let s := labLeaf g 0x5E3
    let w : State := { s with twins := [(0x20, ⟨[], 1⟩)], works := [(0, [(0x20, Regs.set [] 5 7#8)])] }
    s.atWork 2 g (.ckout (mf 0 3 1)) ∧ (s.translateBx 0 0 Bx.invalid 0x20000 4096 .block).1 = .ok mergeLeaf ∧
    s.workOf (s.ctxOf g) 0x20000 = none ∧ s.works = [] ∧ s.twins = [] ∧
    (labLeaf g 0x1E3).atWork 2 g (.ckout (mf 0 3 1)) ∧ ((labLeaf g 0x1E3).translateBx 0 0 Bx.invalid 0x20000 4096 .block).1 = .ok pageLeaf ∧
    s.atWork 2 g (.ckin (mf 0 3 1)) ∧ w.atWork 2 g (.ckin (mf 0 3 1)) ∧ w.workOf (w.ctxOf g) 0x20000 = some (Regs.set [] 5 7#8) ∧
    KMap.look w.twins 0x20 = some ⟨[], 1⟩ ∧ s.mergesAway 0 0x20000 = false ∧ s.poison = [] ∧ s.incs = [] ∧ s.remote = [] ∧
    s.hostLines = [] ∧ s.backInv = [] :=
  ⟨labLeaf_atWork _ _ _ rfl, of_leafIs (by decide +kernel), rfl, rfl, rfl, labLeaf_atWork _ _ _ rfl, of_leafIs (by decide +kernel),
    labLeaf_atWork _ _ _ rfl, ⟨rfl, rfl, rfl⟩, by decide +kernel, rfl, by decide +kernel, rfl, rfl, rfl, rfl, rfl⟩

theorem test_wit_Misaligned :
    let g := gset labG [(2, 0x100004#32)]
    (lab g).atWork 2 g (.brx (rf 0 255 2 255 255)) ∧ (g.rgPair 0 2#8).toNat % 8 ≠ 0 ∧
    (lab (locG 6#32)).atWork 2 (locG 6#32) (.ld (mf 4 3 1)) ∧ (lab (locG 6#32)).mayIssue (locG 6#32) ⟨mf 4 3 1, .load false, 4, 1⟩ ∧
    (lab (locG 6#32)).ignores 2 = false ∧
    ((locG 6#32).enabled 0 hd7).filter (fun j => (⟨mf 4 3 1, .load false, 4, 1⟩ : MemOp).va (locG 6#32) 0 j % 4 != 0) = [0] :=
  ⟨lab_atWork _ _ rfl, by decide +kernel, lab_atWork _ _ rfl, ⟨rfl, rfl, by decide +kernel, by decide +kernel, by decide +kernel⟩, by decide +kernel, by decide +kernel⟩

theorem test_wit_PrefetchAndXlat :
    let x : MFmt := { mf 0 3 4 with scope := 0#4 }
    let g := gset labG [(4, 0x20000#32)]
    let gl := gset labG [(4, 0xFFFFFFFF#32), (5, 0x01FFFFFF#32)]
    let gn := gset labG [(5, 1#32)]
    (lab (laneG 0#32)).atWork 2 (laneG 0#32) (.prf (mf 1 255 1)) ∧
    (lab g).atWork 2 g (.xlat x) ∧ ((lab g).leafOf 0 0 (g.rgPair 0 4#8).toNat).1 = .ok pageLeaf ∧ isLocal (g.rgPair 0 4#8).toNat = false ∧
    (lab gl).atWork 2 gl (.xlat x) ∧ isLocal (gl.rgPair 0 4#8).toNat = true ∧
    (lab gn).atWork 2 gn (.xlat x) ∧ ((lab gn).leafOf 0 0 (gn.rgPair 0 4#8).toNat).1 = .error (0, 1) :=
  ⟨lab_atWork _ _ rfl, lab_atWork _ _ rfl, of_leafIs (by decide +kernel), by decide +kernel, lab_atWork _ _ rfl, by decide +kernel,
    lab_atWork _ _ rfl, of_failIs (by decide +kernel)⟩

theorem test_wit_TagTable :
    let h : Half := { labH with tagEnt := 8, spad := (Regs.setSlice [] 0 (List.replicate 32 0xFF#8)).setSlice 4 (leBytes 4 6) }
    let f : MFmt := { mf 0 4 1 with scope := 0#4 }
    let g := laneG 6#32
    let gt := vset (laneG 6#32) [(4, 7#32)]
    (labHalf g h).atWork 2 g (.lkup f) ∧ h.tagEnt ≠ 0 ∧ (labHalf g h).memStalls g 0 0 [] = false ∧ g.wc.get 3 ≠ 255#8 ∧
    h.spadPoison = [] ∧ (g.rv 0 1#8 0).toNat % (h.tagEnt / 4) = 0 ∧ (labHalf g h).tagAt 1 h 1 = g.rv 0 1#8 0 ∧
    (labHalf g h).tagAt 1 h 0 = 0xFFFFFFFF#32 ∧
    (labHalf gt h).atWork 2 gt (.tagset f) ∧ gt.enabled 0 f.hd = [0] ∧ (gt.rv 0 4#8 0).toNat < h.tagEnt :=
  ⟨labHalf_atWork _ _ _ rfl, by decide, by decide +kernel, by decide +kernel, rfl, by decide +kernel, by decide +kernel, by decide +kernel,
    labHalf_atWork _ _ _ rfl, by decide +kernel, by decide +kernel⟩

/-! ### Witnesses: fences, waits, barriers, copies -/

/-- A memory-shaped instruction without registers at device scope. -/
def nf (d : BitVec 8) (off : BitVec 16) : MFmt := ⟨hd7, 0#4, off, 0#4, 6#4, 0#3, 255#8, d, 0#4⟩
/-- A group with a store on its way. -/
def busyG (g : Group) : Group := { g with gwPend := [5#64] }

theorem test_wit_Fences :
    let g := gset labG [(4, 3#32)]
    let c : Ctx := { placeCtx with regions := [(3, ⟨0x20000#64, true, true, 0⟩)] }
    let s := labCtx g c
    (lab labG).atWork 2 labG (.fence (nf 255 0)) ∧ (lab labG).fenceDone 2 labG 6 none = true ∧ (lab labG).quiet 2 labG ∧
    (lab (busyG labG)).atWork 2 (busyG labG) (.fence (nf 255 0)) ∧ (lab (busyG labG)).fenceDone 2 (busyG labG) 6 none = false ∧
    (lab labG).atWork 2 labG (.trigger (yf 0 255 255 255 0#16)) ∧
    (lab (busyG labG)).atWork 2 (busyG labG) (.trigger (yf 0 255 255 255 0#16)) ∧
    s.atWork 2 g (.round (nf 4 0)) ∧ (g.rg 0 4#8).toNat = 3 ∧ KMap.look s.ctxs (s.ctxOf g) = some c ∧
    KMap.look c.regions 3 = some ⟨0x20000#64, true, true, 0⟩ ∧
    (lab g).atWork 2 g (.qfence (nf 4 0x01FF#16)) ∧ KMap.look (lab g).halves g.hid = some labH ∧ (lab g).cloveCount 0 < 512 ∧
    (lab { labG with fences := [⟨6, .nothing, 1⟩] }).atWork 2 { labG with fences := [⟨6, .nothing, 1⟩] } (.fence (nf 255 0)) :=
  ⟨lab_atWork _ _ rfl, by decide +kernel, lab_quiet _ (by decide +kernel), lab_atWork _ _ rfl, by decide +kernel, lab_atWork _ _ rfl,
    lab_atWork _ _ rfl, labCtx_atWork _ _ _ rfl, by decide +kernel, rfl, rfl, lab_atWork _ _ rfl, rfl, by decide +kernel,
    lab_atWork _ _ rfl⟩

/-- The half with a barrier object of 2 expected arrivals at offset 8, with one arrival, in phase 0. -/
def barH (n : Nat) : Half := { labH with spad := Regs.setSlice [] 8 (leBytes 8 n) }
/-- Where the object stands. -/
def barAt : LPlace := ⟨1, false, 8⟩
/-- The group with the object's offset, parity and counts in registers. -/
def barG : Group := gset labG [(4, 8#32), (5, 1#32), (7, 16#32)]

theorem test_wit_Waits :
    let s := labHalf barG (barH (2 + 2 ^ 12))
    let w := { lab labG with launches := [(1, { placeLaunch with early := true, preds := [7] }), (7, placeLaunch)] }
    s.atWork 2 barG (.waitb (yf 0 4 5 255 0#16)) ∧ s.objPlace 1 (barG.rg 0 4#8) = some barAt ∧
    (s.barObj barAt).phase ≠ (barG.rg 0 5#8).getLsbD 0 ∧ (s.barObj barAt).phase = (barG.rg 0 6#8).getLsbD 0 ∧
    s.atWork 2 barG (.waitc (yf 0 255 5 255 2#16)) ∧ (barG.wc.get 2).toNat ≤ (barG.rg 0 5#8).toNat ∧
    s.atWork 2 barG (.drain (yf 0 255 255 255 0x36#16)) ∧ s.channelIds 0 3 = [] ∧ s.visible = [] ∧
    s.atWork 2 barG (.waitpred (yf 0 255 255 255 0#16)) ∧ s.predsDone 1 = true ∧
    w.atWork 2 labG (.waitpred (yf 0 255 255 255 0#16)) ∧ w.predsDone 1 = false :=
  ⟨labHalf_atWork _ _ _ rfl, by decide +kernel, by decide +kernel, by decide +kernel, labHalf_atWork _ _ _ rfl, by decide +kernel,
    labHalf_atWork _ _ _ rfl, by decide +kernel, rfl, labHalf_atWork _ _ _ rfl, by decide +kernel, ⟨rfl, rfl, rfl⟩, by decide +kernel⟩

theorem test_wit_BarrierObjects :
    let s := labHalf barG (barH (2 + 2 ^ 12))
    s.objPlace 1 (barG.rg 0 4#8) = some barAt ∧ s.atWork 2 barG (.barinit (yf 0 4 7 6 0#16)) ∧ s.waiters barAt = [] ∧
    (barG.rg 0 7#8).toNat = 16 ∧ s.atWork 2 barG (.arrive (yf 0 4 255 6 1#16)) ∧ s.atWork 2 barG (.arrive (yf 1 4 7 255 1#16)) ∧
    barG.held = [] ∧ s.barObj barAt = ⟨2, 1, false, 0#32, 0⟩ ∧ s.arrivals = [] ∧ s.atWork 2 barG (.tryw (yf 0 4 5 3 0#16)) ∧
    (∃ a : Arrival, a = ⟨1, 8, 1, 5#32, 2⟩ ∧ a.hid = barAt.hid ∧ a.off = barAt.off ∧ (s.barObj barAt).current + a.count < 4096) ∧ s.l1 = [] ∧
    (s.barObj barAt).phase ≠ (barG.rg 0 5#8).getLsbD 0 :=
  ⟨by decide +kernel, labHalf_atWork _ _ _ rfl, by decide +kernel, by decide +kernel, labHalf_atWork _ _ _ rfl, labHalf_atWork _ _ _ rfl,
    rfl, by decide +kernel, rfl, labHalf_atWork _ _ _ rfl, ⟨_, rfl, rfl, rfl, by decide +kernel⟩, rfl, by decide +kernel⟩

theorem test_wit_TeamBarriers :
    let g := gset labG [(5, 3#32)]
    let other (b : Blk) : Group := { labG with idx := 1, sched := .blocked b }
    let rec2 : Launch := { placeLaunch with lr := { placeLaunch.lr with groups := 2 } }
    let s : State := { labHalf g { labH with bar := [3] } with groups := [(2, g), (3, other .bar)] }
    let m : State := { labHalf g { labH with barm := [(1, (3, [3]))] } with
      groups := [(2, g), (3, other (.barm 1 3))], launches := [(1, rec2)] }
    s.atWork 2 g (.bar (yf 0 255 255 255 0#16)) ∧ KMap.look s.halves g.hid = some { labH with bar := [3] } ∧
    KMap.sorted s.groups = true ∧ s.liveGids 1 = [2, 3] ∧
    m.atWork 2 g (.barm (yf 0 255 5 255 1#16)) ∧ (g.rg 0 5#8).toNat = 3 ∧ g.idx = 0 ∧
    ((m.lrOf { labH with barm := [(1, (3, [3]))] }).map (fun r => r.groups)).getD 0 = 2 ∧ m.liveGids 1 = [2, 3] :=
  ⟨⟨rfl, rfl, rfl⟩, rfl, by decide, by decide +kernel, ⟨rfl, rfl, rfl⟩, by decide +kernel, rfl, rfl, by decide +kernel⟩

/-- Sixteen bytes in a row. -/
def row16 : LayHandle := ⟨⟨11, 1, 0, [16, 0, 0, 0, 0], [1, 0, 0, 0, 0]⟩, 0x20000, 64⟩
/-- The context with handles 0 and 1 of one record. -/
def layCtx : Ctx := { placeCtx with layouts := [(0, row16), (1, row16)] }
/-- The group with a copy block in `g8` and on: handles 0 and 1, bases, an issue time. -/
def cpyG (w0 sb db time : Word) : Group := gset labG [(4, 8#32), (5, 1#32), (8, w0), (10, sb), (12, db), (14, time)]

theorem test_wit_Copies :
    let g := cpyG 0x10000#32 0x20000#32 0x20010#32 5#32
    let s := labCtx g layCtx
    let far := cpyG 0x10000#32 0x20000#32 0x20010#32 0#32
    let late : Group := { far with g := far.g.set 15 2#32 }
    let odd := cpyG 0x11000#32 0x20000#32 0x20010#32 0#32
    let none2 := cpyG 0x10002#32 0x20000#32 0x20010#32 0#32
    let low := cpyG 0x10000#32 0x1FFFF#32 0x20010#32 0#32
    s.atWork 2 g (.cpy (yf 0 8 255 255 2#16)) ∧ s.layout 0 0 = some row16 ∧ s.layout 0 1 = some row16 ∧
    copyBad s.chipTime 0 row16 row16 0 1 0x20000 0x20010 none none 5#64 = none ∧ s.copyFull 0 5#64 = false ∧ s.chipTime = 0 ∧
    (g.rgPair 0 10#8).toNat = 0x20000 ∧ g.rgPair 0 14#8 = 5#64 ∧
    s.atWork 2 g (.cpy (yf 0 8 255 4 0#16)) ∧ s.objPlace 1 (g.rg 0 4#8) = some barAt ∧
    (labCtx { g with em := 1#64 } layCtx).atWork 2 { g with em := 1#64 } (.cpyx (yf 0 8 2 255 0#16)) ∧
    Group.enabled { g with em := 1#64 } 0 hd7 = [0] ∧
    copyBad s.chipTime 0 row16 row16 0 1 0x20000 0x20010 (some 1) none 5#64 = none ∧
    s.atWork 2 g (.cpym (yf 0 8 5 4 0#16)) ∧ s.gangDsts labH 1 = ([(0, 1)], false) ∧
    copyBad s.chipTime 0 row16 row16 0 1 0x20000 0x20010 none (some (1, false)) 5#64 = none ∧
    (labCtx odd layCtx).atWork 2 odd (.cpy (yf 0 8 255 255 0#16)) ∧ (odd.rg 0 8#8).toNat / 4096 % 16 ≠ 0 ∧
    (labCtx none2 layCtx).layout 0 2 = none ∧ (none2.rg 0 8#8).toNat % 4096 = 2 ∧
    row16.fits (low.rgPair 0 10#8).toNat = false ∧ row16.fits 0x20000 = true ∧ row16.fits 0x20010 = true ∧
    s.chipTime + 2 ^ 32 < (late.rgPair 0 14#8).toNat :=
  ⟨labCtx_atWork _ _ _ rfl, rfl, rfl, by decide +kernel, by decide +kernel, rfl, by decide +kernel, by decide +kernel,
    labCtx_atWork _ _ _ rfl, by decide +kernel, labCtx_atWork _ _ _ rfl, by decide +kernel, by decide +kernel, labCtx_atWork _ _ _ rfl,
    by decide +kernel, by decide +kernel, labCtx_atWork _ _ _ rfl, by decide +kernel, rfl, by decide +kernel, by decide +kernel, by decide +kernel,
    by decide +kernel, by decide +kernel⟩

/-! ### Witnesses: layouts, gates, traps, special registers, sequences -/

/-- A table of `n` handles of one record. -/
def handles (n : Nat) (r : LayHandle) : KMap LayHandle := (List.range n).map (fun i => (i, r))
theorem handles_isSome (n : Nat) (r : LayHandle) (k : Nat) (h : k < n) : (KMap.look (handles n r) k).isSome = true := by
  have e : ∀ l : List Nat, k ∈ l → (KMap.look (l.map (fun i => (i, r))) k).isSome = true := by
    intro l
    induction l with
    | nil => intro hk; cases hk
    | cons x t ih =>
      intro hk
      by_cases hx : x = k
      · simp [KMap.look, hx]
      · have : k ∈ t := by simpa [Ne.symm hx] using hk
        simpa [KMap.look, Ne.symm hx] using ih this
  exact e _ (by simpa using h)

/-- A half whose local memory holds a layout image of 16 bytes in a row at offset 64. -/
def imageH : Half := { labH with spad := ((Regs.setSlice [] 64 (leBytes 4 0x1B)).setSlice 68 (leBytes 4 16)).setSlice 88 (leBytes 8 1) }
/-- The group with the image's address, an allocation and a handle. -/
def mkG : Group := gset labG [(4, 64#32), (5, 0x01FFFFFF#32), (8, 0x20000#32), (10, 64#32), (12, 1#32)]

/-- The context with every handle in use. -/
def fullCtx : Ctx := { placeCtx with layouts := handles 4096 row16 }
theorem fullCtx_all : ∀ k < 4096, (KMap.look fullCtx.layouts k).isSome = true := by
  intro k h
  have e : fullCtx.layouts = handles 4096 row16 := by simp only [fullCtx]
  rw [e]
  exact handles_isSome _ _ _ h

theorem test_wit_LayoutHandles :
    let s : State := { labHalf mkG imageH with ctxs := [(0, layCtx)] }
    let w : State := { labHalf mkG imageH with ctxs := [(0, fullCtx)] }
    let p : LPlace := ⟨1, false, 64⟩
    s.atWork 2 mkG (.mklay (yf 0 3 4 8 0#16)) ∧ w.atWork 2 mkG (.mklay (yf 0 3 4 8 0#16)) ∧ isLocal (mkG.rgPair 0 4#8).toNat = true ∧
    (mkG.rgPair 0 4#8).toNat % 64 = 0 ∧ s.localPlace 1 ((mkG.rgPair 0 4#8).toNat - 0x01FFFFFF00000000) 64 = some p ∧
    s.locPoisoned p 64 = false ∧ layoutOf (s.locBytes p 64) = row16.lay ∧
    (layoutOf (s.locBytes p 64)).bad (leNat ((s.locBytes p 64).take 4)) (mkG.rgPair 0 10#8).toNat = false ∧
    (∀ k < 4096, (KMap.look fullCtx.layouts k).isSome = true) ∧
    KMap.look layCtx.layouts 2 = none ∧ (∀ x < 2, (KMap.look layCtx.layouts x).isSome = true) ∧
    s.atWork 2 mkG (.rmlay (yf 0 255 12 255 0#16)) ∧ (mkG.rg 0 12#8).toNat = 1 ∧
    s.atWork 2 mkG (.rmlay (yf 0 255 8 255 0#16)) ∧ KMap.look layCtx.layouts (mkG.rg 0 8#8).toNat = none :=
  ⟨⟨rfl, rfl, rfl⟩, ⟨rfl, rfl, rfl⟩, by decide +kernel, by decide +kernel, by decide +kernel, by decide +kernel, by decide +kernel,
    by decide +kernel, fullCtx_all, rfl, by decide +kernel, ⟨rfl, rfl, rfl⟩, by decide +kernel, ⟨rfl, rfl, rfl⟩,
    by decide +kernel⟩

/-- Whether an answer is some value. -/
def okIs {ε α : Type} [DecidableEq α] (r : Except ε α) (a : α) : Bool :=
  match r with
  | .ok x => x == a
  | .error _ => false
theorem of_okIs {ε α : Type} [DecidableEq α] {r : Except ε α} {a : α} (h : okIs r a = true) : r = .ok a := by
  cases r with
  | error e => cases h
  | ok x => exact congrArg Except.ok (by simpa [okIs] using h)
/-- Whether an answer is good. -/
def isOk {ε α : Type} (r : Except ε α) : Bool :=
  match r with
  | .ok _ => true
  | .error _ => false
theorem of_isOk {ε α : Type} {r : Except ε α} (h : isOk r = true) : ∃ x, r = .ok x := by
  cases r with
  | error e => cases h
  | ok x => exact ⟨x, rfl⟩

theorem test_wit_Gates :
    let e : MapEnt := ⟨0, 3, 3, ⟨11, 1, 0, [64, 0, 0, 0, 0], [1, 0, 0, 0, 0]⟩⟩
    let m : Image := { placeImage 0x9#64 with routines := [0], maps := [[e]] }
    let s : State := { lab labG with images := [(1, m)] }
    let g : Group := { labG with em := 1#64 }
    s.atWork 2 labG (.gate ⟨hd7, 0#32, 255#8, 0#4⟩) ∧ KMap.look s.halves 1 = some labH ∧ labH.tile = some (Tile.fresh 0 4) ∧ labH.gate = none ∧
    labH.gateArr = [] ∧ s.liveGids 1 = [2] ∧ KMap.sorted s.groups = true ∧ labG.em = labG.live ∧ labH.spadBanks = 1 ∧
    s.gateChecks labH [labG] 0#32 = .ok ([e], 0) ∧ (∀ c < 4, labG.wc.get c = 0#8) ∧ labG.held = [] ∧ s.arrivals = [] ∧
    (lab g).atWork 2 g (.gate ⟨hd7, 0#32, 255#8, 0#4⟩) ∧ g.em ≠ g.live :=
  ⟨⟨rfl, rfl, rfl⟩, rfl, rfl, rfl, rfl, by decide +kernel, rfl, rfl, rfl, of_okIs (by decide +kernel), by decide +kernel, rfl, rfl,
    lab_atWork _ _ rfl, by decide +kernel⟩

theorem test_wit_RegistersOnDemand :
    let small : Group := { labG with n := 64 }
    let s := lab small
    KMap.look s.halves 1 = some labH ∧ s.lrOf labH = some placeLaunch.lr ∧ s.atWork 2 small (.reggrow (yf 0 3 255 255 192#16)) ∧
    small.n + 192 ≤ placeLaunch.lr.regmax ∧ s.grow = [] ∧ s.regsUsed (s.quarterOf small) + 192 * small.width ≤ 32768 ∧
    s.atWork 2 small (.reggrow (yf 0 3 255 255 200#16)) ∧ placeLaunch.lr.regmax < small.n + 200 ∧
    s.atWork 2 small (.regshr (yf 0 3 255 255 56#16)) ∧ 56 + 8 ≤ small.n ∧ small.landings = [] :=
  ⟨rfl, rfl, lab_atWork _ _ rfl, by decide, rfl, by decide +kernel, lab_atWork _ _ rfl, by decide, lab_atWork _ _ rfl, by decide, rfl⟩

theorem test_wit_IllegalAndUserTraps :
    let i : Instr := .iadd (rf 5 3 1 2 255)
    decodeLane (encode i) = .ok i ∧ (lab labG).cur = .group 2 ∧ KMap.look (lab labG).groups 2 = some labG ∧
    (∃ c, i.check labG.n = some c) ∧ tarnOp i = false ∧ decodeLane (encode (.kvapp (yf 0 3 6 255 3#16))) = .ok (.kvapp (yf 0 3 6 255 3#16)) ∧
    (∃ c, (Instr.kvapp (yf 0 3 6 255 3#16)).check labG.n = some c ∧ kvLate c = false) ∧
    (lab labG).atWork 2 labG (.trap (yf 0 255 255 255 0xFFFF#16)) :=
  ⟨of_okIs (by decide +kernel), rfl, rfl, ⟨_, rfl⟩, rfl, of_okIs (by decide +kernel), ⟨_, rfl, rfl⟩, lab_atWork _ _ rfl⟩

theorem test_wit_TrapContainment :
    let p (x y z w : Nat) : LaunchRec → LaunchRec := fun r => { r with polgrp := x, polteam := y, polgrid := z, polctx := w }
    let s (x : Nat) : State := labRec labG (p x 3 3 3)
    (∀ x < 4, KMap.look (s x).groups 2 = some labG ∧ KMap.look (s x).halves 1 = some labH ∧
      (s x).lrOf labH = some (p x 3 3 3 placeLaunch.lr) ∧ KMap.look (s x).ctxs 0 = some placeCtx) ∧
    labG.sched ≠ .exited ∧ (illegalRec 6 0#64 0#64).code ≠ 5 ∧ (labG.retries.get 0).toNat < 3 ∧ labH.gateArr = [] :=
  ⟨fun _ _ => ⟨rfl, rfl, rfl, rfl⟩, by decide +kernel, by decide +kernel, by decide +kernel, rfl⟩

theorem test_wit_Breakpoint :
    let s : State := { lab labG with attached := [0] }
    (lab labG).atWork 2 labG (.bkpt (imf 0 255 255 9#16)) ∧ (lab labG).ctxOf labG ∉ (lab labG).attached ∧
    s.atWork 2 labG (.bkpt (imf 0 255 255 9#16)) ∧ s.ctxOf labG ∈ s.attached :=
  ⟨lab_atWork _ _ rfl, by decide +kernel, ⟨rfl, rfl, rfl⟩, by decide +kernel⟩

theorem test_wit_SpecialRegisters :
    let g := gset labG [(4, 0x3F#32), (5, 0x40#32)]
    (lab g).atWork 2 g (.gets (yf 0 3 255 255 0x19#16)) ∧ (lab g).atWork 2 g (.gets (yf 0 3 255 255 0x11#16)) ∧
    g.olds (kfx 0) = [] ∧ KMap.look (lab g).halves g.hid = some labH ∧ (lab g).lrOf labH = some placeLaunch.lr ∧
    KMap.look (lab g).ctxs 0 = some placeCtx ∧
    (lab g).atWork 2 g (.sets (yf 0 255 4 255 0x10#16)) ∧ (g.rg 0 4#8).toNat < 64 ∧ (lab g).atWork 2 g (.sets (yf 0 255 5 255 0x10#16)) ∧
    64 ≤ (g.rg 0 5#8).toNat ∧ (lab g).atWork 2 g (.sets (yf 0 255 4 255 0x0C#16)) ∧ (lab g).atWork 2 g (.sets (yf 0 255 4 255 0x0D#16)) ∧
    (lab g).atWork 2 g (.sets (yf 0 255 4 255 0x11#16)) :=
  ⟨lab_atWork _ _ rfl, lab_atWork _ _ rfl, by decide +kernel, rfl, rfl, rfl, lab_atWork _ _ rfl, by decide +kernel, lab_atWork _ _ rfl,
    by decide +kernel, lab_atWork _ _ rfl, lab_atWork _ _ rfl, lab_atWork _ _ rfl⟩

/-- A small Tarn: 2 sequences, 4 pages of 64 rows, FP16 pools of 4 frames. -/
def kvCfg (n : Nat) : TarnCfg :=
  ⟨0x20000, 0x21000, 0x22000, 0x23000, 0x24000, n, 4, 2, 32, 0, 64, 0, 0x30000, 0x40000, 4, 0x50000, 0x60000, 0x70000, 0x78000, 4⟩
/-- The machine whose sequence 0 has one row, in page 0 of frame 1. -/
def kvS (g : Group) (n : Nat) : State :=
  let s := labCtx g { placeCtx with tarn := some (kvCfg n) }
  { s with
    mem := ((s.mem.setSlice 0x20000 (leBytes 8 (1 + 2 ^ 8 + 2 ^ 32))).setSlice 0x20008 (leBytes 8 (1 + 2 ^ 32))).setSlice 0x21000
      (leBytes 8 (1 + 2 ^ 32 + 2 ^ 48)) }
/-- Its Tarn unit at work. -/
def kvK (g : Group) (n : Nat) : Kv := ⟨⟨kvS g n, 0, { placeCtx with tarn := some (kvCfg n) }, 0⟩, kvCfg n⟩

theorem test_wit_Sequences :
    let k := kvK labG 2
    KMap.look (kvS labG 2).ctxs 0 = some k.c ∧ k.c.tarn = some (kvCfg 2) ∧ labG.wc.get 3 ≠ 255#8 ∧
    (kvS labG 2).quiet 2 labG ∧
    (kvS labG 2).atWork 2 labG (.kvnew (yf 0 3 255 255 0#16)) ∧ (∃ x, k.new = .ok x) ∧
    (kvS labG 2).atWork 2 labG (.kvfork (yf 0 3 4 255 0#16)) ∧ (∃ x, k.fork 0 = .ok x) ∧
    (kvS labG 2).atWork 2 labG (.kvapp (yf 0 4 6 255 3#16)) ∧ (∃ x, k.app 0 3 = .ok x) ∧
    (kvS labG 2).atWork 2 labG (.kvmap (yf 3 4 6 8 0#16)) ∧ (∃ x, k.map 3 4#8 0 0 [0, 15] = .ok x) ∧
    (kvS labG 2).atWork 2 labG (.kvret (yf 0 4 6 255 3#16)) ∧ (∃ x, k.ret 0 3 = .ok x) ∧
    (kvS labG 2).atWork 2 labG (.kvfree (yf 0 255 6 255 0#16)) ∧ (∃ x, k.free 0 = .ok x) ∧
    (kvS labG 2).atWork 2 labG (.kvcpt (yf 0 4 6 255 0#16)) ∧ (∃ x, k.cpt 0 = .ok x) ∧
    (kvK labG 1).t.nseq = 1 ∧ ∃ b, (kvK labG 1).raw ((kvK labG 1).t.seqbase + 16 * 0) 1 = .ok b ∧ leNat b % 2 = 1 :=
  ⟨rfl, rfl, by decide +kernel, ⟨rfl, rfl, rfl, rfl, by decide +kernel, rfl, nofun, nofun⟩, ⟨rfl, rfl, rfl⟩, of_isOk (by decide +kernel),
    ⟨rfl, rfl, rfl⟩, of_isOk (by decide +kernel), ⟨rfl, rfl, rfl⟩, of_isOk (by decide +kernel), ⟨rfl, rfl, rfl⟩,
    of_isOk (by decide +kernel), ⟨rfl, rfl, rfl⟩, of_isOk (by decide +kernel), ⟨rfl, rfl, rfl⟩, of_isOk (by decide +kernel),
    ⟨rfl, rfl, rfl⟩, of_isOk (by decide +kernel), rfl, [1#8], of_okIs (by decide +kernel), by decide⟩

/-- Every byte of the small Tarn lies between its table of sequences and the end of its pools, off the page tables. -/
theorem kvCfg_owns {va : Nat} (h : (kvCfg 2).owns va) : 0x20000 ≤ va ∧ va < 0x80000 := by
  obtain ⟨a, ha, h1, h2⟩ := h
  have : ∀ a ∈ (kvCfg 2).areas, 0x20000 ≤ a.1 ∧ a.1 + a.2 ≤ 0x80000 := by decide +kernel
  have := this a ha
  omega
theorem kv_memNat (s : State) (h : ∀ a, (∀ va, (kvCfg 2).owns va → paOf (fun _ => pageLeaf) va ≠ a) → s.mem.get a = (kvK labG 2).s.mem.get a)
    (b : Nat) (hb : b + 8 ≤ 0x20000) : s.memNat b 8 = (kvK labG 2).s.memNat b 8 := by
  refine congrArg leNat (List.map_congr_left fun i hi => h _ fun va ho he => ?_)
  have := kvCfg_owns ho
  have := List.mem_range.1 hi
  simp only [paOf, Leaf.pa, pageLeaf] at he
  omega
theorem kv_leaf (s : State) (hp : s.parts = (kvK labG 2).s.parts)
    (h : ∀ a, (∀ va, (kvCfg 2).owns va → paOf (fun _ => pageLeaf) va ≠ a) → s.mem.get a = (kvK labG 2).s.mem.get a)
    (va : Nat) (w : Bool) (hv : va < 0x80000) : ({ (kvK labG 2).toHome with s := s } : Home).leaf va w = .ok pageLeaf := by
  have i0 : bitsOf va 56 39 = 0 := by simp only [bitsOf]; omega
  have i1 : bitsOf va 38 30 = 0 := by simp only [bitsOf]; omega
  have e0 : s.tableEnt va 0 0x10000 = 0x11001 := by
    rw [State.tableEnt, i0, kv_memNat s h 0x10000 (by decide)]; decide +kernel
  have e1 : s.tableEnt va 1 0x11000 = 0x1E3 := by
    rw [State.tableEnt, i1, kv_memNat s h 0x11000 (by decide)]; decide +kernel
  have hs : ∀ a n, s.tableOk (kvK labG 2).c a n = (kvK labG 2).s.tableOk (kvK labG 2).c a n := by
    have h1 : s.share (kvK labG 2).c = (kvK labG 2).s.share (kvK labG 2).c := by rw [State.share, State.share, hp]
    intro a n
    rw [State.tableOk, State.tableOk, h1]
  have ht : s.tableOk (kvK labG 2).c 0x11000 4096 = true := by rw [hs]; decide +kernel
  have hf : s.frameOk (kvK labG 2).c 0 (2 ^ 30) = true := by rw [State.frameOk, hs]; decide +kernel
  have n0 : s.nextTable (kvK labG 2).c (fun _ _ => none) va 0 0x10000 = some 0x11000 := by
    simp only [State.nextTable, e0]
    rw [show bitsOf 0x11001 51 8 * 256 = 0x11000 from by decide, if_pos (show (0 : Nat) < 2 from by decide), ht]
    decide
  have n1 : s.nextTable (kvK labG 2).c (fun _ _ => none) va 1 0x11000 = none := by
    simp only [State.nextTable, e1]
    rw [show bitOf 0x1E3 1 = true from by decide]
    simp
  have hz : va / 2 ^ 30 * 2 ^ 30 = 0 := by omega
  have hw : s.walkCtx (kvK labG 2).c va = .ok pageLeaf := by
    rw [State.walkCtx, if_neg (by omega), show (kvK labG 2).c.troot = 0x10000 from rfl, show (4 : Nat) = 2 + 1 + 1 from rfl, State.walk]
    simp only [n0]
    rw [State.walk]
    simp only [n1, e1, show leafBits (0 + 1) = 30 from rfl, show bitsOf 0x1E3 51 16 * 65536 = 0 from by decide, hf, hz]
    rfl
  have hr : isRegSpace (pageLeaf.pa va) = false := by
    simp only [isRegSpace, Leaf.pa, pageLeaf, Config.regBase]
    exact Bool.and_eq_false_imp.2 (fun h => by simp at h; omega)
  simp only [Home.leaf, Home.anyLeaf, hw, hr]
  cases w <;> rfl

theorem kv_blks : (kvK labG 2).blks 0 1 = .ok [0] := of_okIs (by decide +kernel)
theorem kv_desc : (kvK labG 2).desc 0 = .ok ⟨1, 0, 1, 1, 0⟩ := of_okIs (by decide +kernel)

theorem test_wit_SequencesComplete :
    let k := kvK labG 2
    let L : Nat → Leaf := fun _ => pageLeaf
    let e : KSeq := ⟨true, 1, 1, 1, 1⟩
    KMap.look (kvS labG 2).ctxs 0 = some k.c ∧ k.c.tarn = some (kvCfg 2) ∧ (kvCfg 2).sound ∧ (kvS labG 2).quiet 2 labG ∧
    labG.wc.get 3 ≠ 255#8 ∧ k.reaches L ∧
    (∀ i ∈ [Instr.kvnew (yf 0 3 255 255 0#16), .kvfork (yf 0 3 4 255 0#16), .kvapp (yf 0 4 6 255 3#16), .kvmap (yf 3 4 6 8 0#16),
      .kvret (yf 0 4 6 255 3#16), .kvfree (yf 0 255 6 255 0#16), .kvcpt (yf 0 4 6 255 0#16)], (kvS labG 2).atWork 2 labG i) ∧
    k.hasFree ∧ k.holds 0 e ∧ k.mayShare 0 e ∧ k.mayAppend 0 e ∧ k.apart L ∧ k.mayCompact 0 e := by
  refine ⟨rfl, rfl, by unfold TarnCfg.sound; decide, ⟨rfl, rfl, rfl, rfl, by decide +kernel, rfl, nofun, nofun⟩, by decide +kernel, ⟨?_, nofun, ?_⟩, ?_, ?_, ?_, ?_, ?_, ?_, ?_⟩
  · exact fun va h => ⟨Nat.zero_le _, List.not_mem_nil, List.not_mem_nil, List.not_mem_nil⟩
  · exact fun s hp h va w ho => kv_leaf s hp h va w (kvCfg_owns ho).2
  · intro i hi
    have hc : ([Instr.kvnew (yf 0 3 255 255 0#16), .kvfork (yf 0 3 4 255 0#16), .kvapp (yf 0 4 6 255 3#16), .kvmap (yf 3 4 6 8 0#16),
      .kvret (yf 0 4 6 255 3#16), .kvfree (yf 0 255 6 255 0#16), .kvcpt (yf 0 4 6 255 0#16)] : List Instr).all
        (fun i => i.check labG.n == none) = true := by decide +kernel
    exact ⟨rfl, rfl, by simpa using List.all_eq_true.1 hc i hi⟩
  · exact ⟨1, by decide, of_okIs (by decide +kernel)⟩
  · exact ⟨of_okIs (by decide +kernel), by decide, by decide⟩
  · intro bs hb d hd _ x hx
    have h0 := kv_blks
    have h1 := kv_desc
    obtain rfl := Except.ok.inj (h0.symm.trans hb)
    obtain rfl := List.mem_singleton.1 hd
    obtain rfl := Except.ok.inj (h1.symm.trans hx)
    decide
  · exact ⟨by decide, fun h => absurd h (by decide), fun _ => ⟨0, ⟨1, 0, 1, 1, 0⟩, of_okIs (by decide +kernel), by decide,
      of_okIs (by decide +kernel), by decide, fun h => absurd h (by decide)⟩⟩
  · exact ⟨by decide, fun va va' _ _ h => by simpa [paOf, Leaf.pa, pageLeaf] using h⟩
  · intro bs l hb hl
    have h0 := kv_blks
    have h1 := kv_desc
    have h2 : (kvK labG 2).liveRows 0 ⟨true, 1, 1, 1, 1⟩ [0] = .ok [(0, 0, 0)] := of_okIs (by decide +kernel)
    obtain rfl := Except.ok.inj (h0.symm.trans hb)
    obtain rfl := Except.ok.inj (h2.symm.trans hl)
    refine ⟨fun r hr x hx => ?_, by decide +kernel, by decide +kernel⟩
    obtain rfl := List.mem_singleton.1 hr
    obtain rfl := Except.ok.inj (h1.symm.trans hx)
    decide

/-! ### Witnesses: events of groups -/

theorem test_wit_RegisterArbiter :
    let w : Group := { labG with n := 64, sched := .blocked (.reggrow 8 3) }
    let s : State := { lab w with grow := [(3, [(2, 8, 3)])], halves := [(1, { labH with quarter := 3 })] }
    let y : Half := { labH with start := 9 }
    let v : Group := { labG with n := 160, width := 64, sched := .blocked (.reggrow 40 255) }
    let t : State := { lab v with
      grow := [(0, [(2, 40, 255), (4, 40, 255)])], halves := [(1, labH), (5, { y with team := 1 })]
      groups := [(2, v), (3, { v with idx := 1 }), (4, { v with hid := 5 })] }
    KMap.look s.grow (0 * 4 + 3) = some [(2, 8, 3)] ∧ KMap.look s.groups 2 = some w ∧ s.regsUsed 3 + 8 * w.width ≤ 32768 ∧
    KMap.look t.grow (0 * 4 + 0) = some ((2, 40, 255) :: [(4, 40, 255)]) ∧ KMap.look t.groups 2 = some v ∧
    32768 < t.regsUsed (0 * 4 + 0) + 40 * v.width ∧
    (∀ e ∈ t.groups, ∃ a d, e.2.sched = .blocked (.reggrow a d)) ∧ t.youngest 0 = some [5] ∧
    (∀ e ∈ t.halves, t.teamOver e.2 = true ∨ e.2.leaving ≠ 1) :=
  ⟨rfl, rfl, by decide +kernel, rfl, rfl, by decide +kernel,
    by intro e he; simp at he; rcases he with rfl | rfl | rfl <;> exact ⟨_, _, rfl⟩, by decide +kernel, by decide +kernel⟩

theorem test_wit_Rounds :
    let r : Region := ⟨0x20000#64, true, true, 0⟩
    let c : Ctx := { placeCtx with regions := [(0, r)] }
    let h : HeldI := ⟨9, 0#64, .ldb (mf 12 3 1), 1#64, Regs.set [] 0 0x30000#64, [], 0, none, false, [(0, 5#32)], 0#64⟩
    let g : Group := { labG with held := [h] }
    let b : Bcast := ⟨191, 0, 0, 7#32, 8192⟩
    let s : State := { labCtx g c with chipTime := 4096, incs := [(0, [⟨some 2, 5, true⟩])], bcasts := [b, ⟨3, 0, 1, 7#32, 8192⟩] }
    KMap.look s.ctxs 0 = some c ∧ KMap.look c.regions 0 = some r ∧ KMap.look s.incs (0 * 256 + 0) = some (⟨some 2, 5, true⟩ :: []) ∧
    s.walkCtx c r.cntva.toNat = .ok pageLeaf ∧ (∀ x, KMap.look s.groups 2 = some x → x.fences = []) ∧
    s.poisoned (pageLeaf.pa 0x20000) 4 = false ∧ s.hostHas (pageLeaf.pa 0x20000) 4 = false ∧ s.homeBusy (pageLeaf.pa 0x20000) = false ∧
    s.waits = [] ∧ b ∈ s.bcasts ∧ (∀ x ∈ s.bcasts, x.core = b.core → x.ctx = b.ctx → x.region = b.region → x.round = b.round) ∧
    KMap.look s.groups 2 = some g ∧ g.lateLanes = [(h, 0)] ∧ s.laneRegion g h 0 = some (0, r) ∧ h.time + 2 ^ (12 + r.tmo) ≤ s.chipTime ∧
    s.incBegun (s.ctxOf g * 256 + 0) = true ∧ { s with incs := [], chipTime := 4095 }.laneRegion g h 0 = some (0, r) ∧
    4095 < h.time + 2 ^ (12 + r.tmo) ∧ { s with incs := [] }.incBegun (s.ctxOf g * 256 + 0) = false :=
  ⟨rfl, rfl, rfl, of_okIs (by decide +kernel), by intro x hx; cases hx; rfl, by decide +kernel, by decide +kernel, by decide +kernel, rfl,
    by decide, by decide, rfl, by decide +kernel, by decide +kernel, by decide, by decide +kernel, by decide +kernel, by decide, by decide +kernel⟩

theorem test_wit_GroupEvents :
    let l : Landing := ⟨some 3, none, [], 0, [], 0⟩
    let a : Group := { labG with landings := [⟨some 0, some 9, [], 0, [1], 9⟩, l], gwPend := [5#64] }
    let w : Group := { labG with watch := 0x1000000#32 }
    let b : Group := { labG with sched := .blocked (.tryw 1 8 false 6 0) }
    let f : Group := { labG with fences := [⟨6, .nothing, 0⟩] }
    KMap.look (lab a).groups 2 = some a ∧ KMap.look (lab a).halves 1 = some labH ∧ a.fences = [] ∧ labH.gateArr = [] ∧
    a.landings[1]? = some l ∧ a.canLand (lab a).chipTime 1 = true ∧ a.gwPend = 5#64 :: [] ∧
    (lab w).lrOf labH = some placeLaunch.lr ∧ placeLaunch.lr.wdog = 0 ∧ w.sched = .ready ∧ w.stopped = false ∧ 2 ^ 24 ≤ w.watch.toNat ∧
    b.sched = .blocked (.tryw 1 8 false 6 0) ∧ 0 ≤ (lab b).chipTime ∧
    f.fences = [⟨6, .nothing, 0⟩] ∧ f.sched = .ready ∧ (lab f).fenceDone 2 f 6 none = true :=
  ⟨rfl, rfl, rfl, rfl, rfl, by decide +kernel, rfl, rfl, rfl, rfl, rfl, by decide, rfl, Nat.zero_le _, rfl, rfl, by decide +kernel⟩

/-! ### Witnesses: tile operations -/

/-- A tile context at its first bundle. -/
def tileT : Tile := { Tile.fresh 0 4 with valid := true, npc := 16, nnpc := 24, after := 32 }
/-- Its half, in an open gate, with scratchpad contents. -/
def tileH (t : Tile) (sp : Regs 8) : Half :=
  { placeHalf (some t) (some ⟨0#32, [], [2], [(0, 0xFFFF#64)]⟩) with spad := sp }
/-- Its image: a bundle of `cnop`. -/
def tileM : Image := placeImage 0x1#64
/-- The machine with the context at work. -/
def tileS (t : Tile) (sp : Regs 8) : State :=
  { lab labG with
    cur := .tile 1, halves := [(1, tileH t sp)], images := [(1, tileM)], ctxs := [(0, layCtx)]
    groups := [(2, { labG with sched := .blocked .gate })] }
/-- The operation's view of it. -/
def tileX (t : Tile) (sp : Regs 8) : TileX := ⟨tileS t sp, 1, tileH t sp, t, (tileS t sp).nextId⟩
/-- A general layout. -/
def gf (sub d a b c : BitVec 5) (imm : BitVec 16) (p : BitVec 3) (f1 f2 : BitVec 4) : GFmt := ⟨imm, f2, f1, p, c, b, a, d, sub⟩

theorem tile_atWork (t : Tile) (sp : Regs 8) (l : List Instr) (hc : l.all (fun i => i.check 256 == none) = true)
    (h1 : t.loops = []) (h2 : t.cfmNext = []) : ∀ i ∈ l, (tileS t sp).tileAtWork 1 (tileH t sp) t tileM i := by
  intro i hi
  have := List.all_eq_true.1 hc i hi
  exact ⟨rfl, rfl, rfl, rfl, by simpa using this, h1, h2⟩

theorem test_wit_TileScalars :
    ∀ i ∈ [Instr.cnop (gf 0 0 0 0 0 0 0 0 0), .cadd (gf 1 31 30 0 0 0x8000 0 0 0), .csub (gf 0 3 1 2 0 0 0 0 0), .cmul (gf 0 3 1 2 0 0 0 0 0),
      .cand (gf 1 3 1 0 0 0xFFFF 0 0 0), .cor (gf 0 3 1 2 0 0 0 0 0), .cxor (gf 0 3 1 2 0 0 0 0 0), .cshl (gf 0 3 1 2 0 0 0 0 0),
      .cshr (gf 1 3 1 0 0 31 0 0 0), .csar (gf 0 3 1 2 0 0 0 0 0), .cmov (gf 0 3 1 0 0 0 0 0 0), .ccmp (gf 0x12 3 1 0 0 0xFFFF 0 0 0),
      .ccmp (gf 0 3 1 2 0 0 0 0 0), .apadd (gf 0 7 0 15 0 0 0 0 0), .apadd (gf 1 7 0 0 0 0x8000 0 0 0), .cmovi ⟨0xFFFFFFFF, 0, 0, 3, 0⟩,
      .apset ⟨5, 0, 0, 7, 0⟩, .sdset ⟨5, 0, 0, 15, 0⟩, .lcset ⟨5, 0, 0, 3, 0⟩],
      (tileS tileT []).tileAtWork 1 (tileH tileT []) tileT tileM i :=
  tile_atWork _ _ _ (by decide +kernel) rfl rfl

theorem test_wit_TileJumps :
    (∀ i ∈ [Instr.jmp ⟨0x80000, 2, 0, 0, 0, 0⟩, .jc ⟨2, 0, 0, 1, 0, 5⟩, .jal ⟨0x7FFFF, 1, 0, 0, 31, 0⟩, .jr (gf 0 0 31 0 0 0 0 0 0),
      .loop ⟨4, 0, 0, 1, 3, 0⟩, .loop ⟨4, 0, 0, 0, 3, 1⟩], (tileS tileT []).tileAtWork 1 (tileH tileT []) tileT tileM i) ∧
    tileT.queued = 0 ∧ tileT.pc < (((tileT.pc : Int) + 8 * (4#20 : BitVec 20).toInt) % 2 ^ 64).toNat :=
  ⟨tile_atWork _ _ _ (by decide +kernel) rfl rfl, rfl, by decide +kernel⟩

/-- The machine with one command of half 1 in a queue. -/
def tileBusy : State :=
  { tileS tileT [] with
    queues := [(4, [⟨9, 0, 1, .tile 1, 0#32, .sdrop 0 16, none, 0#64, 0, none, 0, 3, false, 0, [], 0, 0, 0#32, 0⟩])] }

theorem test_wit_TileSpecials :
    let t : Tile := { tileT with c := [(4, 0x3F#32)] }
    (∀ i ∈ [Instr.cgets (gf 0 3 0 0 0 7 0 0 0), .csets (gf 0 0 4 0 0 0 0 0 0), .csets (gf 0 0 4 0 0 1 0 0 0), .csets (gf 0 0 4 0 0 11 0 0 0),
      .csets (gf 0 0 5 0 0 0x17 0 0 0), .gret (gf 0 0 0 0 0 0 0 0 0)], (tileS t []).tileAtWork 1 (tileH t []) t tileM i) ∧
    (t.rc 0 4).toNat < 64 ∧ t.rc 0 5 = 0#32 ∧ (t.stream (0x17 - 16)).level = 0 ∧ (tileS t []).entries = [] ∧
    tileBusy.tileAtWork 1 (tileH tileT []) tileT tileM (.gret (gf 0 0 0 0 0 0 0 0 0)) ∧ (∃ e ∈ tileBusy.entries, e.issuer = .tile 1) :=
  ⟨tile_atWork _ _ _ (by decide +kernel) rfl rfl, by decide +kernel, by decide +kernel, by decide +kernel, by decide +kernel,
    ⟨rfl, rfl, rfl, rfl, rfl, rfl, rfl⟩, by decide +kernel⟩

theorem test_wit_TileMemory :
    let t : Tile := { tileT with ap := [(1, 0x1000#64)] }
    let s := tileS t []
    let q : LPlace := ⟨1, false, 0x1000⟩
    (∀ i ∈ [Instr.cld (gf 0 3 0 0 0 0 1 0 0), .cst (gf 0 0 3 0 0 0 1 0 0), .vld (gf 0 3 0 0 0 0 1 0 0), .vld (gf 1 3 3 0 0 63 0 0 0),
      .vldb (gf 1 3 0 0 15 0 1 0 0), .vst (gf 0 0 3 0 0 0 1 0 0), .vst (gf 1 3 31 0 0 63 0 0 0)], s.tileAtWork 1 (tileH t []) t tileM i) ∧
    s.seqPlace 1 t 1 0 4 4 q ∧ s.seqPlace 1 t 1 0 512 64 q ∧ s.locPoisoned q 512 = false ∧ s.locPoisoned q 4 = false ∧
    s.inFrame { q with off := q.off + 4 - 1 } = false ∧ s.inFrame { q with off := q.off + 512 - 1 } = false ∧ 3 < t.grant ∧
    s.entries = [] :=
  ⟨tile_atWork _ _ _ (by decide +kernel) rfl rfl, ⟨by decide +kernel, by decide +kernel, by decide +kernel⟩,
    ⟨by decide +kernel, by decide +kernel, by decide +kernel⟩, by decide +kernel, by decide +kernel, by decide +kernel, by decide +kernel,
    by decide, by decide +kernel⟩

theorem test_wit_TileVectors :
    (∀ i ∈ [Instr.vcas ⟨6, 6, 0, 0, 0, 0, 0, true, 0, 0, 0, 2, 1, 30, 3⟩, .vcas ⟨6, 6, 3, 0, 0, 0, 0, false, 0, 0, 0, 2, 1, 31, 3⟩,
      .vcas ⟨6, 6, 7, 0, 0, 0, 0, false, 0, 0, 0, 2, 1, 31, 3⟩, .vcas ⟨0, 0, 0, 0, 0, 0, 0, false, 0, 0, 0, 2, 1, 31, 0⟩,
      .vcvt (gf 0 4 1 0 0 0 0 1 0), .vred (gf 0 31 1 0 0 0 0 0 0), .vbcast (gf 0 31 1 0 0 0 0 0 3), .vbcast (gf 1 31 1 0 0 127 0 0 0),
      .vperm (gf 0 31 1 2 0 0 0 0 0), .vsel (gf 0 31 1 2 3 0 0 0 0)], (tileS tileT []).tileAtWork 1 (tileH tileT []) tileT tileM i) :=
  tile_atWork _ _ _ (by decide +kernel) rfl rfl

/-- A record of 8192 FP32 words, as `ast` moves, one of 8 FP16 values, and their context. -/
def tileCtx : Ctx :=
  { placeCtx with
    layouts := [(0, row16), (1, row16), (2, ⟨⟨0, 1, 0, [8192, 0, 0, 0, 0], [4, 0, 0, 0, 0]⟩, 0x20000, 32768⟩),
      (3, ⟨⟨1, 1, 0, [16, 0, 0, 0, 0], [2, 0, 0, 0, 0]⟩, 0x20000, 64⟩), (4, ⟨⟨0, 1, 0, [16, 0, 0, 0, 0], [4, 0, 0, 0, 0]⟩, 0x20000, 64⟩)] }
/-- A context with a stream ring of 16 KiB at 0, handles 0 and 1 to records of 16 bytes, 2 to the FP32 words, 3 and 4. -/
def engT : Tile :=
  { tileT with
    c := [(4, 8#32), (5, 1#32), (6, 2#32), (9, 1#32), (10, 5#32)], ap := [(1, 0x1000#64)], q := [(7, ⟨0x00010000#32, 0, 0⟩)]
    t := (List.range 5).map (fun k => (k, BitVec.ofNat 64 (2 ^ 63 + k * 2 ^ 51 + 4 * 2 ^ 48)))
    xb := [(0, ⟨0x100#32, 0#4, 0#2, 0x20000#64, none⟩)] }
/-- Its machine. -/
def engS : State := { tileS engT [] with ctxs := [(0, tileCtx)] }
/-- An operation's view of it. -/
def engX : TileX := ⟨engS, 1, tileH engT [], engT, engS.nextId⟩
/-- The side and record of a handle. -/
def engTile (k : Nat) (l : LayHandle) : TileH := ⟨⟨.virt 0 0, 0x20000, l.lay, k⟩, l, 4⟩
/-- Four mask words of zeros. -/
def noMask : List DWord := [0#64, 0#64, 0#64, 0#64]

theorem eng_atWork (l : List Instr) (hc : l.all (fun i => i.check 256 == none) = true) :
    ∀ i ∈ l, engS.tileAtWork 1 (tileH engT []) engT tileM i := by
  intro i hi
  have := List.all_eq_true.1 hc i hi
  exact ⟨rfl, rfl, rfl, rfl, by simpa using this, rfl, rfl⟩

theorem test_wit_TileCommands :
    let h (k : Nat) : Option TileH := engX.handle (BitVec.ofNat 5 k)
    let row (k : Nat) : TileH := engTile k row16
    (∀ i ∈ [Instr.sfill (gf 3 7 0 0 0 0 0 0 0), .sfill (gf 7 7 0 4 0 0 0 0 0), .sdrop (gf 0 7 4 0 0 0 0 0 0), .mma (gf 0 3 7 7 0 0 0 1 1),
      .mmaz (gf 0 0 7 7 0 0 0 3 3), .ast (gf 1 2 3 0 0 0 0 0 0), .ald (gf 0 3 2 0 0 0 0 0 0), .amask (gf 0 3 4 5 0 0 1 0 0),
      .trn (gf 0 1 0 0 0 0x4688 0 0 0), .vgmv (gf 0 4 0 3 9 0 0 0 0), .tileCpy (gf 1 1 0 0 0 0 0 0 0), .tileCpyx (gf 0 1 0 0 5 0 0 0 0),
      .tileCpym (gf 0 1 0 0 5 0 0 0 0), .tileCpy (gf 8 1 0 0 10 0 0 0 0)], engS.tileAtWork 1 (tileH engT []) engT tileM i) ∧
    engX.ring 7 = true ∧ h 0 = some (row 0) ∧ h 1 = some (row 1) ∧ engS.copyFull 0 0#64 = false ∧ engS.copyBar 1 false [] 8#32 = some (1, 8) ∧
    (∃ x, h 2 = some x ∧ x.lh.lay.count = 8192) ∧ engS.localPlace 1 0x1000 32 = some ⟨1, false, 0x1000⟩ ∧
    engS.locPoisoned ⟨1, false, 0x1000⟩ 32 = false ∧ maskBad noMask = none ∧
    noMask = (List.range 4).map (fun j => BitVec.ofNat 64 (leNat (Machine.sub (engS.locBytes ⟨1, false, 0x1000⟩ 32) (8 * j) 8))) ∧
    permOk (trnPerm 0x4688#16) row16.lay.ndim = true ∧
    (∃ x, h 3 = some x ∧ x.lh.lay.fmt < 3 ∧ x.lh.lay.count ≤ 65535) ∧ (∃ x, h 4 = some x ∧ x.lh.lay.fmt = 0 ∧ 1 ≤ x.lh.lay.count) ∧
    copyBad 0 0 row16 row16 0 1 0x20000 0x20000 none none 0#64 = none ∧
    copyBad 0 0 row16 row16 0 1 0x20000 0x20000 (some row16.lay.outer) none 0#64 = none ∧ row16.lay.outer ≤ 128 ∧
    engS.gangDsts (tileH engT []) 1 = ([(0, 1)], false) ∧
    copyBad 0 0 row16 row16 0 1 0x20000 0x20000 none (some (1, false)) 0#64 = none ∧
    engX.cPair 10#5 = 5#64 ∧ copyBad 0 0 row16 row16 0 1 0x20000 0x20000 none none 5#64 = none :=
  ⟨eng_atWork _ (by decide +kernel), by decide +kernel⟩

/-- A context for the operations of the sequencer's own: pointers local and virtual, numbers, and addresses in pairs. -/
def syncT : Tile :=
  { tileT with
    c := [(5, 1#32), (6, 2#32), (10, 5#32), (11, 5#32), (14, 0x20000#32)], ap := [(1, 0x1000#64), (2, 0x8000000000020010#64)]
    xb := [(0, ⟨0x100#32, 0#4, 0#2, 0x20000#64, none⟩)] }
/-- A context of layouts 0 (in device memory) and 2 (at 0x1000), and round region 1. -/
def syncCtx : Ctx := { placeCtx with layouts := [(0, row16), (2, ⟨row16.lay, 0x1000, 64⟩)], regions := [(1, ⟨0x20000#64, true, false, 0⟩)] }
/-- Its machine, with commands in queues. -/
def syncS (t : Tile) (q : KMap (List QEnt)) : State := { tileS t [] with ctxs := [(0, syncCtx)], queues := q }
/-- A command of half 1. -/
def anEntry : QEnt := ⟨9, 0, 1, .tile 1, 0#32, .sdrop 0 16, none, 0#64, 0, none, 0, 3, false, 0, [], 0, 0, 0#32, 0⟩

theorem sync_atWork (t : Tile) (q : KMap (List QEnt)) (l : List Instr) (hc : l.all (fun i => i.check 256 == none) = true)
    (h1 : t.loops = []) (h2 : t.cfmNext = []) : ∀ i ∈ l, (syncS t q).tileAtWork 1 (tileH t []) t tileM i := by
  intro i hi
  have := List.all_eq_true.1 hc i hi
  exact ⟨rfl, rfl, rfl, rfl, by simpa using this, h1, h2⟩

theorem test_wit_TileSync :
    let s := syncS syncT []
    let x : TileX := ⟨s, 1, tileH syncT [], syncT, s.nextId⟩
    let b : Tile := { syncT with batches := [(0#32, [9])] }
    (∀ i ∈ [Instr.tbind (gf 4 15 0 0 0 0 0 0 0), .tbind (gf 0 15 6 0 0 0 1 0 0), .tbind (gf 0 15 7 0 0 0 2 0 0),
      .apld (gf 0 7 10 0 0 0 0 0 0), .apld (gf 4 7 10 0 0 0 0 0 0), .apld (gf 1 7 14 0 0 0 0 0 0), .tskip (gf 0 3 7 7 0 0 1 0 0),
      .bfence (gf 0 3 0 0 0 0 0 0 0), .bwait (gf 0 0 7 0 0 0 0 0 0), .tileDrain (gf 3 0 0 0 0 0 0 6 0), .tileRound (gf 0 0 5 0 0 0 0 6 0),
      .tileQfence (gf 0 0 5 0 0 0x1FF 0 2 0)], s.tileAtWork 1 (tileH syncT []) syncT tileM i) ∧
    (loWord (syncT.rap 0 1) + (0#16 : BitVec 16).signExtend 32).toNat = 0x1000 ∧ (syncT.rap 0 1).getLsbD 63 = false ∧
    s.layout 0 2 = some ⟨row16.lay, 0x1000, 64⟩ ∧ LayHandle.fits ⟨row16.lay, 0x1000, 64⟩ 0x1000 = true ∧
    (syncT.rap 0 2).getLsbD 63 = true ∧ (syncT.rap 0 2).toNat % 2 ^ 57 = 0x20010 ∧ s.layout 0 0 = some row16 ∧ row16.fits 0x20010 = true ∧
    (s.leafOf 0 0 0x500000005).1 = .error (0, 1) ∧ isLocal 0x500000005 = false ∧ (s.leafOf 0 0 0x20000).1 = .ok pageLeaf ∧
    s.localPlace 1 0x1000 32 = some ⟨1, false, 0x1000⟩ ∧ s.locPoisoned ⟨1, false, 0x1000⟩ 32 = false ∧ maskBad noMask = none ∧
    noMask = (List.range 4).map (fun j => BitVec.ofNat 64 (leNat (Machine.sub (s.locBytes ⟨1, false, 0x1000⟩ 32) (8 * j) 8))) ∧
    s.maskLists none 1 (maskOf noMask) ((maskOf noMask).poslist && (maskOf noMask).structural) = .ok ([], []) ∧
    (syncT.rc 0 7 - syncT.batch).toInt ≤ 0 ∧ syncT.batches = [] ∧
    (syncS b []).tileAtWork 1 (tileH b []) b tileM (.bwait (gf 0 0 7 0 0 0 0 0 0)) ∧ (0#32, [9]) ∈ b.batches ∧
    s.channelIds 0 3 = [] ∧ s.visible = [] ∧ 9 ∈ (syncS syncT [(3, [anEntry])]).channelIds 0 3 ∧
    (syncS syncT [(3, [anEntry])]).tileAtWork 1 (tileH syncT []) syncT tileM (.tileDrain (gf 3 0 0 0 0 0 0 6 0)) ∧
    (x.c 5).toNat = 1 ∧ KMap.look syncCtx.regions 1 = some ⟨0x20000#64, true, false, 0⟩ ∧ s.cloveCount 0 < 512 :=
  ⟨sync_atWork _ _ _ (by decide +kernel) rfl rfl, by decide +kernel, by decide +kernel, rfl, by decide +kernel, by decide +kernel,
    by decide +kernel, rfl, by decide +kernel, of_failIs (by decide +kernel), by decide +kernel, of_leafIs (by decide +kernel),
    by decide +kernel, by decide +kernel, by decide +kernel, by decide +kernel, rfl, by decide +kernel, rfl,
    sync_atWork { syncT with batches := [(0#32, [9])] } [] [_] (by decide +kernel) rfl rfl _ (List.mem_singleton.2 rfl), by decide, by decide +kernel, rfl, by decide +kernel,
    sync_atWork _ _ [_] (by decide +kernel) rfl rfl _ (List.mem_singleton.2 rfl), by decide +kernel, rfl, by decide +kernel⟩

/-- The same context while level 0 repeats a body around `pc`, with results and a write of `cfm` on their way. -/
def loopT : Tile :=
  { tileT with
    c := [(4, 0x3F#32), (6, 9#32)], ap := [(1, 0x1000#64)], lc := [(0, 2#32)], loops := [(0, ⟨0, 0x100, 1, 0, 0⟩)]
    lands := [⟨1, 3, 7⟩], cfmNext := [(1, 1#32)] }
theorem test_wit_TileScalarsComplete :
    let s := tileS loopT []
    let q : LPlace := ⟨1, false, 0x1000⟩
    s.cur = .tile 1 ∧ KMap.look s.halves 1 = some (tileH loopT []) ∧ (tileH loopT []).tile = some loopT ∧
    (∀ i ∈ [Instr.cnop (gf 0 0 0 0 0 0 0 0 0), .cadd (gf 1 31 30 0 0 0x8000 0 0 0), .csub (gf 0 3 1 2 0 0 0 0 0), .cmul (gf 0 3 1 2 0 0 0 0 0),
      .cand (gf 1 3 1 0 0 0xFFFF 0 0 0), .cor (gf 0 3 1 2 0 0 0 0 0), .cxor (gf 0 3 1 2 0 0 0 0 0), .cshl (gf 0 3 1 2 0 0 0 0 0),
      .cshr (gf 1 3 1 0 0 31 0 0 0), .csar (gf 0 3 1 2 0 0 0 0 0), .cmov (gf 0 3 1 0 0 0 0 0 0), .ccmp (gf 0x12 3 1 0 0 0xFFFF 0 0 0),
      .cmovi ⟨0xFFFFFFFF, 0, 0, 3, 0⟩, .cld (gf 0 3 0 0 0 0 1 0 0), .cst (gf 0 0 3 0 0 0 1 0 0), .jmp ⟨0x80000, 2, 0, 0, 0, 0⟩,
      .jc ⟨2, 0, 0, 1, 0, 0⟩, .jc ⟨2, 0, 0, 1, 0, 1⟩, .jal ⟨0x7FFFF, 1, 0, 0, 31, 0⟩, .jr (gf 0 0 31 0 0 0 0 0 0), .loop ⟨4, 0, 0, 1, 3, 0⟩,
      .loop ⟨4, 0, 0, 0, 3, 1⟩, .cgets (gf 0 3 0 0 0 2 0 0 0), .csets (gf 0 0 4 0 0 0 0 0 0), .csets (gf 0 0 4 0 0 1 0 0 0),
      .csets (gf 0 0 6 0 0 0x17 0 0 0), .gret (gf 0 0 0 0 0 0 0 0 0), .apset ⟨5, 0, 0, 7, 0⟩, .apadd (gf 0 7 0 15 0 0 0 0 0),
      .sdset ⟨5, 0, 0, 15, 0⟩, .lcset ⟨5, 0, 0, 3, 0⟩, .apld (gf 4 7 10 0 0 0 0 0 0)], i.check 256 = none) ∧
    s.seqPlace 1 loopT 1 0 4 4 q ∧ s.locPoisoned q 4 = false ∧ s.inFrame { q with off := q.off + 4 - 1 } = false ∧
    loopT.queued = 0 ∧ (∀ e ∈ loopT.loops, e.2.has (tileM.seq loopT.pc) = true ∧
      e.2.has (((loopT.pc : Int) + 8 * (4#20 : BitVec 20).toInt) % 2 ^ 64).toNat = true) ∧
    (loopT.rc 0 4).toNat < 64 ∧ (⟨loopT.rc 0 6, 0, 0⟩ : StreamQ).geom = (0x1200, 0) ∧
    (∀ y < 8, y ≠ 7 → ringsMeet ⟨loopT.rc 0 6, 0, 0⟩ (loopT.stream y) = false) ∧ (loopT.stream 7).level = 0 ∧ s.streamBusy 1 7 = false ∧
    (∀ e ∈ s.entries, e.issuer ≠ .tile 1) ∧ (loopT.rc 0 11 ++ loopT.rc 0 10 : DWord).toNat < 2 ^ 57 :=
  ⟨rfl, rfl, rfl, by decide +kernel, ⟨by decide +kernel, by decide +kernel, by decide +kernel⟩, by decide +kernel, by decide +kernel, rfl,
    by decide +kernel, by decide +kernel, by decide +kernel, by decide +kernel, by decide +kernel, by decide +kernel, by decide +kernel,
    by decide +kernel⟩

theorem test_wit_TileVectorsComplete :
    let t : Tile := { loopT with c := [(9, 2#32)] }
    let s : State := { tileS t [] with ctxs := [(0, syncCtx)] }
    let q : LPlace := ⟨1, false, 0x1000⟩
    s.cur = .tile 1 ∧ KMap.look s.halves 1 = some (tileH t []) ∧ (tileH t []).tile = some t ∧
    (∀ i ∈ [Instr.vcas ⟨0, 0, 0, 0, 0, 0, 0, false, 0, 0, 0, 2, 1, 31, 0⟩, .vld (gf 0 3 0 0 0 0 1 0 0), .vld (gf 1 3 3 0 0 63 0 0 0),
      .vldb (gf 1 3 0 0 15 0 1 0 0), .vst (gf 0 0 3 0 0 0 1 0 0), .vst (gf 1 3 31 0 0 63 0 0 0), .vcvt (gf 0 4 1 0 0 0 0 1 0),
      .vred (gf 0 31 1 0 0 0 0 0 0), .vbcast (gf 0 31 1 0 0 0 0 0 3), .vperm (gf 0 31 1 2 0 0 0 0 0), .vsel (gf 0 31 1 2 3 0 0 0 0),
      .tbind (gf 4 15 0 0 0 0 0 0 0), .tbind (gf 0 15 9 0 0 0 1 0 0), .tskip (gf 0 3 7 7 0 0 1 0 0), .bfence (gf 0 3 0 0 0 0 0 0 0),
      .bwait (gf 0 0 7 0 0 0 0 0 0), .tileDrain (gf 3 0 0 0 0 0 0 6 0)], i.check 256 = none) ∧
    s.seqPlace 1 t 1 0 512 64 q ∧ s.locPoisoned q 512 = false ∧ s.inFrame { q with off := q.off + 512 - 1 } = false ∧
    3 < t.grant ∧ s.accBusy 1 3 = false ∧ (t.rap 0 1).getLsbD 63 = false ∧ t.rc 0 9 = 2#32 ∧
    (∃ l, s.layout 0 2 = some l ∧ l.fits (loWord (t.rap 0 1) + (0#16 : BitVec 16).signExtend 32).toNat = true) ∧ (loWord (t.rap 0 1)).toNat % 32 = 0 ∧
    s.localPlace 1 0x1000 32 = some q ∧ s.locPoisoned q 32 = false ∧ maskBad noMask = none ∧
    noMask = (List.range 4).map (fun j => BitVec.ofNat 64 (leNat (Machine.sub (s.locBytes q 32) (8 * j) 8))) ∧
    s.maskLists none 1 (maskOf noMask) ((maskOf noMask).poslist && (maskOf noMask).structural) = .ok ([], []) ∧
    (t.rc 0 7 - t.batch).toInt ≤ 0 ∧ t.batches = [] ∧ s.channelIds 0 3 = [] ∧ s.visible = [] :=
  ⟨rfl, rfl, rfl, by decide +kernel, ⟨by decide +kernel, by decide +kernel, by decide +kernel⟩, by decide +kernel, by decide +kernel,
    by decide +kernel, by decide +kernel, by decide +kernel, by decide +kernel, ⟨⟨row16.lay, 0x1000, 64⟩, rfl, by decide +kernel⟩, by decide +kernel,
    by decide +kernel, by decide +kernel, by decide +kernel, by decide +kernel, rfl, by decide +kernel, rfl, rfl, rfl⟩

theorem test_wit_Bundles :
    let c : Instr := .cnop (gf 0 0 0 0 0 0 0 0 0)
    let bad : State := { tileS tileT [] with images := [(1, { tileM with words := [0x20#64] })] }
    let cl : Tile := { tileT with closing := true }
    let an : Tile := { tileT with an0 := true }
    (tileS an []).tileReady 1 = true ∧ an.an0 = true ∧ (tileS an []).imageOf (tileH an []) = some tileM ∧
    (tileS tileT []).tileReady 1 = true ∧ tileT.an0 = false ∧ tileM.bundle tileT.pc = .ok [(0, c)] ∧ c.check 256 = none ∧
    (∃ x w, slotEff c (tileX tileT []) = .ok x w .next) ∧ tileT.skips = [] ∧
    ((tileS tileT []).fetchBundle (tileH tileT []) tileM tileT.pc).1 = .ok () ∧
    (bad.fetchBundle (tileH tileT []) { tileM with words := [0x20#64] } tileT.pc).1 = .ok () ∧ bad.tileReady 1 = true ∧ bad.imageOf (tileH tileT []) = some { tileM with words := [0x20#64] } ∧
    (0x20#64 : DWord).extractLsb' 0 5 = 0#5 ∧
    (tileH cl []).gate = some ⟨0#32, [], [2], [(0, 0xFFFF#64)]⟩ ∧ cl.valid = true ∧ cl.closing = true ∧ cl.stopped = false ∧
    (tileS cl []).liveGids 1 = [2] ∧ (tileS cl []).tilePosted 1 (tileS cl []).nextId = false :=
  ⟨by decide +kernel, rfl, rfl, by decide +kernel, rfl, of_okIs (by decide +kernel), by decide +kernel, ⟨_, _, rfl⟩, rfl,
    of_okIs (by decide +kernel), of_okIs (by decide +kernel), by decide +kernel, rfl,
    by decide, rfl, rfl, rfl, rfl, by decide +kernel, by decide +kernel⟩

/-! ### Witnesses: engines and faults -/

/-- A command of half 1. -/
def cmdOf (i : Issuer) (c : Cmd) : QEnt := ⟨9, 0, 1, i, 0#32, c, none, 0#64, 0, none, 0, 3, false, 0, [], 0, 0, 0#32, 0⟩
/-- The machine with a command alone in queue `k`. -/
def qS (k : Nat) (c : Cmd) (sp : Regs 8) : State :=
  { lab labG with
    cur := .none, queues := [(k, [cmdOf (.group 2) c])], halves := [(1, { labH with spad := sp, tile := some engT })] }

theorem qS_atHead (k : Nat) (c : Cmd) (sp : Regs 8) : Claim.atHead (qS k c sp) k (cmdOf (.group 2) c) [] 1 :=
  ⟨by simp [State.queue, qS, KMap.look], by simp, rfl, rfl, rfl, rfl, rfl, rfl, Nat.zero_le _, rfl, rfl,
    ⟨2, labG, rfl, rfl, by decide +kernel, Or.inl rfl⟩, ⟨_, rfl, (by decide : 1 ≤ 64)⟩,
    by intro x hx; simp [qS, lab] at hx; subst hx; rfl,
    by intro q hq x hx; simp [qS] at hq; subst hq; simp at hx; subst hx; rfl,
    by intro x hx sc ids; simp [qS, lab] at hx; subst hx; simp [labG, Launch.group]⟩
theorem qS_offFrame (k : Nat) (c : Cmd) (sp : Regs 8) (tob : Bool) (off : Nat) : Claim.offFrame (qS k c sp) 1 tob off :=
  Or.inr (by intro h hh hg; simp [qS, KMap.look] at hh; subst hh; simp [labH, placeHalf] at hg)

/-- A side of local bytes. -/
def locSide (b n : Nat) : Side := ⟨.loc 1, b, Claim.bytesOf n, 0⟩

theorem test_wit_EngineEvents :
    let src := locSide 0x100 16
    let dst := locSide 0x3FF0 16
    let cp : Cmd := .copy 0 0 src [(0, dst)] none
    let row : Cmd := .vgmv ⟨.loc 1, 0x200, ⟨0, 1, 0, [1, 0, 0, 0, 0], [4, 0, 0, 0, 0]⟩, 0⟩ (locSide 0x300 4) src 1
    let sp : Regs 8 := Regs.set [] 0x303 1#8
    let late : QEnt := { cmdOf (.group 2) cp with time := 3#64 }
    let ts : State := { lab labG with chipTime := 5, timed := [(0, [(1, late)])] }
    let fe : QEnt := cmdOf (.group 2) (.qfence 9 6)
    let fs : State := { lab labG with queues := [(0, [fe])] }
    let rs (n : Nat) : State := { lab labG with queues := [(4, [{ cmdOf (.group 2) (.sdrop 0 16) with replays := n }])] }
    Claim.atHead (qS (qkey 0 3) cp []) (qkey 0 3) (cmdOf (.group 2) cp) [] 1 ∧
    (qS (qkey 0 3) cp []).localPlace 1 0x100 16 = some ⟨1, false, 0x100⟩ ∧
    (qS (qkey 0 3) cp []).localPlace 1 0x3FF0 16 = some ⟨1, false, 0x3FF0⟩ ∧
    (qS (qkey 0 3) cp []).locPoisoned ⟨1, false, 0x100⟩ 16 = false ∧ Claim.offFrame (qS (qkey 0 3) cp []) 1 false 0x3FFF ∧
    Claim.atHead (qS (qkey 191 9) (.trn dst src [0, 1, 2, 3, 4]) []) (qkey 191 9) (cmdOf (.group 2) (.trn dst src [0, 1, 2, 3, 4])) [] 1 ∧
    Claim.atHead (qS (qkey 0 7) (.sdrop 7 0) []) (qkey 0 7) (cmdOf (.group 2) (.sdrop 7 0)) [] 1 ∧ (engT.stream 7).level = 0 ∧
    Claim.atHead (qS (qkey 0 8) row sp) (qkey 0 8) (cmdOf (.group 2) row) [] 1 ∧
    (qS (qkey 0 8) row sp).localPlace 1 0x300 4 = some ⟨1, false, 0x300⟩ ∧
    (qS (qkey 0 8) row sp).locBytes ⟨1, false, 0x300⟩ 4 = [0#8, 0#8, 0#8, 1#8] ∧
    (qS (qkey 0 8) row sp).localPlace 1 0x200 4 = some ⟨1, false, 0x200⟩ ∧
    KMap.look ts.timed 0 = some [(1, late)] ∧ ts.entHalted late = false ∧ late.time.toNat ≤ ts.chipTime ∧ fs.entHalted fe = false ∧ fs.waits = [] ∧
    fs.fence 9 = some fe ∧ fs.fenceReady 9 6 = true ∧
    (∃ e, (rs 2).headOf 4 = some e ∧ e.replays < 3) ∧ ∃ e, (rs 3).headOf 4 = some e ∧ 3 ≤ e.replays :=
  ⟨qS_atHead _ _ _, by decide +kernel, by decide +kernel, by decide +kernel, qS_offFrame _ _ _ _ _, qS_atHead _ _ _, qS_atHead _ _ _,
    by decide +kernel, qS_atHead _ _ _, by decide +kernel, by decide +kernel, by decide +kernel, rfl, by decide +kernel, by decide, by decide +kernel,
    rfl, by decide +kernel, by decide +kernel, by decide +kernel, by decide +kernel⟩

theorem test_wit_FaultService :
    let r : FQRec := ⟨5, 0, 0, 2, 0, 0#64, 0#64, illegalRec 6 0#64 0#64, true, false⟩
    let r2 : FQRec := { r with id := 6, cmd := 9 }
    let q : FaultQ := { placeCtx.fq with recs := [r, r2] }
    let c : Ctx := { placeCtx with fq := q }
    let g : Group := { labG with sched := .parked, fault := some (illegalRec 6 0#64 0#64) }
    let e : QEnt := { cmdOf (.group 2) (.sdrop 0 16) with fault := some (illegalRec 6 0#64 0#64) }
    let s : State := { labRec g (fun x => { x with polgrp := 1 }) with ctxs := [(0, c)], queues := [(3, [e])] }
    let n : FQRec := { r with id := 7, written := false }
    let cw : Ctx := { placeCtx with fq := { placeCtx.fq with base := 0x20000#64, recs := [n] } }
    (∀ x ∈ c.fq.recs, ¬ (x.id = 4 ∧ x.cls = 0)) ∧ KMap.look s.ctxs 0 = some c ∧
    c.fq.recs.find? (fun x => x.id == r.id && x.cls == 0) = some r ∧ c.fq.recs.find? (fun x => x.id == r2.id && x.cls == 0) = some r2 ∧
    c.fq.held = [] ∧ s.away c r = false ∧ s.away c r2 = false ∧ KMap.look s.groups r.unit = some g ∧ KMap.look s.halves g.hid = some labH ∧
    g.mark = false ∧ g.held = [] ∧ g.fences = [] ∧ labH.gateArr = [] ∧ s.lrOf labH = some { placeLaunch.lr with polgrp := 1 } ∧
    (g.retries.get 0).toNat < 3 ∧ s.entry r2.cmd = some e ∧ e.issuer = .group r2.unit ∧ e.id = r2.cmd ∧
    (∀ q ∈ s.queues, ∀ x ∈ q.2, x.id = r2.cmd → x = e) ∧ s.timed = [] ∧
    cw.fq.nextRec = some n ∧ (∀ x ∈ cw.fq.recs, x.id = n.id → x.written = false → x = n) ∧
    (labCtx labG cw).hostHas 0x20000 128 = false ∧ (labCtx labG cw).homeBusy 0x20000 = false :=
  ⟨by decide, rfl, by decide +kernel, by decide +kernel, rfl, by decide +kernel, by decide +kernel, rfl, rfl, rfl, rfl, rfl, rfl, rfl,
    by decide +kernel, by decide +kernel, rfl, rfl, by decide +kernel, rfl, by decide +kernel, by decide +kernel, by decide +kernel, by decide +kernel⟩

/-! ### Witnesses: streams and the distributor -/

/-- A running stream 0. -/
def strX : Stream := ⟨0, 1, 0, 0, false, false, 0#64, BitVec.ofNat 64 placeVa, 3, 3, []⟩
/-- The machine with the stream at work, bytes at 0x20000, and host memory at virtual address 2^30. -/
def strS (x : Stream) (b : List Byte) : State :=
  let s := lab labG
  { s with
    cur := .stream 0, streams := [(0, x)]
    mem := (s.mem.setSlice 0x11008 (leBytes 8 (2 ^ 40 + 0x1E3))).setSlice 0x20000 b
    ctxs := [(0, { placeCtx with handles := [(0, (1, 0, 1))], profile := [] })]
    images := [(1, { placeImage 0x1#64 with kernels := [(placeLaunch.lr, 0)] })] }
/-- Its context. -/
def strC : Ctx := { placeCtx with handles := [(0, (1, 0, 1))], profile := [] }
/-- A stream instruction whose operand points at 0x20000. -/
def sf (x : BitVec 50) : SFmt := ⟨0#8, x⟩

theorem str_atWork (x : Stream) (b : List Byte) (l : List Instr) (hc : l.all (fun i => i.check 256 == none) = true) (h0 : x.ctx = 0) :
    ∀ i ∈ l, (strS x b).streamAtWork 0 x strC i := by
  intro i hi
  have := List.all_eq_true.1 hc i hi
  exact ⟨rfl, rfl, by rw [h0]; rfl, by simpa using this⟩

/-- A launch record: one team of one group of 16 lanes with 32 registers. -/
def recBytes (gx : Nat) : List Byte :=
  leBytes 8 0 ++ leBytes 4 gx ++ leBytes 4 1 ++ leBytes 4 1 ++ leBytes 4 0x00100100 ++ leBytes 4 16 ++ leBytes 4 0x2020 ++
    leBytes 4 0x01080001 ++ List.replicate 220 0#8
/-- A copy of 4 bytes from 0x30000 to 0x30010 at device scope, with a word of reserved bits. -/
def xferBytes (z : Nat) : List Byte :=
  leBytes 8 0x30000 ++ leBytes 8 0x30010 ++ leBytes 8 4 ++ leBytes 8 96 ++ leBytes 4 0 ++ leBytes 4 z ++ List.replicate 216 0#8
/-- A handover of 64 KiB at 0x30000 with the value 7 to the host's word at 2^30. -/
def handBytes : List Byte := leBytes 8 (2 ^ 30) ++ leBytes 8 7 ++ leBytes 8 0x30000 ++ leBytes 8 0x10000 ++ List.replicate 224 0#8

/-- The leaf of the host's page. -/
def hostLeaf : Leaf := { pageLeaf with va := 2 ^ 30, frame := 2 ^ 40 }

/-- What the stream reads of its record at 0x20000. -/
def strRead (b : List Byte) (n : Nat) : Except XStop (List Byte) :=
  (((strS strX b).nextIns 0 strX).fetch ((strS strX b).streamHome strX strC) 0x20000 n).2

theorem test_wit_Streams :
    let s := strS strX []
    let ins (w : SWait) : Stream := { strX with ins := [⟨4, 0#64, w, false, []⟩] }
    let u (b : List Byte) (o n : Nat) : Nat := leNat (Machine.sub b o n)
    let two (x y : Nat) : List Byte := leBytes 8 x ++ leBytes 8 y ++ List.replicate 112 0#8
    (∀ i ∈ [Instr.snop (sf 0), .jump (sf 0xFFFFFFFF#50), .twait (sf 9), .waitev (sf 5), .halt (sf 0), .sigevAdd (sf 0x18005#50),
      .sigevSet (sf 0x19005#50), .res (sf 0x200), .resRelease (sf 0x2000000000200#50), .hand (sf 0x200), .xfer (sf 0x200), .launch (sf 0x200)],
      s.streamAtWork 0 strX strC i) ∧
    (∀ e ∈ strX.ins, e.idx < strX.base ∨ e.idx = strX.count) ∧ (∀ e ∈ s.streams, ∀ i ∈ e.2.ins, ∀ ev tg, i.wait ≠ .event ev tg) ∧
    (strS (ins .fetch) []).streamAtWork 0 (ins .fetch) strC (.halt (sf 0)) ∧
    (∃ e ∈ (ins .fetch).ins, (ins .fetch).base ≤ e.idx ∧ e.idx ≠ (ins .fetch).count) ∧
    KMap.look (strS { strX with state := 2 } []).streams 0 = some { strX with state := 2 } ∧ strX.state = 1 ∧ strC.killed = false ∧
    (strS (ins (.time 0)) []).insOf 0 4 = some ⟨4, 0#64, .time 0, false, []⟩ ∧ strC.halted = false ∧
    strRead (two 0x30000 128) 128 = .ok (two 0x30000 128) ∧ (∀ e ∈ entriesOf (two 0x30000 128) 8, e.1 % 128 = 0 ∧ e.2 % 128 = 0) ∧
    ((strS strX (two 0x30000 128)).streamHome strX strC).lines (entriesOf (two 0x30000 128) 8) = .ok [0x600] ∧
    (strS strX (two 0x30000 128)).overPinned 0 strC [0x600] = false ∧
    (strS (ins .resident) []).insOf 0 4 = some ⟨4, 0#64, .resident, false, []⟩ ∧
    strRead handBytes 256 = .ok handBytes ∧ u handBytes 32 224 = 0 ∧ u handBytes 0 8 = 2 ^ 30 ∧ handBytes.length = 256 ∧
    (∃ l, (strS strX handBytes).xferLeaf strC (2 ^ 30) true = .ok l ∧ l.rem = false ∧ isDevice (l.pa (2 ^ 30)) = false ∧
      isRegSpace (l.pa (2 ^ 30)) = false) ∧ s.incs = [] ∧
    strRead (xferBytes 0) 256 = .ok (xferBytes 0) ∧ u (xferBytes 0) 36 220 = 0 ∧
    u (xferBytes 0) 24 8 = 96 ∧ strRead (xferBytes 1) 256 = .ok (xferBytes 1) ∧ u (xferBytes 1) 36 220 ≠ 0 ∧
    (strS (ins (.xfer 0x30000 0x30010 4 none 6 0 0)) []).insOf 0 4 = some ⟨4, 0#64, .xfer 0x30000 0x30010 4 none 6 0 0, false, []⟩ ∧
    s.xferLeaf strC 0x30000 false = .ok pageLeaf ∧ s.xferLeaf strC 0x30010 true = .ok pageLeaf ∧ s.workAt 0 6 0x30000 = none ∧
    s.workAt 0 6 0x30010 = none ∧ s.poisoned 0x30000 4 = false ∧ s.homeBusy 0x30000 = false ∧ s.writeWaits 0 6 0x30010 4 = false ∧
    s.remote = [] ∧
    strRead (recBytes 1) 256 = .ok (recBytes 1) ∧
    firstField ((strS strX (recBytes 1)).launchField strC (recBytes 1) (launchRecOf (recBytes 1))) = none ∧
    (launchRecOf (recBytes 1)).nres = 0 ∧ firstField (strC.launchRest (recBytes 1) (launchRecOf (recBytes 1))) = none ∧
    strRead (recBytes 0) 256 = .ok (recBytes 0) ∧
    firstField ((strS strX (recBytes 0)).launchField strC (recBytes 0) (launchRecOf (recBytes 0))) = some 8 ∧
    State.launchDone { s with halves := [], groups := [] } 1 placeLaunch = true :=
  ⟨str_atWork _ _ _ (by decide +kernel) rfl, by decide, (by intro e he; simp [strS] at he; subst he; intro i hi; cases hi),
    str_atWork { strX with ins := [⟨4, 0#64, .fetch, false, []⟩] } _ [_] (by decide +kernel) rfl _ (List.mem_singleton.2 rfl),
    ⟨_, List.mem_singleton.2 rfl, by decide⟩, rfl, rfl, rfl, by decide +kernel, rfl,
    of_okIs (by decide +kernel), by decide +kernel, of_okIs (by decide +kernel), by decide +kernel,
    by decide +kernel, of_okIs (by decide +kernel), by decide +kernel, by decide +kernel, by decide +kernel,
    ⟨hostLeaf, of_okIs (by decide +kernel), rfl, by decide +kernel, by decide +kernel⟩, rfl,
    of_okIs (by decide +kernel), by decide +kernel, by decide +kernel, of_okIs (by decide +kernel), by decide +kernel, by decide +kernel,
    of_okIs (by decide +kernel), of_okIs (by decide +kernel), by decide +kernel, by decide +kernel, by decide +kernel, by decide +kernel,
    by decide +kernel, rfl, of_okIs (by decide +kernel), by decide +kernel,
    by decide +kernel, by decide +kernel, of_okIs (by decide +kernel), by decide +kernel, by decide +kernel⟩

/-- A launch of one team that needs no matrix unit. -/
def unitL : Launch := { placeLaunch with lr := { placeLaunch.lr with acc := 0 } }
/-- The machine with that team waiting, in a partition of pair 0. -/
def distS : State :=
  { lab labG with
    halves := [], groups := [], chipTime := 2 ^ 20, dist := [(0, [⟨1, 0, 1, 0, false, []⟩])], launches := [(1, unitL)]
    parts := [(0, { placePart with pairs := 1#96 })] }

/-- Where the pair survives (a value of the part, 27 R449), the team has a seat. -/
theorem test_wit_Distributor :
    let u : Machine.PUnit := ⟨1, 0, 1, 0, false, []⟩
    distS.waiting 0 = [u] ∧ u.saved = [] ∧ distS.launchOf u = some unitL ∧ distS.overdue 0 = some u ∧
    (Config.pairAlive 0 = true → distS.findSeats 0 u [] = some [⟨0, 0, 0, 0⟩]) := by
  refine ⟨by decide +kernel, rfl, rfl, by decide +kernel, fun hp => ?_⟩
  have e : distS.pairsOf 0 = [0] := by
    have h : ∀ f : Nat → Bool, f 0 = true → (List.range 96).filter (fun i => (1#96 : BitVec 96).getLsbD i && f i) = [0] := by
      intro f hf
      have h1 : (List.range 96).filter (fun i => (1#96 : BitVec 96).getLsbD i) = [0] := by decide +kernel
      have h2 : (List.range 96).filter (fun i => (1#96 : BitVec 96).getLsbD i && f i) =
          ((List.range 96).filter (fun i => (1#96 : BitVec 96).getLsbD i)).filter f := by
        rw [List.filter_filter]
        congr 1
        funext i
        exact Bool.and_comm _ _
      rw [h2, h1]
      simp [hf]
    exact h _ hp
  simp only [State.findSeats, e]
  decide +kernel

/-- Whether an answer is good and has a property. -/
def okAnd {ε α : Type} (r : Except ε α) (p : α → Bool) : Bool :=
  match r with
  | .ok x => p x
  | .error _ => false
theorem of_okAnd {ε α : Type} {r : Except ε α} {p : α → Bool} (h : okAnd r p = true) : ∃ x, r = .ok x ∧ p x = true := by
  cases r with
  | error e => cases h
  | ok x => exact ⟨x, rfl, h⟩
/-- Whether an answer is a given failure. -/
def errIs {α : Type} (r : Except Nat α) (e : Nat) : Bool :=
  match r with
  | .ok _ => false
  | .error x => x == e
theorem of_errIs {α : Type} {r : Except Nat α} {e : Nat} (h : errIs r e = true) : r = .error e := by
  cases r with
  | error x => exact congrArg Except.error (by simpa [errIs] using h)
  | ok x => cases h

/-! ### Witnesses: partitions, the host, Tarn's background work -/

/-- A partition command naming context 0. -/
def pc0 (w1 : DWord) : PCmd := ⟨0, 0, 7#16, w1, 0#64, 0#64, 0#64, 0#64, 0#64⟩
/-- The machine with a creation record at 16 MiB: page tables at 2 MiB, no stream, no key, a profile at 3 MiB. -/
def newS : State :=
  { lab labG with
    cur := .none, streams := []
    mem := ((lab labG).mem.setSlice 0x1000000 (leBytes 8 0x200000)).setSlice 0x1000048 (leBytes 8 0x300000) }
/-- The same with a command in the block. -/
def inBlk (op : Nat) (s : State) : State := { s with cmdHeld := [(op, pc0 0x1000000#64)] }
/-- A halted context and one with a loaded object. -/
def haltS : State := { lab labG with groups := [], halves := [], ctxs := [(0, { placeCtx with halted := true, handles := [(4, (1, 0, 1))] })] }
/-- A package on its way from context 0 to partition 0. -/
def pack : Migration := ⟨0, 0, 0, 0, placeCtx, [], [], [], [], [], [], [], [], [], Config.deviceNumber.toNat, 0, 0, none⟩
/-- The machine with the package before it. -/
def packS : State := { newS with groups := [], halves := [], migIn := [pack] }
/-- The command that names the package. -/
def packC : PCmd := { pc0 0x1000000#64 with w2 := BitVec.ofNat 64 (Config.deviceNumber.toNat * 65536) }
theorem pack_named : packS.packageFor packC = some pack := by
  have key : ∀ d < 4096, bitsOf (d * 65536 % 18446744073709551616) 11 0 = 0 ∧
      bitsOf (d * 65536 % 18446744073709551616) 14 12 = 0 ∧ bitsOf (d * 65536 % 18446744073709551616) 31 16 = d := by
    intro d h
    simp only [bitsOf, Nat.reducePow, Nat.reduceAdd, Nat.reduceSub]
    omega
  obtain ⟨h1, h2, h3⟩ := key _ Config.deviceNumber.isLt
  have hw : packC.w2.toNat = Config.deviceNumber.toNat * 65536 % 18446744073709551616 := by
    simp only [packC, BitVec.toNat_ofNat, Nat.reducePow]
  rw [State.packageFor, hw, h1, h2, h3]
  refine List.find?_cons_of_pos ?_
  simp only [Bool.and_eq_true, beq_iff_eq]
  exact ⟨⟨⟨⟨rfl, rfl⟩, rfl⟩, rfl⟩, rfl⟩
/-- A device other than this one. -/
def farDevice : DWord := if Config.deviceNumber.toNat = 0 then 1#64 else 0#64
theorem farDevice_ne : farDevice.toNat ≠ Config.deviceNumber.toNat := by
  unfold farDevice
  by_cases h : Config.deviceNumber.toNat = 0
  · rw [if_pos h, h]; decide
  · rw [if_neg h]; exact fun e => h e.symm

/-- The machine before any context, with Ibmir ready. -/
def readyS : State := { State.reset with ibmir := { Ibmir.reset with ready := true } }

theorem test_wit_PartitionCommands :
    newS.cmdHeld = [] ∧ newS.ibmir.update = none ∧ (∃ x, (inBlk 1 newS).newCtx 0 0x1000000 = .ok x) ∧ KMap.look newS.ctxs 1 = none ∧
    (∀ m < 1, (KMap.look newS.ctxs m).isSome = true) ∧ (inBlk 1 newS).newCtx 0 0x10000 = .error 416 ∧
    newS.names (pc0 0) = true ∧ newS.names { pc0 0 with ctx := 3 } = false ∧ (inBlk 2 haltS |>.haltCtx 0).ctxQuiet 0 = true ∧
    haltS.names (pc0 4) = true ∧ (∃ x, KMap.look haltS.ctxs 0 = some x ∧ x.halted = true ∧ x.fq.held = [] ∧ KMap.look x.handles 4 = some (1, 0, 1)) ∧
    haltS.dist = [] ∧ haltS.saved = [] ∧ haltS.loch = [] ∧ haltS.streams = [] ∧ (haltS.saved.map (fun y => y.hid)).Nodup ∧
    (State.haltCtx { lab { labG with gwPend := [5#64] } with cmdHeld := [(5, pc0 0)] } 0).ctxQuiet 0 = false ∧
    (∃ x, (inBlk 9 packS).checkIn pack 0 0x1000000 = .ok x ∧ (x.streams == [] && x.part == 0) = true) ∧ packS.migIn = [pack] ∧
    packS.dist = [] ∧ packS.saved = [] ∧ packS.loch = [] ∧ packS.streams = [] ∧ (KMap.look packS.ctxs pack.source).isSome = true ∧
    packS.migOut = [] ∧ pack.answer = none ∧ pack.origin = 0 ∧ pack.source = (pc0 0).ctx ∧
    readyS.partRefused 3 placePart = false ∧ { placePart with hbmLen := 700, hbmBase := 69 }.hbmBase + 700 > 768 ∧
    { readyS with parts := [(1, placePart)] }.parts.any (fun e => e.2.pairs &&& placePart.pairs != 0#96) = true ∧
    (3#64 : DWord).toNat < 4 ∧ newS.recorded 0 = false ∧ packS.packageFor packC = some pack ∧ pack.foreign = false ∧
    { newS with ctxs := [(0, { placeCtx with record := some ⟨0, true, 0⟩ })] }.recorded 0 = true ∧
    newS.names { pc0 farDevice with w2 := 0#64 } = true ∧ farDevice.toNat ≠ Config.deviceNumber.toNat ∧ newS.migIn = [] ∧
    newS.migLoad.find? (fun x => x.1 == 0 && x.2.1 == 0) = none ∧
    { newS with migLoad := [(0, 0, 5, true)] }.migLoad.find? (fun x => x.1 == 0 && x.2.1 == 0) = some (0, 0, 5, true) ∧
    haltS.imagesOf 0 ≠ [] ∧ (inBlk 1 newS).names (pc0 0) = true :=
  ⟨rfl, rfl, of_isOk (by decide +kernel), rfl, by decide, of_errIs (by decide +kernel), by decide +kernel, by decide +kernel,
    by decide +kernel, by decide +kernel, ⟨_, rfl, rfl, rfl, rfl⟩, rfl, rfl, rfl, rfl, List.nodup_nil, by decide +kernel,
    of_okAnd (by decide +kernel), rfl, rfl, rfl, rfl, rfl, rfl, rfl, rfl, rfl, rfl, by decide +kernel, by decide +kernel, by decide +kernel,
    by decide +kernel, by decide +kernel, pack_named, by simp [Migration.foreign, pack], by decide +kernel, rfl, farDevice_ne, rfl, rfl, rfl,
    by decide +kernel, rfl⟩

/-- The Tarn of `kvCfg` with one row a page (fewer than 18 R348 allows: the kernel evaluates the row), and a full page 0. -/
def rqCfg : TarnCfg := { kvCfg 2 with rows := 1 }
/-- Its context. -/
def rqC (l : List Requant) : Ctx := { placeCtx with tarn := some rqCfg, requant := l }
/-- Its machine. -/
def rqS (l : List Requant) : State :=
  let s := labCtx labG (rqC l)
  { s with mem := s.mem.setSlice 0x21000 (leBytes 8 (1 + 2 ^ 20 + 2 ^ 32 + 2 ^ 48)) }
/-- The unit at work. -/
def rqK (l : List Requant) : Kv := ⟨(rqS l).streamHome (Stream.fresh 0) (rqC l), rqCfg⟩
/-- A request under way for page 0. -/
def rq (gen : Nat) : Requant := ⟨0, 0, 1, gen, 1, 1, 1⟩

/-- The page's descriptor. -/
def rqD : KDesc := ⟨1, 1, 1, 1, 0⟩
/-- Whether a request was accepted, and left the context as it was. -/
def rqGood (o : Option (Kv × Requant)) : Bool :=
  match o with
  | some (k, _) => KMap.look k.s.ctxs 0 == some (rqC [])
  | none => false

theorem test_wit_HostServices :
    let b : DWord := 0x20000#64
    let s : State := { lab labG with shoot := [(3, (b, 1#64))] }
    let g := labG
    let w := laneG 0x20000#32
    let hi : HeldI := ⟨9, 0#64, .st (mf 4 3 1), 1#64, [(0, 0x20000#64)], [(0, 7#128)], 0, none, false, [], 0#64⟩
    let gh : Group := { w with held := [hi] }
    let hs : State := { lab gh with backInv := [0x400], hostLines := [0x400] }
    KMap.look (lab g).shoot 3 = none ∧ KMap.sorted (lab g).groups = true ∧ KMap.sorted (lab g).halves = true ∧
    KMap.look (lab g).groups 2 = some g ∧ KMap.look (lab g).halves g.hid = some labH ∧
    KMap.look s.shoot 3 = some (b, 1#64) ∧ s.shootHeld = [] ∧ s.remote = [] ∧ s.backInv = [] ∧ KMap.look s.ctxs 0 = some placeCtx ∧
    State.reset.streams = [] ∧ (lab g).hdm 0x3FFFFFF0 16 = true ∧ (∀ l ∈ linesOf 0x3FFFFFF0 16, (lab g).homeBusy (l * 128) = false) ∧
    (lab g).incAt 0x3FFFFFF0 16 = false ∧ isDevice (2 ^ 40) = false ∧
    isRegSpace (2 ^ 40) = false ∧ hs.backInv[0]? = some 0x400 ∧ hs.groups = [(2, gh)] ∧
    memOp hi.instr = some ⟨mf 4 3 1, .store, 4, 1⟩ ∧ hi.lanes = 1#64 <<< 0 ∧ (hi.va.get 0).toNat = 0x20000 ∧
    (hs.translateBx 0 0 Bx.invalid 0x20000 4 .write).1 = .ok pageLeaf ∧ gh.fences = [] ∧ gh.fault = none ∧ hs.loch = [] ∧
    { hs with waits := [(0x400, 2, 9)] }.waits = [(0x400, 2, hi.id)] ∧ 0x400 ∉ hs.backInv.erase 0x400 ∧ hs.waits = [] ∧ hs.incs = [] ∧
    (∀ x ∈ hs.halves, x.2.gateArr = []) ∧ (rqC []).killed = false ∧ (rqC []).kicks = [] ∧ (rqC []).halted = false ∧
    rqD.frame = (rq 0).oldFrame ∧ rqD.enc = (rq 0).oldEnc ∧
    KMap.look (rqS []).ctxs 0 = some (rqC []) ∧ (0#64 : DWord).extractLsb' 21 43 = 0#43 ∧ (0x200000#64 : DWord).extractLsb' 21 43 ≠ 0#43 ∧
    (∃ k, (rqK []).requant 0 0 = .ok k ∧ rqGood k = true) ∧ (rqK [rq 5]).desc 0 = .ok rqD ∧ rqD.gen ≠ (rq 5).gen ∧
    (rqK [rq 0]).desc 0 = .ok rqD ∧ rqD.gen = (rq 0).gen ∧ rqD.refcnt = (rq 0).refcnt ∧ rqD.refcnt ≠ 0 ∧
    ∃ k, (rqK [rq 0]).putDesc 0 { rqD with frame := 1, enc := 0, gen := 1 } = .ok k ∧ (KMap.look k.s.ctxs 0 == some (rqC [rq 0])) = true :=
  ⟨rfl, rfl, rfl, rfl, rfl, rfl, rfl, rfl, rfl, rfl, rfl, by decide +kernel, by decide +kernel, by decide +kernel, by decide, by decide, rfl,
    rfl, rfl, rfl, by decide, of_leafIs (by decide +kernel), rfl, rfl, rfl, rfl, by decide, rfl, rfl, by decide +kernel, rfl, rfl, rfl, rfl, rfl,
    rfl, by decide, by decide,
    of_okAnd (by decide +kernel), of_okIs (by decide +kernel), by decide, of_okIs (by decide +kernel), rfl, rfl, by decide,
    of_okAnd (by decide +kernel)⟩

/-! ### Witnesses: ports, peers, Loch, Ibmir, the debugger, steps -/

/-- A machine with port 3 in a mode. -/
def portS (m : Nat) : State := { lab labG with ports := [(3, { Port.reset with mode := m, etype := 0x88B5, mask := 0xFFF#32, off := 14 })] }

theorem test_wit_PortsAndPeers :
    let tr : State := { lab labG with ports := [(3, { Port.reset with training := some (2#64, 5#64) })] }
    let up : State := { lab labG with ibmir := { Ibmir.reset with update := some ([], 0, 0#16, 0) } }
    let ro : State := { portS 1 with mem := (lab labG).mem.setSlice 0x11000 (leBytes 8 0x1A3) }
    let down : Peer := ⟨3#32, false, 3, 0, 0, [], []⟩
    let acc : RemAcc := ⟨1, 5, 3, 0, 0, 0#64, 0x20000, .write [1#8], some 2, 0, 0, 0⟩
    let ps : State := { lab labG with chipTime := 2 ^ 26, peers := [(5, down)], remote := [acc] }
    (lab labG).ibmir.update = none ∧ up.ibmir.update.isSome = true ∧ (tr.port 3).training = some (2#64, 5#64) ∧
    ((lab labG).port 3).works ≠ some 1 ∧ ((portS 1).port 3).works = some 1 ∧ ((portS 1).peerOf 5).gen.toNat ≤ 1 ∧
    KMap.look (portS 1).ctxs 0 = some placeCtx ∧ (portS 1).walkCtx placeCtx 0x20000 = .ok pageLeaf ∧ pageLeaf.rem = false ∧
    pageLeaf.rounds = false ∧ isRegSpace (pageLeaf.pa 0x20000) = false ∧ pageLeaf.grants .read = true ∧ pageLeaf.grants .write = true ∧
    (portS 1).poisoned (pageLeaf.pa 0x20000) 8 = false ∧
    (∃ l, ro.walkCtx placeCtx 0x20000 = .ok l ∧ (!l.rem && !l.rounds && !isRegSpace (l.pa 0x20000) && !l.grants (remoteAcc (.write []))) = true) ∧
    (lab labG).remote = [] ∧ ((lab labG).peerOf 5).up = true ∧
    (ps.peerOf 5).up = false ∧ 2 ≤ (ps.peerOf 5).cause ∧ (ps.peerOf 5).since + 2 ^ 26 ≤ ps.chipTime ∧ remoteWrites acc.kind = true ∧
    KMap.look ps.groups 2 = some labG ∧ labG.sched ≠ .exited ∧ labG.held = [] ∧ (ps.peerOf 5).wrote = [] ∧ ps.waits = [] ∧
    (lab labG).waits = [] ∧ (lab labG).asked = [] ∧ (portS 1).homeBusy (pageLeaf.pa 0x20000) = false ∧
    (portS 1).hostHas (pageLeaf.pa 0x20000) 8 = false ∧ (portS 1).incAt (pageLeaf.pa 0x20000) 8 = false ∧
    (leafFrom { pageLeaf.info 0x20000 with level := 1 }).rem = false ∧ (pageLeaf.info 0x20000).page = 0x20000 / 65536 ∧
    { ps with chipTime := 0 }.chipTime < down.since + 2 ^ 26 :=
  ⟨rfl, rfl, rfl, by decide +kernel, by decide +kernel, by decide +kernel, rfl, of_okIs (by decide +kernel), rfl, by decide +kernel,
    by decide +kernel, rfl, rfl, by decide +kernel, of_okAnd (by decide +kernel), rfl, by decide +kernel, by decide +kernel,
    by decide +kernel, by decide +kernel, rfl, rfl, by decide +kernel, rfl, by decide +kernel, rfl, rfl, rfl, by decide +kernel,
    by decide +kernel, by decide +kernel, rfl, by decide, by decide⟩

/-- A Loch queue of 4 slots of 256 bytes at 0x20000, with an entry on its way. -/
def lochE (d : Nat) : QEnt := { cmdOf (.group 2) (.loch 3 5#64 9#64 1 [1#8] 0) with done := d }
/-- The queue. -/
def lochQ (d : Nat) (b : Option (Nat × Nat)) : Loch := ⟨0x20000#64, 0, 8, 4, 0#64, 0#64, b, 0#64, 0, 0#32, 0#32, 0#32, [lochE d]⟩
/-- A machine with the queue, and port 3 in Loch mode, whose stream 0 goes to queue 1 of the port. -/
def lochS (d : Nat) (b : Option (Nat × Nat)) : State :=
  { lab labG with
    loch := [(49, lochQ d b)], ports := [(3, { Port.reset with mode := 2, mask := 0xFFF#32, off := 14, table := [(0, 0x80000001#32)] })] }

theorem test_wit_LochQueues :
    let s := lochS 0 none
    let full : State := { s with loch := [(49, { lochQ 0 none with tail := 3#64 })] }
    let entry : List Byte := leBytes 8 5 ++ leBytes 8 9 ++ leBytes 2 1 ++ leBytes 2 1 ++ leBytes 4 (0 + 3 * 2) ++ List.replicate 40 0#8 ++ [1#8]
    let other : State := { s with loch := [(49, { lochQ 0 none with ctx := 3 })] }
    (s.port 3).works = some 2 ∧ ((s.port 3).table.get 0).getLsbD 31 = true ∧ ((s.port 3).table.get 1).getLsbD 31 = false ∧
    ((lab labG).port 3).works ≠ some 2 ∧ (lochQ 0 none).nslot > ((lochQ 0 none).tail - (lochQ 0 none).head).toNat + 1 ∧
    (full.lochQ 49).nslot ≤ ((full.lochQ 49).tail - (full.lochQ 49).head).toNat + (full.lochQ 49).entries.length ∧
    KMap.look s.loch 49 = some (lochQ 0 none) ∧ (∀ x ∈ s.loch, x.2.bind = none) ∧ (lochE 1).done = 1 ∧ (lochE 1).gw ≤ s.chipTime ∧
    (lochE 0).done ≠ 1 ∧ KMap.look s.ctxs 0 = some placeCtx ∧
    (∃ k, Home.write ⟨s, 0, placeCtx, 0⟩ 0x20000 entry = .ok k ∧ (k.s.loch == s.loch) = true) ∧
    KMap.look s.groups 2 = some labG ∧ KMap.look s.halves labG.hid = some labH ∧ (s.lochQ 49).ctx = labH.ctx ∧ (s.lochQ 49).bind = none ∧
    s.saved = [] ∧ s.objPlace 1 8#32 = some barAt ∧ (s.lochQ 49).tail = (s.lochQ 49).head ∧ (other.lochQ 49).ctx ≠ labH.ctx ∧
    ((lochS 0 (some (1, 8))).lochQ 49).bind = some (labG.hid, 8) ∧ s.isKilled 0 = false ∧ s.lochBefore 3 (lochE 0) = false ∧
    (lochS 1 none).lochBefore 3 (lochE 1) = false :=
  ⟨by decide +kernel, by decide +kernel, by decide +kernel, by decide +kernel, by decide +kernel, by decide +kernel, rfl, by decide +kernel,
    rfl, Nat.zero_le _, by decide, rfl, of_okAnd (by decide +kernel), rfl, rfl, by decide +kernel, rfl, rfl, by decide +kernel,
    by decide +kernel, by decide +kernel, rfl, by decide +kernel, by decide +kernel, by decide +kernel⟩

/-- The clause of a good image needs a signature under the part's own firmware key, which is a free value (27 R446). -/
theorem test_wit_Services :
    let up : State := { readyS with ibmir := { Ibmir.reset with update := some ([], 4, 0#16, 0) } }
    let boot : State := { State.reset with ibmir := { Ibmir.reset with booted := true } }
    let late : State := { readyS with ibmir := { Ibmir.reset with synced := true, contextsMade := true, clock := 2175 } }
    readyS.ibmir.update = none ∧ readyS.ibmir.recovery = false ∧ readyS.ibmir.ready = true ∧ (List.replicate 64 0#8).length = 64 ∧
    readyS.imageGood [] [] 0 = false ∧ up.ibmir.update.isSome = true ∧ up.ibmir.held = [] ∧ up.cmdHeld = [] ∧ up.chipTime ≤ 0 + 20000000 ∧
    ({ up with chipTime := 20000000 } : State).chipTime ≥ 0 + 20000000 ∧ boot.ibmir.booted = true ∧ boot.ibmir.recovery = false ∧
    boot.ibmir.synced = false ∧ (boot.port 7).training = none ∧ late.ibmir.synced = true ∧ late.ibmir.contextsMade = true ∧
    late.ibmir.clock < 2250 ∧ 75 < late.ibmir.clock ∧ 2 ^ 33 ≤ ({ boot with chipTime := 2 ^ 33 } : State).chipTime ∧ boot.ibmir.masters = [] ∧
    { boot.ibmir with masters := [(2, (5, 7))] }.masters ≠ [] :=
  ⟨rfl, rfl, rfl, rfl, by simp [State.imageGood], rfl, rfl, rfl, by decide, by decide, rfl, rfl, rfl, by decide +kernel, rfl, rfl,
    by decide, by decide, by decide, rfl, by decide⟩

theorem test_wit_OutsideEvents :
    let s : State := { lab { labG with stopped := true } with attached := [0] }
    let t : Tile := { tileT with stopped := true }
    let b : Group := { labG with stopped := true, fault := some (trapRec 7 0 9#64 0#64 0#64 0#64) }
    isRegSpace 0x20000 = false ∧ KMap.look (lab labG).halves 1 = some labH ∧ 1023 < 1024 * labH.spadBanks ∧
    (∃ h, KMap.look { lab labG with halves := [(1, { labH with tobBanks := 1 })] }.halves 1 = some h ∧ 1023 < 1024 * h.tobBanks) ∧
    KMap.look (lab labG).ctxs 0 = some placeCtx ∧ s.ctxOf { labG with stopped := true } ∈ s.attached ∧
    KMap.look (lab b).groups 2 = some b ∧ b.stopped = true ∧ (trapRec 7 0 9#64 0#64 0#64 0#64).code = 7 ∧
    KMap.look (tileS t []).halves 1 = some (tileH t []) ∧ (tileH t []).tile = some t ∧ t.stopped = true ∧
    KMap.look s.groups 2 = some { labG with stopped := true } ∧ labG.fault = none ∧ labG.sched ≠ .exited ∧ labH.ctx ∈ s.attached ∧
    (tileH t []).tileFree = false ∧ s.ibmir.update = none ∧ ∃ t, exec (.kick 3 0x100000#64) { s with streams := [(3, { strX with state := 2 })] } = .next t :=
  ⟨by decide +kernel, rfl, by decide, ⟨_, rfl, by decide⟩, rfl, by decide +kernel, rfl, rfl, by decide +kernel, rfl, rfl, rfl, rfl, rfl,
    by decide +kernel, by decide +kernel, rfl, rfl, _, rfl⟩

theorem test_wit_StepRuns :
    let i : Instr := .iadd (rf 0 3 1 2 255)
    let s := State.reset.placeLane (encode i)
    let g := { labG with sched := .ready }
    let ts := State.reset.placeTile 0x1#64
    let c : Instr := .cnop (gf 0 0 0 0 0 0 0 0 0)
    let n : Instr := .snop (sf 0)
    let ss := State.reset.placeStream (encode n)
    s.posted = [] ∧ s.agenda = .quarter 0 0 :: [] ∧ State.choose { s with agenda := [] } 0 (fun _ => true) = some 2 ∧
    KMap.look (State.unstall { s with agenda := [], last := KMap.put s.last 0 2 } 2).groups 2 = some g ∧ g.reports = [] ∧
    g.watch.toNat < s.watchLimit g ∧ (s.translate 0 0 g.pc.toNat .exec).1 = .ok pageLeaf ∧
    s.poisoned (pageLeaf.pa g.pc.toNat) 8 = false ∧ decodeLane (BitVec.ofNat 64 (leNat (s.memBytes (pageLeaf.pa g.pc.toNat) 8))) = .ok i ∧
    ts.agenda = .tile 1 :: [] ∧ (tileS tileT []).cur = .tile 1 ∧ (tileS tileT []).tileReady 1 = true ∧ tileT.an0 = false ∧
    tileT.skips = [] ∧ ((tileS tileT []).fetchBundle (tileH tileT []) tileM tileT.pc).1 = .ok () ∧
    tileM.bundle tileT.pc = .ok [(slotOf c, c)] ∧ c.check 256 = none ∧
    ss.agenda = .stream 0 :: [] ∧ (∃ x, KMap.look ss.streams 0 = some x ∧ ss.streamReady x = true ∧ x.pc.toNat = 0x100000) ∧
    (∃ x, KMap.look ss.streams 0 = some x ∧
      ((ss.nextIns 0 x).fetch (ss.streamHome x placeCtx) x.pc.toNat 8).2 = .ok (leBytes 8 (encode n).toNat)) ∧
    ss.depsDone strX (BitVec.ofNat 64 (leNat (leBytes 8 (encode n).toNat))) = true ∧
    decodeStream (BitVec.ofNat 64 (leNat (leBytes 8 (encode n).toNat))) = .ok n ∧ n.check 256 = none :=
  ⟨rfl, rfl, by decide +kernel, by decide +kernel, rfl, by decide +kernel, of_leafIs (by decide +kernel), by decide +kernel,
    of_okIs (by decide +kernel), rfl, rfl, by decide +kernel, rfl, rfl, rfl, of_okIs (by decide +kernel), by decide +kernel, rfl,
    ⟨_, rfl, by decide +kernel, by decide +kernel⟩, ⟨_, rfl, of_okIs (by decide +kernel)⟩, by decide +kernel,
    of_okIs (by decide +kernel), by decide +kernel⟩

/-- Whether a step goes on to a state of which `f` gives `a`. -/
def nextIs {α : Type} [DecidableEq α] (r : Host.Outcome State Fault Refusal) (f : State → α) (a : α) : Bool :=
  match r with
  | .next t => f t == a
  | _ => false
theorem of_nextIs {α : Type} [DecidableEq α] {r : Host.Outcome State Fault Refusal} {f : State → α} {a : α} (h : nextIs r f a = true) :
    ∃ t, r = .next t ∧ f t = a := by
  cases r with
  | next t => exact ⟨t, rfl, by simpa [nextIs] using h⟩
  | fault e => cases h
  | refused e => cases h

/-- A word of each set is placed so that the next step runs it. -/
theorem test_withFetchWord :
    (∃ t, step (State.reset.withFetchWord 64 0x0000FF0201037010) = .next t ∧ (KMap.look t.groups 2).map (fun g => g.watch) = some 1#32) ∧
    (∃ t, step (State.reset.withFetchWord 64 0x0000000008230002) = .next t ∧
      (KMap.look t.halves 1).bind (fun h => h.tile.map (fun x => x.pc)) = some 16) ∧
    ∃ t, step (State.reset.withFetchWord 64 0x00003FFFFFFFC008) = .next t ∧
      (KMap.look t.streams 0).map (fun x => x.count) = some 1 := by
  exact ⟨of_nextIs (by decide +kernel), of_nextIs (by decide +kernel), of_nextIs (by decide +kernel)⟩

theorem test_wit_TimelyKept :
    let b : Bcast := ⟨0, 0, 0, 1#32, 4096⟩
    let s : State := { State.reset with
      bcasts := [b], agenda := [.event .telemetryRefresh], ibmir := { Ibmir.reset with synced := true, contextsMade := true } }
    s.ibmir.synced = true ∧ s.ibmir.contextsMade = true ∧ s.roundsOnTime ∧ ∃ t, step s = .next t :=
  ⟨rfl, rfl, fun x hx => by simp at hx; subst hx; exact Nat.zero_le _, _, rfl⟩

theorem test_wit_CanonicalKept :
    let s : State := { State.reset with agenda := [.event .telemetryRefresh] }
    s.canonical ∧ ∃ t, step s = .next t :=
  ⟨⟨rfl, rfl, rfl, rfl⟩, _, rfl⟩

/-! ### Ill-formed terms are refused: a term for each check (03 R62 to R75; 06 R152 to R157; 22 R385) -/

theorem test_illformed_R :
    (Instr.iadd (rf 2 3 1 2 255)).check 256 = some 0 ∧ (Instr.iadd { rf 0 3 1 2 255 with sc := 1#4 }).check 256 = some 1 ∧
    (Instr.popc { rf 0 3 1 255 255 with cl := 1#2 }).check 256 = some 1 ∧ (Instr.iadd { rf 0 3 1 2 255 with fs := 2#3 }).check 256 = some 1 ∧
    (Instr.iadd (rf 0 3 1 2 4)).check 256 = some 2 ∧ (Instr.iadd (rf 0 64 1 2 255)).check 64 = some 2 ∧
    (Instr.lea (rf 0 3 1 2 255)).check 256 = some 2 ∧ (Instr.iset (rf 0 8 1 2 255)).check 256 = some 2 ∧
    (Instr.brx { rf 0 255 2 255 255 with hd := ⟨false, false, 0#3⟩ }).check 256 = some 3 ∧
    (Instr.redx (rf 3 4 1 255 0)).check 256 ≠ none ∧ (Instr.cvt (rf 0 3 1 0 0xEE)).check 256 ≠ none := by decide +kernel

theorem test_illformed_I_L_M :
    (Instr.shlImm (imf 0 3 1 32)).check 256 ≠ none ∧ (Instr.iaddImm { imf 0 3 1 0 with sc := 1#4 }).check 256 = some 1 ∧
    (Instr.iaddImm { imf 0 3 1 0 with fs := 1#3 }).check 256 = some 1 ∧ (Instr.bkpt { imf 0 255 255 0 with hd := ⟨false, true, 7#3⟩ }).check 256 = some 3 ∧
    (Instr.movl ⟨hd7, 0#32, 3#8, 2#4⟩).check 256 = some 0 ∧ (Instr.gate ⟨hd7, 0#32, 3#8, 0#4⟩).check 256 = some 2 ∧
    (Instr.ld (mf 7 3 1)).check 256 = some 0 ∧ (Instr.st (mf 1 3 1)).check 256 = some 0 ∧
    (Instr.ld { mf 4 3 1 with scope := 12#4 }).check 256 = some 4 ∧ (Instr.ld { mf 4 3 1 with hint := 4#4 }).check 256 = some 1 ∧
    (Instr.ld (mf 5 3 1)).check 256 = some 2 ∧ (Instr.ld (mf 6 2 1)).check 256 = some 2 ∧ (Instr.red (mf 8 3 1)).check 256 = some 0 := by
  decide +kernel

theorem test_illformed_B_Y :
    (Instr.bra ⟨⟨false, false, 3#3⟩, 0#8, 2#24⟩).check 256 = some 3 ∧ (Instr.bany ⟨hd7, 8#8, 2#24⟩).check 256 ≠ none ∧
    (Instr.call ⟨hd7, 3#8, 2#24⟩).check 256 = some 2 ∧ (Instr.bar (yf 1 255 255 255 0)).check 256 = some 0 ∧
    (Instr.trap (yf 0 3 255 255 0)).check 256 = some 2 ∧ (Instr.gets (yf 0 3 255 255 0x1A)).check 256 = some 5 ∧
    (Instr.sets (yf 0 255 3 255 0)).check 256 = some 5 ∧ (Instr.kvapp (yf 0 4 6 255 8)).check 256 = some 6 ∧
    (Instr.kvnew (yf 0 3 255 255 1)).check 256 = some 1 ∧ (Instr.kvmap (yf 4 4 6 8 0)).check 256 = some 0 ∧
    (Instr.cpy { yf 0 8 255 255 0 with hd := ⟨false, false, 1#3⟩ }).check 256 = some 3 := by decide +kernel

theorem test_illformed_tile_stream :
    (Instr.cadd (gf 2 3 1 2 0 0 0 0 0)).check 256 = some 0 ∧ (Instr.cnop (gf 0 1 0 0 0 0 0 0 0)).check 256 = some 1 ∧
    (Instr.apadd (gf 0 8 0 1 0 0 0 0 0)).check 256 = some 2 ∧ (Instr.mma (gf 0 4 0 0 0 0 0 1 1)).check 256 = some 2 ∧
    (Instr.jmp ⟨2, 3, 0, 0, 0, 0⟩).check 256 = some 6 ∧ (Instr.loop ⟨0x80000, 0, 0, 1, 0, 0⟩).check 256 = some 6 ∧
    (Instr.vcas ⟨24, 6, 6, 0, 0, 0, 0, false, 0, 0, 0, 0, 0, 0, 0⟩).check 256 = some 0 ∧
    (Instr.vcas ⟨6, 6, 6, 0, 0, 0, 0, true, 0, 0, 0, 0, 0, 1, 0⟩).check 256 = some 2 ∧
    (Instr.csets (gf 0 0 3 0 0 2 0 0 0)).check 256 = some 5 ∧ (Instr.tileRound (gf 0 0 3 0 0 0 0 5 0)).check 256 = some 4 ∧
    (Instr.sigevSet ⟨0#8, 0x18005#50⟩).check 256 = some 0 ∧ (Instr.halt ⟨0#8, 1#50⟩).check 256 = some 1 ∧
    (Instr.xfer ⟨0#8, 0x2000000000000#50⟩).check 256 = some 1 := by decide +kernel

/-! ### Words written out bit by bit from the encodings -/

theorem test_decode_lane_formats :
    okIs (decodeLane 0x0000FF0201037010#64) (.iadd (rf 0 3 1 2 255)) = true ∧
    okIs (decodeLane 0x8000FF020103A110#64) (.iadd { rf 1 3 1 2 255 with hd := ⟨true, true, 2#3⟩ }) = true ∧
    okIs (decodeLane 0x0000FFFF01037030#64) (.iaddImm (imf 0 3 1 0xFFFF)) = true ∧
    okIs (decodeLane 0x0012345678037028#64) (.movl ⟨hd7, 0x12345678#32, 3#8, 0#4⟩) = true ∧
    okIs (decodeLane 0x07FF803001047490#64) (.ld { mf 4 4 1 with off := 0xFFF0#16 }) = true ∧
    okIs (decodeLane 0x000009FFFFFF70D0#64) (.trap (yf 0 255 255 255 9)) = true ∧
    okIs (decodeLane 0x0000100002FF70C8#64) (.gate ⟨hd7, 0x00100002#32, 255#8, 0#4⟩) = true ∧
    okIs (decodeLane 0x1010040201037043#64) (.fma { rf 0 3 1 2 4 with fs := 1#3, mods := 0x10#6 }) = true ∧
    okIs (decodeLane 0x00E804020103701D#64) (.lop3 { rf 0 3 1 2 4 with cl := 3#2, mods := 0x28#6 }) = true ∧
    okIs (decodeLane 0x00003E0000027480#64) (.call ⟨hd7, 62#8, 2#24⟩) = true ∧
    -- printed in 04 R91
    okIs (decodeLane 0x0000000204FF70A0#64) (.xlat ⟨hd7, 0#4, 0#16, 0#4, 0#4, 2#3, 4#8, 255#8, 0#4⟩) = true := by decide +kernel

theorem test_decode_lane_families :
    okIs (decodeLane 0x0000040201037152#64) (.hfma2 (rf 1 3 1 2 4)) = true ∧
    okIs (decodeLane 0x0000FF0201037358#64) (.padd4 (rf 3 3 1 2 255)) = true ∧
    okIs (decodeLane 0x0000040201037060#64) (.dot4 (rf 0 3 1 2 4)) = true ∧
    okIs (decodeLane 0x0000300001037068#64) (.cvt (rf 0 3 1 0 0x30)) = true ∧
    okIs (decodeLane 0x0000FFFF01037570#64) (.sin (rf 5 3 1 255 255)) = true ∧
    okIs (decodeLane 0x0000FF0007067379#64) (.vote (rf 3 6 7 0 255)) = true ∧
    okIs (decodeLane 0x0000FF000706737C#64) (.plopAndn (rf 3 6 7 0 255)) = true ∧
    okIs (decodeLane 0x0000003001037895#64) (.atom { mf 8 3 1 with scope := 6#4 }) = true ∧
    okIs (decodeLane 0x000003FF060470E2#64) (.kvapp (yf 0 4 6 255 3)) = true ∧
    okIs (decodeLane 0x0000070405FF70B4#64) (.waitb (yf 0 255 5 4 7)) = true := by decide +kernel

theorem test_decode_tile_and_stream :
    okIs (decodeTile 0x0000000008230002#64) (.cadd (gf 0 3 1 2 0 0 0 0 0)) = true ∧
    okIs (decodeTile 0xFFFF840000000010#64) (.jmp ⟨0xFFFF8, 1, 0, 0, 0, 0⟩) = true ∧
    okIs (decodeTile 0xDEADBEEF0003000C#64) (.cmovi ⟨0xDEADBEEF, 0, 0, 3, 0⟩) = true ∧
    okIs (decodeTile 0x0000100000070120#64) (.apset ⟨0x1000, 0, 0, 7, 0⟩) = true ∧
    okIs (decodeTile 0x318600000041FA43#64) (.vcas ⟨6, 6, 3, 0, 0, 0, 0, false, 0, 0, 0, 2, 1, 31, 3⟩) = true ∧
    okIs (decodeTile 0x000011001CE30361#64) (.mma (gf 0 3 7 7 0 0 0 1 1)) = true ∧
    -- printed in 07 R190
    okIs (decodeTile 0x32C6840001205240#64) (.vcas ⟨6, 11, 3, 8, 8, 0, 0, false, 0, 0, 0, 9, 0, 10, 0⟩) = true ∧
    okIs (decodeStream 0x0000001000014004#64) (.waitev ⟨0#8, 0x400005#50⟩) = true ∧
    okIs (decodeStream 0x00003FFFFFFFC008#64) (.jump ⟨0#8, 0xFFFFFFFF#50⟩) = true ∧
    okIs (decodeStream 0x00000000000000C9#64) (.halt ⟨3#8, 0#50⟩) = true ∧
    okIs (decodeStream 0x0000001850014003#64) (.sigevAdd ⟨0#8, 0x614005#50⟩) = true := by decide +kernel

theorem test_reserved_words :
    isOk (decodeLane 0#64) = false ∧ isOk (decodeTile 0#64) = false ∧ isOk (decodeStream 0#64) = false ∧
    isOk (decodeLane 0x00000000000070A1#64) = false ∧ isOk (decodeTile 0x0000000008230102#64) = false ∧
    isOk (decodeStream 0x000000000000000B#64) = false ∧ isOk (decodeLane 0x0000000000027580#64) = false := by decide +kernel

/-! ### Single steps, against the examples of the spec and hand calculation -/

/-- Register `key` of group 2 after an instruction. -/
def reg (r : Host.Outcome State Fault Refusal) (key : Nat) : DWord :=
  match r with
  | .next t => ((KMap.look t.groups 2).map (fun g => g.cur key)).getD 0xDEAD#64
  | _ => 0xDEAD#64
/-- Group 2 after an instruction. -/
def grp (r : Host.Outcome State Fault Refusal) : Option Group :=
  match r with
  | .next t => KMap.look t.groups 2
  | _ => none
/-- The tile context of half 1 after an operation. -/
def til (r : Host.Outcome State Fault Refusal) : Option Tile :=
  match r with
  | .next t => (KMap.look t.halves 1).bind (fun h => h.tile)
  | _ => none
/-- Lane register `r` of lane `i` set. -/
def lset (g : Group) (l : List (Nat × Nat × Word)) : Group := { g with v := l.foldl (fun m e => m.set (64 * e.1 + e.2.1) e.2.2) g.v }

/-- The example of 02 R53: packed E4M3 addition. -/
theorem test_padd4_example :
    let g := lset labG [(0, 0, 0xB8407F7E#32), (1, 0, 0x38203860#32)]
    let r := exec (.padd4 (rf 0 2 0 1 255)) (lab g)
    reg r (kv 2 0) = 0x00407F7F#64 ∧ ((grp r).map (fun g => g.fx.get 0)) = some 0x14#32 ∧
      reg (exec (.padd4 { rf 0 2 0 1 255 with cl := 2#2 }) (lab g)) (kv 2 0) = 0x00407F7E#64 := by decide +kernel

/-- The truth table of A ∧ (B ∨ C) is 0x07 (04 R86). -/
theorem test_lop3_example :
    let g := lset labG [(1, 0, 0xF0F0FF00#32), (2, 0, 0xCCCCCCCC#32), (4, 0, 0xAAAAAAAA#32)]
    reg (exec (.lop3 { rf 0 3 1 2 4 with cl := 0#2, mods := 7#6 }) (lab g)) (kv 3 0) = 0xE0E0EE00#64 := by decide +kernel

/-- Integer wraps and clamps (04 R84, R85): the sum 2^31 + 16 saturates with satfmt and wraps without. -/
theorem test_iadd_overflow :
    let g := lset labG [(1, 0, 0x7FFFFFF0#32), (2, 0, 0x20#32)]
    reg (exec (.iadd { rf 0 3 1 2 255 with cl := 2#2 }) (lab g)) (kv 3 0) = 0x7FFFFFFF#64 ∧
    reg (exec (.iadd (rf 0 3 1 2 255)) (lab g)) (kv 3 0) = 0x80000010#64 := by decide +kernel

/-- The high word of −1 × −1 is 0 as s32 and 2^32 − 2 as n32 (04 R85). -/
theorem test_imulh_signs :
    let g := lset labG [(1, 0, 0xFFFFFFFF#32)]
    reg (exec (.imulh (rf 0 3 1 1 255)) (lab g)) (kv 3 0) = 0#64 ∧ reg (exec (.imulh (rf 1 3 1 1 255)) (lab g)) (kv 3 0) = 0xFFFFFFFE#64 := by
  decide +kernel

/-- The group of 04 R111: 15 launched lanes, `em` = 0x7FF0, `v4` = 100 + i, `k1` all ones, `g5` = 2. -/
def splitG : Group :=
  let g := gset labG [(5, 2#32)]
  { lset g ((List.range 15).map (fun i => (4, i, BitVec.ofNat 32 (100 + i)))) with live := 0x7FFF#64, em := 0x7FF0#64, k := g.k.set 1 0xFFFF#64 }

/-- The example of 04 R111: `shfl.down`. -/
theorem test_shfl_example :
    let r := exec (.shfl { rf 2 9 4 5 255 with fs := 1#3 }) (lab splitG)
    reg r (kv 9 4) = 106#64 ∧ reg r (kv 9 12) = 114#64 ∧ reg r (kv 9 13) = 0#64 ∧ reg r (kv 9 14) = 100#64 ∧ reg r (kv 9 3) = 0#64 := by
  decide +kernel

/-- The example of 04 R111: `vote.ballot` and `redx.add.s32`. -/
theorem test_ballot_and_redx_example :
    reg (exec (.vote (rf 2 6 1 255 255)) (lab splitG)) (kg 6) = 0x7FF0#64 ∧ reg (exec (.vote (rf 2 6 1 255 255)) (lab splitG)) (kg 7) = 0#64 ∧
    reg (exec (.redx (rf 0 8 4 255 1)) (lab splitG)) (kg 8) = 1199#64 := by decide +kernel

/-- The tree of 02 R58, in the example of 04 R111: (1 + 2^24) + (1 − 2^24) is 1.0. -/
theorem test_redx_tree_example :
    let g := { lset labG [(4, 0, 0x3F800000#32), (4, 1, 0x4B800000#32), (4, 2, 0x3F800000#32), (4, 3, 0xCB800000#32)] with em := 0xF#64 }
    reg (exec (.redx (rf 0 8 4 255 0)) (lab g)) (kg 8) = 0x3F800000#64 := by decide +kernel

/-- The example of 04 R109: lanes 0 to 3 hold 7, 9, 7 and 7. -/
theorem test_match_example :
    let g := { lset labG [(1, 0, 7#32), (1, 1, 9#32), (1, 2, 7#32), (1, 3, 7#32)] with em := 0xF#64 }
    let l := exec (.matchL (rf 0 4 1 255 255)) (lab g)
    let k := exec (.matchL (rf 1 4 1 255 255)) (lab g)
    [0, 1, 2, 3].map (fun j => (reg l (kv 4 j)).toNat) = [0, 1, 0, 0] ∧ [0, 1, 2, 3].map (fun j => (reg l (kv 5 j)).toNat) = [3, 1, 3, 3] ∧
    [0, 1, 2, 3].map (fun j => (reg k (kv 4 j)).toNat) = [0, 0, 1, 2] := by decide +kernel

/-- The example of 04 R99: `dot4s.e4m3` in lane 3 gives 3.75 without a flag. -/
theorem test_dot4s_example :
    let g := lset labG [(8, 0, 0x00007F80#32), (1, 3, 0x00B04038#32), (2, 3, 0x7E38283C#32), (10, 3, 0x3F400000#32)]
    let r := exec (.dot4s (rf 0 10 1 2 8)) (lab { g with em := 8#64 })
    reg r (kv 10 3) = 0x40700000#64 ∧ ((grp r).map (fun g => g.fx.get 3)) = some 0#32 := by decide +kernel

/-- A local byte read with its sign, and one without (05 R124). -/
theorem test_ld_sign :
    let g := locG 8#32
    let s := labHalf g { labH with spad := Regs.set [] 8 0x80#8 }
    reg (exec (.ld (mf 1 3 1)) s) (kv 3 0) = 0xFFFFFF80#64 ∧ reg (exec (.ld (mf 0 3 1)) s) (kv 3 0) = 0x80#64 := by decide +kernel

/-- A branch back by one word, and a link (05 R112, R113). -/
theorem test_branch_and_call :
    let g := { labG with pc := 0x100010#64 }
    ((grp (exec (.bra ⟨hd7, 0#8, 0xFFFFFF#24⟩) (lab g))).map (fun g => g.pc)) = some 0x100008#64 ∧
    reg (exec (.call ⟨hd7, 62#8, 2#24⟩) (lab g)) (kg 62) = 0x100018#64 := by decide +kernel

/-- Rows 0 to 2 of the softmax step of 07 R190, element by element: z and the flags. -/
theorem test_vcas_example :
    let e (w0 w9 w8 : Nat) : Nat × Word := let r := casElem (envOf 0#32) fp32 0 0 3 11 6 w0 w9 w8 w8; (r.1, r.2.2)
    e 0x40400000 0x3F000000 0x3F800000 = (0x3FB504F3, 0x10#32) ∧ e 0xFF800000 0x3F000000 0x3F800000 = (0, 0#32) ∧
    e 0xFF800000 0x3F000000 0xFF800000 = (0x7FFFFFFF, 1#32) := by decide +kernel

/-- The example of 13 R305: `tskip` under a causal window of 4 with retirement, at keys 0 and at keys 128. -/
theorem test_tskip_example :
    let sp : Regs 8 := (Regs.setSlice [] 0x1000 (leBytes 8 0x13)).setSlice 0x1008 (leBytes 8 4)
    let t : Tile := { tileT with c := [(4, 10#32), (6, 128#32)], ap := [(1, 0x1000#64)] }
    ((til (exec (.tskip (gf 0 3 4 5 0 0 1 0 0)) (tileS t sp))).map (fun t => t.c.get 3)) = some 0#32 ∧
    ((til (exec (.tskip (gf 0 3 4 6 0 0 1 0 0)) (tileS t sp))).map (fun t => t.c.get 3)) = some 1#32 := by decide +kernel

/-- Tile scalars: an immediate is sign-extended, and a logical one is not (07 R174). -/
theorem test_tile_immediates :
    ((til (exec (.cadd (gf 1 3 0 0 0 0xFFFF 0 0 0)) (tileS tileT []))).map (fun t => t.c.get 3)) = some 0xFFFFFFFF#32 ∧
    ((til (exec (.cor (gf 1 3 0 0 0 0xFFFF 0 0 0)) (tileS tileT []))).map (fun t => t.c.get 3)) = some 0xFFFF#32 := by decide +kernel

/-- A stream's jump back by one word (22 R394). -/
theorem test_stream_jump :
    (match exec (.jump ⟨0#8, 0xFFFFFFFF#50⟩) (strS strX []) with
      | .next t => (KMap.look t.streams 0).map (fun x => x.pc.toNat)
      | _ => none) = some 0x0FFFF8 := by decide +kernel

/-- The words that the host asks about run: the decoder gives the row's instruction. -/
theorem test_decodeTableWord :
    decodeTableWord 64 0x0000FF0201037010 = some (.iadd (rf 0 3 1 2 255)) ∧ decodeTableWord 64 0 = none := by decide +kernel

end Sys2Proof.Tests
end

section
/-! PROOFS. Comparison and `lea` (04 R89, R90): what a passed check says of the fields, the opcode of a word, and what the
registers of the enabled lanes hold behind a lane instruction. -/
namespace Sys2Proof

/-! ### Checks and words -/

/-- A form is legal where every one of its checks passes. -/
theorem firstCause_eq_none_iff (l : List (Bool × Nat)) : firstCause l = none ↔ ∀ e ∈ l, e.1 = false := by
  simp [firstCause]

/-- A reserved sub-opcode is CAUSE 0, the first check of the R format. -/
theorem checkR_sub_reserved (n : Nat) (f : RFmt) (w : Allow) (d a b c : Cls) :
    checkR n f false w d a b c = some 0 := rfl

/-- A reserved sub-opcode is CAUSE 0, the first check of the I format. -/
theorem checkI_sub_reserved (n : Nat) (f : IFmt) (w : Allow) (d a : Cls) : checkI n f false w d a = some 0 := rfl

/-- A legal R-format form: its sub-opcode, its modifiers, and the classes of D and C. -/
theorem checkR_legal {n : Nat} {f : RFmt} {ok : Bool} {w : Allow} {d a b c : Cls} (h : checkR n f ok w d a b c = none) :
    ok = true ∧ f.badMods w = false ∧ d.ok n f.d = true ∧ c.ok n f.c = true := by
  have hall := (firstCause_eq_none_iff _).1 h
  simp only [List.append_nil, List.forall_mem_cons, Bool.or_false, Bool.not_eq_false', Bool.and_eq_true] at hall
  obtain ⟨hok, hmods, ⟨⟨⟨hd, _⟩, _⟩, hc⟩, _⟩ := hall
  exact ⟨hok, hmods, hd, hc⟩

/-- A legal I-format form: its sub-opcode and the class of D. -/
theorem checkI_legal {n : Nat} {f : IFmt} {ok : Bool} {w : Allow} {d a : Cls} (h : checkI n f ok w d a = none) :
    ok = true ∧ d.ok n f.d = true := by
  have hall := (firstCause_eq_none_iff _).1 h
  simp only [List.append_nil, List.forall_mem_cons, Bool.not_eq_false', Bool.and_eq_true] at hall
  obtain ⟨hok, _, ⟨hd, _⟩, _⟩ := hall
  exact ⟨hok, hd⟩

/-- A form that allows no modifier and no clamp has none where its modifier check passes. -/
theorem RFmt.plain_of_badMods_eq_false {f : RFmt} (h : f.badMods {} = false) : f.mods = 0#6 ∧ f.cl = 0#2 := by
  simp only [RFmt.badMods, Bool.not_false, Bool.and_true, Bool.or_eq_false_iff, bne_eq_false_iff_eq] at h
  obtain ⟨⟨⟨⟨⟨⟨h0, h1⟩, h2, h3⟩, h4, h5⟩, hcl⟩, _⟩, _⟩ := h
  refine ⟨BitVec.eq_of_getLsbD_eq fun i hi => ?_, hcl⟩
  rw [BitVec.getLsbD_zero]
  obtain rfl | rfl | rfl | rfl | rfl | rfl : i = 0 ∨ i = 1 ∨ i = 2 ∨ i = 3 ∨ i = 4 ∨ i = 5 := by omega
  all_goals assumption

/-- An unused field holds 255 (03 R68). -/
theorem Cls.ok_unused_iff (n : Nat) (x : BitVec 8) : Cls.unused.ok n x = true ↔ x = 255#8 := by
  simp [Cls.ok, ← BitVec.toNat_inj]

/-- A predicate destination is one of k0 to k6 (01 R16). -/
theorem Cls.ok_kdst_iff (n : Nat) (x : BitVec 8) : Cls.kdst.ok n x = true ↔ x.toNat < 7 := by
  simp [Cls.ok]

/-- The upper register of a lane pair is below v255. -/
theorem Cls.succ_lt_of_ok_pair {n : Nat} {x : BitVec 8} (h : Cls.pair.ok n x = true) : x.toNat + 1 < 255 := by
  obtain ⟨_, hlimit⟩ := (Bool.and_eq_true _ _).mp h
  have hlimit : x.toNat + 1 < min n 255 := of_decide_eq_true hlimit
  omega

/-- The low byte of an R-format word is its opcode (03 R62). -/
theorem fld_packR_opcode (op : BitVec 8) (f : RFmt) : fld (packR op f) 0 8 = op.toNat :=
  congrArg BitVec.toNat BitVec.extractLsb'_append_eq_right

/-- The low byte of an I-format word is its opcode (03 R63). -/
theorem fld_packI_opcode (op : BitVec 8) (f : IFmt) : fld (packI op f) 0 8 = op.toNat :=
  congrArg BitVec.toNat BitVec.extractLsb'_append_eq_right

/-- The low word of a 64-bit value as a number. -/
theorem loWord_toNat (x : DWord) : (loWord x).toNat = x.toNat % 2 ^ 32 := BitVec.toNat_setWidth ..

/-- The high word of a 64-bit value as a number. -/
theorem hiWord_toNat (x : DWord) : (hiWord x).toNat = x.toNat / 2 ^ 32 := by
  simp only [hiWord, BitVec.toNat_setWidth, BitVec.toNat_ushiftRight, Nat.shiftRight_eq_div_pow]
  omega

end Sys2Proof

namespace Sys2Proof.Machine

/-! ### The registers of the enabled lanes -/

/-- The record of the group at work. -/
theorem State.atWork.look {s : State} {gid : Nat} {g : Group} {i : Instr} (hw : s.atWork gid g i) :
    KMap.look s.groups gid = some g := hw.2.1

/-- What a group at work may run is legal in it. -/
theorem State.atWork.legal {s : State} {gid : Nat} {g : Group} {i : Instr} (hw : s.atWork gid g i) :
    i.check g.n = none := hw.2.2

/-- An enabled lane lies below W, and below 64 as `em` has 64 bits (01 R19). -/
theorem Group.lt_of_mem_enabled {g : Group} {st : Nat} {h : Head} {j : Nat} (hj : j ∈ g.enabled st h) :
    j < g.width ∧ j < 64 := by
  simp only [Group.enabled, List.mem_filter, List.mem_range, Bool.and_eq_true] at hj
  exact ⟨hj.1, BitVec.lt_of_getLsbD hj.2.1⟩

theorem Group.enabled_nodup (g : Group) (st : Nat) (h : Head) : (g.enabled st h).Nodup :=
  List.nodup_range.filter _

/-- Writes of lanes, each under keys whose residue modulo 64 tells the lane, never meet. -/
theorem Group.enabled_writes_distinct (g : Group) (st : Nat) (h : Head) {f : Nat → Writes} {c : Nat}
    (hone : ∀ j, (f j).Pairwise (fun a b => a.1 ≠ b.1)) (hlane : ∀ j, ∀ e ∈ f j, e.1 % 64 = (c + j) % 64) :
    ((g.enabled st h).flatMap f).Pairwise (fun a b => a.1 ≠ b.1) := by
  refine List.pairwise_flatMap.2 ⟨fun j _ => hone j, (g.enabled_nodup st h).imp_of_mem ?_⟩
  intro i j hi hj hij e he e' he' hkey
  have := (Group.lt_of_mem_enabled hi).2
  have := (Group.lt_of_mem_enabled hj).2
  have := hlane i e he
  have := hlane j e' he'
  omega

/-- What the enabled lanes write, their registers hold when a lane instruction completes. -/
theorem laneOp_writes {i : Instr} {h : Head} {s : State} {f : Group → Nat → Nat → Writes} {gid : Nat} {g : Group} {c : Nat}
    (hw : s.atWork gid g i) (hone : ∀ j, (f g s.stamp j).Pairwise (fun a b => a.1 ≠ b.1))
    (hlane : ∀ j, ∀ e ∈ f g s.stamp j, e.1 % 64 = (c + j) % 64) :
    ∃ t g', laneOp i h s f = .next t ∧ KMap.look t.groups gid = some g' ∧
      ∀ j ∈ g.enabled s.stamp h, ∀ e ∈ f g s.stamp j,
        (30000 ≤ e.1 → e.1 < 40000 → (e.1 - 30000) % 64 < g.width) → g'.cur e.1 = keyVal e.1 e.2 := by
  let W := (g.enabled s.stamp h).flatMap (fun j => f g s.stamp j)
  refine ⟨_, g.finish h.s (g.pc + 8#64) W, laneOp_next hw, ?_, ?_⟩
  · rw [State.updG_eq s gid _ hw.look]
    exact KMap.look_put_same ..
  · intro j hj e he hwidth
    rw [Group.finish_cur]
    exact Group.cur_wrAll_mem _ g e (List.mem_flatMap.2 ⟨j, hj, he⟩) (g.enabled_writes_distinct _ _ hone hlane) hwidth

/-- An instruction that writes one bit of a predicate in each enabled lane leaves these bits there. -/
theorem predResult_of_laneOp {i : Instr} {d : BitVec 8} {P : Group → Nat → Nat → Bool}
    (hx : ∀ s, exec i s = laneOp i (headOf i) s (fun g st j => wK d j (P g st j)))
    (hd : ∀ n, i.check n = none → d.toNat < 7) : PredResult i d P := by
  intro s gid g hw
  have hd : d.toNat < 7 := hd g.n hw.legal
  obtain ⟨t, g', ht, hg', hcur⟩ := laneOp_writes (h := headOf i) (f := fun g st j => wK d j (P g st j)) (c := 30000) hw
    (fun j => List.pairwise_singleton ..) (fun j e he => by rw [List.mem_singleton.1 he]; dsimp only [kk]; omega)
  refine ⟨t, g', (hx s).trans ht, hg', fun j hj => ?_⟩
  obtain ⟨hjw, hj64⟩ := Group.lt_of_mem_enabled hj
  have hkey := hcur j hj _ (List.mem_singleton_self _) (fun _ _ => by dsimp only [kk]; omega)
  rw [hkey, keyVal, if_neg (by unfold kk; omega), if_pos (by unfold kk; omega)]
  cases P g s.stamp j <;> rfl

/-- The two writes of a lane pair whose upper register is no `vz`. -/
theorem wVPair_eq {d : BitVec 8} (hd : d.toNat + 1 < 255) (j : Nat) (x : DWord) :
    wVPair d j x = [(kv d.toNat j, (loWord x).setWidth 64), (kv (d.toNat + 1) j, (hiWord x).setWidth 64)] := by
  have hne : ∀ y : BitVec 8, y.toNat < 255 → (y == 255#8) = false := by
    intro y hy
    simp only [beq_eq_false_iff_ne, ne_eq, ← BitVec.toNat_inj]
    exact Nat.ne_of_lt hy
  have hup : (d + 1#8).toNat = d.toNat + 1 := by
    rw [BitVec.toNat_add]
    exact Nat.mod_eq_of_lt (show d.toNat + 1 < 256 by omega)
  simp [wVPair, wV, hne d (by omega), hne (d + 1#8) (by omega), hup]

/-- A lane register as a number after a write of `x`. -/
theorem keyVal_kv_toNat {r j : Nat} (hr : r < 256) (hj : j < 64) (x : Word) :
    (keyVal (kv r j) (x.setWidth 64)).toNat = x.toNat := by
  rw [keyVal, if_pos (by unfold kv; omega), BitVec.setWidth_setWidth_of_le x (by decide), BitVec.setWidth_eq]
  exact BitVec.toNat_setWidth_of_le (by decide)

/-- An instruction that writes a pair in each enabled lane leaves both words there. -/
theorem pair_of_laneOp {i : Instr} {d : BitVec 8} {X : Group → Nat → Nat → DWord} {s : State} {gid : Nat} {g : Group}
    (hx : exec i s = laneOp i (headOf i) s (fun g st j => wVPair d j (X g st j))) (hd : d.toNat + 1 < 255)
    (hw : s.atWork gid g i) :
    ∃ t g', exec i s = .next t ∧ KMap.look t.groups gid = some g' ∧ ∀ j ∈ g.enabled s.stamp (headOf i),
      (g'.cur (kv d.toNat j)).toNat = (X g s.stamp j).toNat % 2 ^ 32 ∧
        (g'.cur (kv (d.toNat + 1) j)).toNat = (X g s.stamp j).toNat / 2 ^ 32 := by
  have hlane : ∀ j, ∀ e ∈ wVPair d j (X g s.stamp j), e.1 % 64 = (0 + j) % 64 := by
    simp only [wVPair_eq hd, List.forall_mem_cons, kv]
    exact fun j => ⟨by omega, by omega, by simp⟩
  obtain ⟨t, g', ht, hg', hcur⟩ := laneOp_writes (h := headOf i) (f := fun g st j => wVPair d j (X g st j)) hw
    (fun j => by simp only [wVPair_eq hd, List.pairwise_pair, kv]; omega) hlane
  refine ⟨t, g', hx.trans ht, hg', fun j hj => ?_⟩
  have hcur := hcur j hj
  simp only [wVPair_eq hd, List.forall_mem_cons] at hcur
  obtain ⟨hlow, hhigh, _⟩ := hcur
  have hj64 := (Group.lt_of_mem_enabled hj).2
  rw [hlow (by unfold kv; omega), hhigh (by unfold kv; omega), keyVal_kv_toNat (by omega) hj64,
    keyVal_kv_toNat (by omega) hj64]
  exact ⟨loWord_toNat _, hiWord_toNat _⟩

/-! ### `iset` -/

/-- SUB 0, 1, 8 and 9: equal and not equal, whatever bit 3 says (04 R89). -/
theorem isetRel_equality (a b : Word) :
    isetRel 0 a b = decide (a = b) ∧ isetRel 8 a b = decide (a = b) ∧
      isetRel 1 a b = decide (a ≠ b) ∧ isetRel 9 a b = decide (a ≠ b) :=
  ⟨rfl, rfl, decide_not.symm, decide_not.symm⟩

theorem not_slt_eq_decide (a b : Word) : (!a.slt b) = decide (b.toInt ≤ a.toInt) := by
  rw [BitVec.slt_eq_decide, ← decide_not, decide_eq_decide, Int.not_lt]

theorem not_ult_eq_decide (a b : Word) : (!a.ult b) = decide (b.toNat ≤ a.toNat) := by
  rw [BitVec.ult_eq_decide, ← decide_not, decide_eq_decide, Nat.not_lt]

/-- SUB 2 to 5: the order of the signed values (04 R89). -/
theorem isetRel_signed (a b : Word) :
    isetRel 2 a b = decide (a.toInt < b.toInt) ∧ isetRel 3 a b = decide (a.toInt ≤ b.toInt) ∧
      isetRel 4 a b = decide (b.toInt < a.toInt) ∧ isetRel 5 a b = decide (b.toInt ≤ a.toInt) :=
  ⟨rfl, not_slt_eq_decide b a, rfl, not_slt_eq_decide a b⟩

/-- SUB 10 to 13: the order of the unsigned values (04 R89). -/
theorem isetRel_unsigned (a b : Word) :
    isetRel 10 a b = decide (a.toNat < b.toNat) ∧ isetRel 11 a b = decide (a.toNat ≤ b.toNat) ∧
      isetRel 12 a b = decide (b.toNat < a.toNat) ∧ isetRel 13 a b = decide (b.toNat ≤ a.toNat) :=
  ⟨rfl, not_ult_eq_decide b a, rfl, not_ult_eq_decide a b⟩

/-- The twelve values of SUB that name a relation (04 R89). -/
theorem iset_sub_cases {s : Nat} (hlt : s < 16) (h : isetSubOk s = true) :
    (s = 0 ∨ s = 8 ∨ s = 1 ∨ s = 9) ∨ (s = 2 ∨ s = 3 ∨ s = 4 ∨ s = 5) ∨ s = 10 ∨ s = 11 ∨ s = 12 ∨ s = 13 := by
  have : s % 8 < 6 := of_decide_eq_true h
  omega

theorem iset_sub_reserved {s : Nat} (h : 6 ≤ s % 8) : isetSubOk s = false := decide_eq_false (by omega)

theorem iset_legal {n : Nat} {f : RFmt} (h : Instr.check n (.iset f) = none) :
    isetSubOk f.sub.toNat = true ∧ f.d.toNat < 7 ∧ f.c = 255#8 := by
  obtain ⟨hsub, _, hd, hc⟩ := checkR_legal h
  exact ⟨hsub, (Cls.ok_kdst_iff _ _).1 hd, (Cls.ok_unused_iff _ _).1 hc⟩

theorem isetImm_legal {n : Nat} {f : IFmt} (h : Instr.check n (.isetImm f) = none) :
    isetSubOk f.sub.toNat = true ∧ f.d.toNat < 7 := by
  obtain ⟨hsub, hd⟩ := checkI_legal h
  exact ⟨hsub, (Cls.ok_kdst_iff _ _).1 hd⟩

/-- `iset` writes the model's relation of A and B. -/
theorem iset_predResult (f : RFmt) :
    PredResult (.iset f) f.d (fun g st j => isetRel f.sub.toNat (g.rv st f.a j) (g.rB st f j)) :=
  predResult_of_laneOp (exec_iset f) fun _ h => (iset_legal h).2.1

/-- The immediate form writes the model's relation of A and the sign-extended immediate. -/
theorem isetImm_predResult (f : IFmt) :
    PredResult (.isetImm f) f.d (fun g st j => isetRel f.sub.toNat (g.rv st f.a j) (f.imm.signExtend 32)) :=
  predResult_of_laneOp (exec_isetImm f) fun _ h => (isetImm_legal h).2

/-- A predicate result may be told in any words that agree where the instruction is legal. -/
theorem PredResult.congr {i : Instr} {d : BitVec 8} {P Q : Group → Nat → Nat → Bool} (h : PredResult i d P)
    (hPQ : ∀ n, i.check n = none → P = Q) : PredResult i d Q := by
  intro s gid g hw
  rw [← hPQ g.n hw.legal]
  exact h s gid g hw

/-- Settles O4: each legal SUB names one relation of the model's `isetRel`; the checks and the opcodes stand beside it. -/
theorem compareResults : Obligations.CompareResults := by
  unfold Obligations.CompareResults
  intro rel
  have hrel : ∀ sub : BitVec 4, isetSubOk sub.toNat = true → isetRel sub.toNat = rel sub := by
    intro sub hsub
    funext a b
    have hcases := iset_sub_cases sub.isLt hsub
    dsimp only [rel]
    generalize sub.toNat = n at hcases
    obtain (rfl | rfl | rfl | rfl) | (rfl | rfl | rfl | rfl) | rfl | rfl | rfl | rfl := hcases
    all_goals simp only [isetRel_equality, isetRel_signed, isetRel_unsigned]
  refine ⟨fun f => ?_, fun f => ?_, fun f n => ⟨fun hsub => ?_, fun hc => ?_, ?_⟩, fun f n => ⟨fun hsub => ?_, ?_⟩⟩
  · exact (iset_predResult f).congr fun _ h => by rw [hrel _ (iset_legal h).1]
  · exact (isetImm_predResult f).congr fun _ h => by rw [hrel _ (isetImm_legal h).1]
  · rw [Instr.check, iset_sub_reserved hsub, checkR_sub_reserved]
  · exact Option.ne_none_iff_exists'.1 fun h => hc (iset_legal h).2.2
  · exact fld_packR_opcode 0x26 f
  · rw [Instr.check, iset_sub_reserved hsub, checkI_sub_reserved]
  · exact fld_packI_opcode 0x38 f

/-! ### `lea` -/

theorem lea_legal {n : Nat} {f : RFmt} (h : Instr.check n (.lea f) = none) :
    f.c = 255#8 ∧ f.mods = 0#6 ∧ f.cl = 0#2 ∧ f.d.toNat + 1 < 255 := by
  obtain ⟨_, hmods, hd, hc⟩ := checkR_legal h
  obtain ⟨hm, hcl⟩ := RFmt.plain_of_badMods_eq_false hmods
  exact ⟨(Cls.ok_unused_iff _ _).1 hc, hm, hcl, Cls.succ_lt_of_ok_pair hd⟩

/-- The address that `lea` forms in lane `j` (04 R90). -/
def leaAddr (f : RFmt) (g : Group) (st j : Nat) : DWord :=
  let a : DWord := if f.sub.getLsbD 2 then (g.rv st f.a j).signExtend 64 else (g.rv st f.a j).setWidth 64
  g.rgPair st f.b + (a <<< (f.sub.toNat % 4))

theorem exec_lea_leaAddr (f : RFmt) (s : State) :
    exec (.lea f) s = laneOp (.lea f) f.hd s (fun g st j => wVPair f.d j (leaAddr f g st j)) := rfl

/-- The address as a number: the shift and the sum are modulo 2^64. -/
theorem leaAddr_toNat (f : RFmt) (g : Group) (st j : Nat) :
    (leaAddr f g st j).toNat = ((g.rgPair st f.b).toNat +
      (if f.sub.getLsbD 2 then ((g.rv st f.a j).signExtend 64).toNat else (g.rv st f.a j).toNat) * 2 ^ (f.sub.toNat % 4)) %
        2 ^ 64 := by
  have hzero : ((g.rv st f.a j).setWidth 64).toNat = (g.rv st f.a j).toNat := BitVec.toNat_setWidth_of_le (by omega)
  simp only [leaAddr, BitVec.toNat_add, BitVec.toNat_shiftLeft, Nat.shiftLeft_eq, Nat.add_mod_mod, apply_ite BitVec.toNat, hzero]

/-- Settles O5: the pair that each enabled lane writes is `leaAddr`, and the checks name the forms that `lea` has not. -/
theorem leaResult : Obligations.LeaResult := by
  refine ⟨fun f s gid g hw => ?_, fun f n => ⟨fun hsub => ?_, fun hbad => ?_, ?_⟩⟩
  · obtain ⟨_, _, _, hd⟩ := lea_legal hw.legal
    simp only [← leaAddr_toNat]
    exact pair_of_laneOp (exec_lea_leaAddr f s) hd hw
  · rw [Instr.check, decide_eq_false (by omega), checkR_sub_reserved]
  · refine Option.ne_none_iff_exists'.1 fun h => ?_
    obtain ⟨hc, hmods, hcl, _⟩ := lea_legal h
    simp [hc, hmods, hcl] at hbad
  · exact fld_packR_opcode 0x29 f

end Sys2Proof.Machine
end
